-- ==== Sys2Proof/Word.lean ====
section
/-! DEFINITION. The word types of Basam (R2, R5: registers are 32 bits wide, counters 64). -/

namespace Sys2Proof

/-- One byte of a packet, record, ring entry or register (R2). -/
abbrev Byte := BitVec 8
/-- A 16-bit field. -/
abbrev W16 := BitVec 16
/-- A register (R5) or a 32-bit field. -/
abbrev W32 := BitVec 32
/-- A counter (R5), KTIME (R69) or a 64-bit field. -/
abbrev W64 := BitVec 64
/-- A SHA-384 digest (R186, R321). -/
abbrev Hash384 := BitVec 384
/-- A 32-byte key (R326). -/
abbrev Key256 := BitVec 256
/-- An uncompressed P-384 public key, 97 bytes (R319). -/
abbrev PubKey := BitVec 776
/-- An ECDSA signature r then s, 96 bytes (R319). -/
abbrev Sig := BitVec 768

end Sys2Proof
end

