-- ==== Sys2Proof/Types.lean ====
section
/-! DEFINITION. The plain records that commands carry and that State holds: capability figures, the configuration capsule, catalogue entries, budgets, request records and the frames of the pair channel. -/

namespace Sys2Proof

/-- The three sizes of the part (00_scope, capability table; R1, R37). -/
inductive Size where
  | L | M | S
deriving DecidableEq, Repr, Inhabited

/-- The ports by which a register access arrives (R43, R47). -/
inductive Port where
  | hif | mbx
deriving DecidableEq, Repr, Inhabited

/-- The five wakeable domains, numbered as KPR_SOFT_RESET.DOMAIN numbers them (R81). -/
inductive Dom where
  | registrar | curator | intake | docent | control
deriving DecidableEq, Repr, Inhabited

/-- The three reset pins (R67). -/
inductive ResetPin where
  | por | fence | blk
deriving DecidableEq, Repr, Inhabited

/-- What the archive device's JESD216 parameter table reports (R62): density in Mbit, 4-byte addressing, quad transfers. -/
structure ArcTable where
  mbit : Nat := 0
  fourByte : Bool := false
  quad : Bool := false
deriving DecidableEq, Repr, Inhabited

/-- A copy of the PUF helper data as phase 0x02 finds it (R83): whether its CRC-32C holds, and whether the key reconstructed from it meets the check value. -/
structure HelperCopy where
  crcOk : Bool := false
  keyOk : Bool := false
deriving DecidableEq, Repr, Inhabited

/-- What phase 0x02 finds (R62, R83): the flash's parameter table, if one is read, and copies 0 and 1 of the helper data. -/
structure PufScan where
  table : Option ArcTable := none
  copy0 : HelperCopy := {}
  copy1 : HelperCopy := {}
deriving DecidableEq, Repr, Inhabited

/-- What phase 0x05 finds (R83, R88): whether every region was initialised, and the slots of preserved records whose CRC fails. -/
structure RegionScan where
  ok : Bool := false
  badRecords : List Nat := []
deriving DecidableEq, Repr, Inhabited

/-- The regions of the archive flash (R82). -/
inductive ArcRegion where
  | directory | helper | capsule | image | slotA | slotB | journal
deriving DecidableEq, Repr, Inhabited

/-- Request states and their codes (R20). -/
inductive ReqState where
  | queued | prefill | running | held | recalled | deaccessioned
deriving DecidableEq, Repr, Inhabited

/-- Pair states, in code order (R341). -/
inductive PairState where
  | unpaired | alone | joining | paired | fencing | degraded | takeover | survivor | yielded
deriving DecidableEq, Repr, Inhabited

/-- The capability figures of the IDN window (R36, R37). -/
structure Caps where
  rows : Nat := 0
  wingMask : Nat := 0
  records : Nat := 0
  trees : Nat := 0
  lanes : Nat := 0
  galleries : Nat := 0
  largestK : Nat := 0
  vreg : Nat := 0
  catEntries : Nat := 0
  sramKib : Nat := 0
  maxShards : Nat := 0
  specWidth : Nat := 0
  stopSeqs : Nat := 0
  tokenBits : Nat := 0
  logprobs : Nat := 0
  methods : Nat := 0
deriving DecidableEq, Repr, Inhabited

/-- A gallery's budget block, in the units of GALLERY_BUDGET (R109, R453). -/
structure Budget where
  rate : Nat := 0
  burst : Nat := 0
  concurrency : Nat := 0
  loanQuota : Nat := 0
  energyShare : Nat := 0
  /-- Reserved row slots of wings 0 to 3. -/
  reserved : List Nat := [0, 0, 0, 0]
deriving DecidableEq, Repr, Inhabited

/-- Site settings of one wing (R162, R214, R216, R220, R271, R272, R311, R357, R358). -/
structure WingSite where
  pages : Nat := 0
  ptBase : Nat := 0
  adjBase : Nat := 0
  histBase : Nat := 0
  stopBase : Nat := 0
  promptBase : Nat := 0
  promptBytes : Nat := 0
  aidBase : Nat := 0
  aidBytes : Nat := 0
  maskBase : Nat := 0
  maskStride : Nat := 0
  maskSlots : Nat := 0
  resAreaBase : Nat := 0
  resultBytes : Nat := 0
  mirrorMap : Nat := 0
  mirrorStatus : Nat := 0
deriving DecidableEq, Repr, Inhabited

/-- The partner that a capsule names (R338, R450). -/
structure PartnerCfg where
  keyHash : Hash384 := 0
  side : Nat := 0
  records : Nat := 0
deriving DecidableEq, Repr, Inhabited

/-- A configuration capsule: the verdicts of phase 0x04 on it, the Denolo limits, the bindings and the operator-signed site settings. The spec gives what it holds and not its byte layout (log entry 6). -/
structure Capsule where
  /-- The Denolo-signed section verifies against the key hash in ROM, names this part's identity key, and the operator section verifies against the operator key it names (R83). -/
  signed : Bool := true
  namesPart : Bool := true
  operatorSigned : Bool := true
  limits : Caps := {}
  /-- (channel, sender identity, receiver identity) of every bound channel (R117). -/
  bindings : List (Nat × Nat × Nat) := []
  /-- Regions the capsule puts into byte mode (R382). -/
  byteMode : List Nat := []
  hash : Hash384 := 0
  pllHoldUs : Nat := 0
  baseMw : Nat := 0
  powerWarnMv : Nat := 0
  lapLimitS : Nat := 10
  g0Policy : Nat := 0
  g0Budget : Budget := {}
  defaultBudget : Budget := {}
  wings : List WingSite := [{}, {}, {}, {}]
  partner : Option PartnerCfg := none
  catalogueKey : PubKey := 0
deriving DecidableEq, Repr, Inhabited

/-- What phase 0x04 reads of an archive as delivered (R82, R83): copies 0 and 1 of the capsule. -/
structure CapsuleScan where
  copy0 : Option Capsule := none
  copy1 : Option Capsule := none
deriving DecidableEq, Repr, Inhabited

/-- A firmware image that verified (R83 phase 0x03, R321). -/
structure ImageInfo where
  version : W32 := 0
  hash : Hash384 := 0
deriving DecidableEq, Repr, Inhabited

/-- An archive region that the ROM verifies (R82, R83): as the part was delivered, without its completing header (R87), or holding what Basam programmed and read back. -/
inductive FlashItem (α : Type) where
  | delivered
  | broken
  | holds (x : α)
deriving DecidableEq, Repr, Inhabited

/-- The image region and the two capsule copies of the archive flash (R82, R86, R87). -/
structure Flash where
  image : FlashItem ImageInfo := .delivered
  capsule0 : FlashItem Capsule := .delivered
  capsule1 : FlashItem Capsule := .delivered
deriving DecidableEq, Repr, Inhabited

/-- What the assembled recovery item verified as (R86). -/
inductive RecoveredItem where
  | image (i : ImageInfo)
  | capsule (c : Capsule)
deriving DecidableEq, Repr, Inhabited

/-- One intake window descriptor (R182). -/
structure Window where
  openAt : Nat := 0
  closeAt : Nat := 0
  firstRow : Nat := 0
  rowCount : Nat := 0
  shards : Nat := 0
  candBursts : Nat := 0
deriving DecidableEq, Repr, Inhabited

/-- The fields of a catalogue entry (R181). The raw bytes are kept beside them, because the digest of R186 and the fingerprint of R189 run over all 2,048 of them. -/
structure CatEntry where
  modelBuild : W64 := 0
  program : W64 := 0
  cycles : Nat := 0
  energyUj : Nat := 0
  feedOffset : Nat := 0xFFFFFFFF
  shapeId : Nat := 0
  rows : Nat := 0
  chunkSlots : Nat := 0
  chunkLen : Nat := 0
  specWidth : Nat := 0
  windows : List Window := []
  rowInvariant : Bool := false
  fixedEligible : Bool := false
  denoise : Bool := false
  embed : Bool := false
  pageTokens : Nat := 0
  rowPages : Nat := 0
  kPartial : List Nat := [0, 0, 0, 0]
  raw : List Byte := []
deriving DecidableEq, Repr, Inhabited

/-- The sampling block (R255). -/
structure Sampling where
  method : Nat := 0
  logprobs : Nat := 0
  k : Nat := 0
  topP : Nat := 0
  minP : Nat := 0
  scale : Nat := 0
  stopSeqs : Nat := 0
  aid : Nat := 0
  stopTokens : List Nat := []
deriving DecidableEq, Repr, Inhabited

/-- A request record of the Registrar, with the prompt copy, history and page table that Basam keeps for it in stack memory (R15 to R22, R214, R216, R255, R271, R275, R285, R330). -/
structure Req where
  acc : Nat := 0
  gallery : Nat := 0
  kind : Nat := 0
  cls : Nat := 0
  wing : Nat := 0
  state : ReqState := .queued
  reason : Nat := 0
  speculative : Bool := false
  submitCtr : Nat := 0
  modelBuild : W64 := 0
  /-- Request key: k0 in bits [31:0], k1 in bits [63:32] (R283). -/
  key : W64 := 0
  maxTokens : Nat := 0
  sampling : Sampling := {}
  stopSeqs : List (List Nat) := []
  presence : Int := 0
  frequency : Int := 0
  bias : List (Nat × Int) := []
  /-- The adjustment half the last descriptor named (R222), and whether a change waits for the next compose point. -/
  adjHalf : Nat := 0
  adjDirty : Bool := false
  /-- Prefix source and the positions that sharing may reach (R219). -/
  shareSource : Nat := 0
  shareLimit : Nat := 0
  /-- PROMPT_TOKENS of the submit block (R114). -/
  bound : Nat := 0
  /-- The prompt copy: positions 0 to L - 1 (R214). -/
  prompt : List Nat := []
  /-- Generated tokens committed, oldest first: the history page (R214) and the commit count (R18). -/
  gen : List Nat := []
  /-- Iterations committed, kind 2. -/
  iters : Nat := 0
  /-- The record's state word of the finding aid (R275). -/
  aidWord : W64 := 0
  nextSeq : Nat := 0
  ttft : Option Nat := none
  completion : Option Nat := none
  itlUs : Nat := 0
  itlNext : Option Nat := none
  /-- Whether the TTFT deadline has already been governed by a release (R170). -/
  firstDone : Bool := false
  /-- Positions whose KV steps that ended have written, and positions that composed chunks cover (R165, R177, R219). -/
  kvDone : Nat := 0
  covered : Nat := 0
  /-- Lowest position that a step of a shape without row invariance has written (R219). -/
  variantFrom : Option Nat := none
  reprefill : Bool := false
  /-- Page table: (page number, SHARED) in order (R216). -/
  pages : List (Nat × Bool) := []
  /-- Own total need in pages, fixed at accession (R148). -/
  need : Nat := 0
  draftFirst : Nat := 0
  drafts : List Nat := []
  /-- A deaccession reason that waits for the commit or boundary of the current step (R23, R171), 0 none. -/
  pendingReason : Nat := 0
  /-- KTIME at which that reason was asked for: a deadline acts at the boundary behind its firing (R171). -/
  pendingAt : W64 := 0
  /-- Loans are freed when the last step that holds the request ends (R21, R177). -/
  freeLoans : Bool := false
  degraded : Bool := false
  mirrorCovered : Bool := false
  adopted : Bool := false
  restored : Bool := false
  /-- The slot is freed and only the loans wait for the end of the step that holds the void row (R21). -/
  gone : Bool := false
deriving DecidableEq, Repr, Inhabited

/-- What a received GRV data frame carries beside its payload: FSEQ and ACKED of the clear header, TAG and CRC (R346). The link layer checks both against the frame's bytes. -/
structure FrameHdr where
  fseq : Nat := 0
  acked : Nat := 0
  tag : BitVec 128 := 0
  crc : W32 := 0
deriving DecidableEq, Repr, Inhabited

/-- A wing policy as HELLO carries it and WING_POLICY sets it (R154, R339). -/
structure WingPolicy where
  fixed : Bool := false
  standby : Bool := false
  fixedShape : Nat := 0
  maxCycles : Nat := 0
deriving DecidableEq, Repr, Inhabited

/-- The payload of a HELLO frame (R351), its signature last. -/
structure Hello where
  side : Nat := 0
  behaviour : Nat := 1
  caps : Caps := {}
  idKey : PubKey := 0
  share : PubKey := 0
  /-- Catalogue digest of each wing's committed section, none where the wing has none. -/
  digests : List (Option Hash384) := [none, none, none, none]
  pages : List Nat := [0, 0, 0, 0]
  policies : List WingPolicy := [{}, {}, {}, {}]
  /-- (gallery, GALLERY_GEN, first 16 bytes of SHA-384 over the secret) of every open tenant gallery. -/
  galleries : List (Nat × Nat × BitVec 128) := []
  sig : Sig := 0
deriving DecidableEq, Repr, Inhabited

/-- The keys of an open tenant gallery (R326, R328). -/
structure GalleryKeys where
  secret : Hash384 := 0
  ingress : Key256 := 0
  egress : Key256 := 0
  memory : Key256 := 0
deriving DecidableEq, Repr, Inhabited

/-- One segment of a finding aid (R330, finding-aid segment table). -/
inductive AidSeg where
  | begin_ (vocab states masks transitions start : Nat)
  /-- SELF flag and local mask index of states from `first` on. -/
  | states (first : Nat) (items : List (Bool × Nat))
  | masks (first : Nat) (items : List (List Byte))
  | transitions (items : List (Nat × Nat × Nat))
  | final
  | free
deriving DecidableEq, Repr, Inhabited

/-- A pair act on a gallery, as a GALLERY frame carries it (R340, R349); an aid segment with the aid's layout, its offset and the base of its mask IDs on each wing. -/
inductive GalleryAct where
  | open_ (policy gen : Nat) (keys : GalleryKeys)
  | rekey (keyGen : Nat) (keys : GalleryKeys)
  | close
  | aid (number : Nat) (seg : AidSeg) (base maskBase : List Nat)
deriving DecidableEq, Repr, Inhabited

/-- Operations of a mirror record (R354). -/
inductive MirrorOp where
  | accession | prompt | commit | change | watermark | freed
deriving DecidableEq, Repr, Inhabited

/-- The payload of a REC or BULK frame (R354). `record` stands for the record image with the prompt copy, history and areas that the frames of the request bring. -/
structure MirrorRec where
  op : MirrorOp := .commit
  releasedSeq : Nat := 0
  record : Req := {}
  /-- Tokens whose history entries the frame carries, at most 9. -/
  hist : List Nat := []
  /-- Of a prompt continuation: which 16,384 entries it carries. -/
  part : Nat := 0
  /-- Sealed ring entries of 64 bytes, PHASE zero, each with the SEQ its header names. -/
  entries : List (Nat × List Byte) := []
deriving DecidableEq, Repr, Inhabited

/-- The payload of a CATALOGUE frame: a pair commit, or an entry that restores a lost one (R349, R391). -/
inductive CatFrame where
  | commit (wing entries : Nat) (digest : Hash384) (sig : Sig)
  | restore (wing index : Nat) (digest : Hash384) (entry : CatEntry)
deriving DecidableEq, Repr, Inhabited

/-- The payload of an IMAGE frame (R350): a request, one chunk of the image, or none, which acknowledges within the recovery session (log entry 105). `verdict` is what the assembled image verifies as, when this chunk completes it. -/
inductive ImageFrame where
  | request
  | chunk (number total : Nat) (data : List Byte) (verdict : Option ImageInfo)
  | ack
deriving DecidableEq, Repr, Inhabited

end Sys2Proof
end

