-- ==== Sys2Proof/Syntax.lean ====
section
/-! DEFINITION. The commands of Basam: one constructor for each row of spec/opcode_table.json, in its order. A row gives no operand fields; the operands here are what the act brings from outside the block (log entry 2). -/

namespace Sys2Proof

/-- A command: one row of the table of operations and events. -/
inductive Instr where
  /-- NOP (R109). -/
  | nop (ring : Fin 8)
  /-- IDENTITY_STATUS (R109). -/
  | identityStatus (ring : Fin 8)
  /-- GET_CERTIFICATE (R320). -/
  | getCertificate (ring : Fin 8)
  /-- GET_PROVENANCE (R321). -/
  | getProvenance (ring : Fin 8)
  /-- GALLERY_OPEN (R140). -/
  | galleryOpen (ring : Fin 8)
  /-- GALLERY_CLOSE (R145). -/
  | galleryClose (ring : Fin 8)
  /-- GALLERY_BUDGET (R150). -/
  | galleryBudget (ring : Fin 8)
  /-- GALLERY_REKEY (R143). -/
  | galleryRekey (ring : Fin 8)
  /-- BEGIN (R272). -/
  | aidBegin (ring : Fin 8)
  /-- STATES (R272). -/
  | aidStates (ring : Fin 8)
  /-- MASKS (R272). -/
  | aidMasks (ring : Fin 8)
  /-- TRANSITIONS (R272). -/
  | aidTransitions (ring : Fin 8)
  /-- FINAL (R274). -/
  | aidFinal (ring : Fin 8)
  /-- FREE (R277). -/
  | aidFree (ring : Fin 8)
  /-- GALLERY_REPORT (R157). -/
  | galleryReport (ring : Fin 8)
  /-- GALLERY_INFO (R137). -/
  | galleryInfo (ring : Fin 8)
  /-- SUBMIT (R161). -/
  | submit (ring : Fin 8)
  /-- CANCEL (R23). -/
  | cancel (ring : Fin 8)
  /-- AMEND (R168). -/
  | amend (ring : Fin 8)
  /-- QUERY (R20). -/
  | query (ring : Fin 8)
  /-- DRAFT (R211). -/
  | draft (ring : Fin 8)
  /-- CAT_STAGE (R184). -/
  | catStage (ring : Fin 8)
  /-- CAT_COMMIT (R187). -/
  | catCommit (ring : Fin 8)
  /-- CAT_ARCHIVE (R190). -/
  | catArchive (ring : Fin 8)
  /-- WING_POLICY (R154). -/
  | wingPolicy (ring : Fin 8)
  /-- POWER_CAP (R172). -/
  | powerCap (ring : Fin 8)
  /-- SHAPE_STATE_READ (R200). -/
  | shapeStateRead (ring : Fin 8)
  /-- SHAPE_STATE_RELEASE (R200). -/
  | shapeStateRelease (ring : Fin 8)
  /-- SHAPE_STATE_DISABLE (R200). -/
  | shapeStateDisable (ring : Fin 8)
  /-- PAIR_JOIN (R351). -/
  | pairJoin (ring : Fin 8)
  /-- PAIR_YIELD (R363). -/
  | pairYield (ring : Fin 8)
  /-- PAIR_STATUS (R341). -/
  | pairStatus (ring : Fin 8)
  /-- PAIR_RESYNC (R352). -/
  | pairResync (ring : Fin 8)
  /-- PAIR_LEAVE (R341). -/
  | pairLeave (ring : Fin 8)
  /-- MAINT_STATUS (R397). -/
  | maintStatus (ring : Fin 8)
  /-- SCRUB_WAKE (R387). -/
  | scrubWake (ring : Fin 8)
  /-- LEDGER_CHECKPOINT (R421). -/
  | ledgerCheckpoint (ring : Fin 8)
  /-- FW_STAGE (R109). -/
  | fwStage (ring : Fin 8)
  /-- FW_ACTIVATE (R370). -/
  | fwActivate (ring : Fin 8) (verdict : Option ImageInfo)
  /-- RETIRE_ROW (R390). -/
  | retireRow (ring : Fin 8)
  /-- LEDGER_READ (R426). -/
  | ledgerRead (ring : Fin 8)
  /-- SNAPSHOT (R404). -/
  | snapshot (ring : Fin 8)
  /-- COUNTER_RESET (R401). -/
  | counterReset (ring : Fin 8)
  /-- DAYBOOK_CTRL (R409). -/
  | daybookCtrl (ring : Fin 8)
  /-- FREEZE (R410). -/
  | freeze (ring : Fin 8)
  /-- THAW (R412). -/
  | thaw (ring : Fin 8)
  /-- SERVICE_CHALLENGE (R334). -/
  | serviceChallenge (ring : Fin 8)
  /-- SERVICE_UNLOCK (R335). -/
  | serviceUnlock (ring : Fin 8)
  /-- SERVICE_LOCK (R335). -/
  | serviceLock (ring : Fin 8)
  /-- CAPSULE_WRITE (R336). -/
  | capsuleWrite (ring : Fin 8) (verdict : Option Capsule)
  /-- DOORBELL (R90). -/
  | doorbell (mid : Byte) (ring : Fin 8) (value : W32)
  /-- DBL_RPL_CI (R90). -/
  | dblRplCi (mid : Byte) (ring : Fin 8) (value : W32)
  /-- RING_PAIR_RESET (R95). -/
  | ringPairReset (mid : Byte) (ring : Fin 8) (value : W32)
  /-- RING_PAIR_RESET_COMPLETE (R95). -/
  | ringPairResetComplete (ring : Fin 8)
  /-- DBL_RES_CI (R307). -/
  | dblResCi (mid : Byte) (ring : Fin 8) (value : W32)
  /-- RING_RESET (R308). -/
  | ringReset (mid : Byte) (ring : Fin 8) (value : W32)
  /-- RING_RESET_COMPLETE (R308). -/
  | ringResetComplete (ring : Fin 8)
  /-- CNS_CI (R395). -/
  | cnsCi (mid : Byte) (value : W32)
  /-- DBK_CI (R408). -/
  | dbkCi (mid : Byte) (value : W32)
  /-- READ_CLEAR (R5). -/
  | readClear (mid : Byte) (addr : Nat)
  /-- DOMAIN_SOFT_RESET (R81). -/
  | domainSoftReset (mid : Byte) (value : W32)
  /-- HARD_HALT (R414). -/
  | hardHalt (mid : Byte) (value : W32)
  /-- IRQ_MASK_WRITE (R431). -/
  | irqMaskWrite (mid : Byte) (value : W32)
  /-- IRQ_ACK (R431). -/
  | irqAck
  /-- POST (R122). -/
  | post (port : Port) (mid : Byte) (chan : Fin 32) (value : W32)
  /-- MBX_ACK (R125). -/
  | mbxAck (port : Port) (mid : Byte) (chan : Fin 32) (value : W32)
  /-- MBX_EPOCH (R135). -/
  | mbxEpoch (port : Port) (mid : Byte) (index : Fin 7) (value : W32)
  /-- LOCK_ACQUIRE (R132). -/
  | lockAcquire (port : Port) (mid : Byte) (lock : Fin 64)
  /-- LOCK_RELEASE (R133). -/
  | lockRelease (port : Port) (mid : Byte) (lock : Fin 64) (value : W32)
  /-- LOW_WORD_READ (R430). -/
  | lowWordRead (mid : Byte) (addr : Nat)
  /-- HIGH_WORD_READ (R430). -/
  | highWordRead (mid : Byte) (addr : Nat)
  /-- REGISTER_WRITE (R5). -/
  | registerWrite (port : Port) (mid : Byte) (addr : Nat) (data : List Byte)
  /-- TELEMETRY (R170). -/
  | telemetry
  /-- RECOVERY_CHUNK (R86). -/
  | recoveryChunk (verdict : Option RecoveredItem)
  /-- FENCE_CONFIRMED (R362). -/
  | fenceConfirmed
  /-- FENCE_DENIED (R362). -/
  | fenceDenied
  /-- POWER_ON_RESET (R80). -/
  | powerOnReset
  /-- BLOCK_RESET (R80). -/
  | blockReset
  /-- FENCE_RESET (R80). -/
  | fenceReset
  /-- RESET_RELEASE (R83). -/
  | resetRelease (pin : ResetPin)
  /-- PUF_CHECK (R83). -/
  | pufCheck (scan : PufScan)
  /-- BOOT_IMAGE (R83). -/
  | bootImage (verdict : Option ImageInfo)
  /-- BOOT_CAPSULE (R83). -/
  | bootCapsule (scan : CapsuleScan)
  /-- ECC_REGIONS (R83). -/
  | eccRegions (scan : RegionScan)
  /-- BOOT_CATALOGUE (R83). -/
  | bootCatalogue
  /-- JOURNAL_TIMEOUT (R88). -/
  | journalTimeout
  /-- RECOVERY_PROGRAMMED (R86). -/
  | recoveryProgrammed
  /-- IMAGE_REQUEST_RETRY (R350). -/
  | imageRequestRetry
  /-- GRV_LINK_UP (R86). -/
  | grvLinkUp (up : Bool)
  /-- FCLK_ACK_RISE (R73). -/
  | fclkAckRise
  /-- FCLK_ACK_FALL (R66). -/
  | fclkAckFall
  /-- PSW_ACK_RISE (R73). -/
  | pswAckRise (dom : Dom)
  /-- PSW_ACK_FALL (R78). -/
  | pswAckFall (dom : Dom)
  /-- DOMAIN_POWER_DOWN (R78). -/
  | domainPowerDown (dom : Dom)
  /-- PRE_WAKE (R75). -/
  | preWake (wing : Fin 4)
  /-- COMPOSE_WAKE (R75). -/
  | composeWake (wing : Fin 4)
  /-- COMPOSE_POINT (R205). -/
  | composePoint (wing : Fin 4)
  /-- IDLE_COMPOSE (R208). -/
  | idleCompose (wing : Fin 4)
  /-- DESCRIPTOR (R208). -/
  | descriptor (wing : Fin 4)
  /-- REPLAY (R378). -/
  | replay (wing : Fin 4)
  /-- STEP_START (R49). -/
  | stepStart (wing : Fin 4) (tag : W16)
  /-- STEP_END (R9). -/
  | stepEnd (wing : Fin 4) (tag : W16)
  /-- FEED_TAKEN (R54). -/
  | feedTaken (wing : Fin 4) (tag : W16) (info : W32)
  /-- ENERGY (R454). -/
  | energy (wing : Fin 4) (tag : W16) (info : W32)
  /-- ERROR_UE (R50). -/
  | errorUe (wing : Fin 4) (tag : W16) (info : W32)
  /-- EVENT_RESERVED (R49). -/
  | eventReserved (wing : Fin 4) (word : W64)
  /-- HUNG (R196). -/
  | hung (wing : Fin 4)
  /-- WINDOW_OPEN (R51). -/
  | windowOpen (wing : Fin 4) (window : Nat)
  /-- WINDOW_CLOSE (R238). -/
  | windowClose (wing : Fin 4) (window : Nat)
  /-- CANDIDATE_BURST (R231). -/
  | candidateBurst (wing : Fin 4) (addr : Nat) (ben hdr : BitVec 2) (data : List Byte)
  /-- SHARD_HEADER (R236). -/
  | shardHeader (wing : Fin 4) (pos : Nat) (marked : Bool) (data : List Byte)
  /-- TREE_TAKE (R240). -/
  | treeTake (tree : Nat)
  /-- ROW_AREA_FREE (R229). -/
  | rowAreaFree (wing : Fin 4) (row : Nat)
  /-- MERGE_RESULT (R253). -/
  | mergeResult (tree : Nat)
  /-- LANE_DISPATCH (R259). -/
  | laneDispatch (lane : Nat)
  /-- UNIT_SAMPLED (R265). -/
  | unitSampled (lane : Nat)
  /-- ROW_COMMIT (R269). -/
  | rowCommit (wing : Fin 4) (row : Nat)
  /-- SMP_RESPONSE (R58). -/
  | smpResponse (tag : Nat) (status : Nat) (data : List Byte)
  /-- KYB_ACK (R61). -/
  | kybAck (wing : Fin 4) (target : Bool) (status : BitVec 2)
  /-- RECORD_SEAL (R303). -/
  | recordSeal (acc : W32)
  /-- RECORD_RELEASE (R309). -/
  | recordRelease (acc : W32)
  /-- RELEASE_TICK (R155). -/
  | releaseTick (wing : Fin 4)
  /-- RESULT_GROUP (R312). -/
  | resultGroup (acc : W32)
  /-- FEED_STREAM (R315). -/
  | feedStream (wing : Fin 4)
  /-- TAIL_OVERRUN (R193). -/
  | tailOverrun (wing : Fin 4)
  /-- DEADLINE_FIRED (R72). -/
  | deadlineFired (slot : Nat)
  /-- FAR_LIST_SCAN (R72). -/
  | farListScan
  /-- THROTTLE_END (R201). -/
  | throttleEnd
  /-- HEARTBEAT_TX (R343). -/
  | heartbeatTx
  /-- HEARTBEAT (R344). -/
  | grvHeartbeat (frame : W64)
  /-- ECHO (R344). -/
  | grvEcho (frame : W64)
  /-- FAILURE (R361). -/
  | grvFailure (frame : W64)
  /-- YIELD (R363). -/
  | grvYield (frame : W64)
  /-- HEARTBEAT_TIMEOUT (R361). -/
  | heartbeatTimeout
  /-- FENCE_TIMEOUT (R341). -/
  | fenceTimeout
  /-- HELLO (R351). -/
  | grvHello (hdr : FrameHdr) (hello : Hello)
  /-- HELLO_TIMEOUT (R351). -/
  | helloTimeout
  /-- TIME (R344). -/
  | grvTime (hdr : FrameHdr) (sent echoSent echoArrived : W64)
  /-- REC (R355). -/
  | grvRec (hdr : FrameHdr) (record : MirrorRec)
  /-- ACK (R347). -/
  | grvAck (hdr : FrameHdr)
  /-- GALLERY (R340). -/
  | grvGallery (hdr : FrameHdr) (gallery : Nat) (act : GalleryAct)
  /-- CATALOGUE (R340). -/
  | grvCatalogue (hdr : FrameHdr) (act : CatFrame)
  /-- COUNTER (R340). -/
  | grvCounter (hdr : FrameHdr) (gallery counter : Nat)
  /-- BULK (R352). -/
  | grvBulk (hdr : FrameHdr) (record : MirrorRec)
  /-- HANDBACK (R353). -/
  | grvHandback (hdr : FrameHdr) (record : Req)
  /-- LEAVE (R349). -/
  | grvLeave (hdr : FrameHdr)
  /-- IMAGE (R350). -/
  | grvImage (hdr : FrameHdr) (frame : ImageFrame)
  /-- ACK_TIMER (R347). -/
  | ackTimer
  /-- RESEND (R347). -/
  | resend
  /-- ADOPTION (R364). -/
  | adoption
  /-- MIRROR_LATE (R356). -/
  | mirrorLate (acc : W32) (seq : Nat)
  /-- GALLERY_CLOSE_COMPLETE (R145). -/
  | galleryCloseComplete (gallery : Nat)
  /-- FREEZE_COMPLETE (R410). -/
  | freezeComplete
  /-- SCRUB_CODEWORD (R386). -/
  | scrubCodeword (region row codeword : Nat) (word : List Byte)
  /-- LAP_LATE (R387). -/
  | lapLate (dom : Dom)
  /-- SCRUB_WAKE_DONE (R387). -/
  | scrubWakeDone (dom : Dom)
  /-- PERIODIC_CHECKPOINT (R421). -/
  | periodicCheckpoint
  /-- CHECKPOINT_COMPLETE (R423). -/
  | checkpointComplete
  /-- ROW_RETIRED (R390). -/
  | rowRetired
  /-- CAT_ARCHIVE_DONE (R190). -/
  | catArchiveDone
  /-- CAPSULE_PROGRAMMED (R336). -/
  | capsuleProgrammed
  /-- FIRMWARE_ACTIVATION_DONE (R370). -/
  | firmwareActivationDone
  /-- SNAPSHOT_TICK (R402). -/
  | snapshotTick
  /-- SNAPSHOT_TAKEN (R404). -/
  | snapshotTaken
  /-- CHALLENGE_EXPIRY (R334). -/
  | challengeExpiry
  /-- LOCKSTEP (R374). -/
  | lockstep (pairB : Bool)
  /-- COMPOSE_OVERRUN (R393). -/
  | composeOverrun (wing : Fin 4)
  /-- TREE_OVERRUN (R393). -/
  | treeOverrun (tree : Nat)
  /-- LANE_OVERRUN (R393). -/
  | laneOverrun (lane : Nat)
  /-- WS_BYPASS (R444). -/
  | wsBypass
  /-- WS_EXTEST (R445). -/
  | wsExtest (leave : Bool)
  /-- WS_INTEST_SCAN (R445). -/
  | wsIntestScan (leave : Bool)
  /-- WS_MBIST (R445). -/
  | wsMbist (leave : Bool)
  /-- WS_STATUS (R444). -/
  | wsStatus
  /-- BAD_OPCODE (R98). -/
  | badOpcode (ring : Fin 8)
  /-- ACCESS_REFUSED (R43). -/
  | accessRefused (port : Port) (mid : Byte) (write : Bool) (addr : Nat) (data : List Byte)
  /-- HIF_ACCESS_WAKE (R34). -/
  | hifAccessWake (mid : Byte) (write : Bool) (addr : Nat) (data : List Byte)
  /-- COPY_CLEARED (R352). -/
  | copyCleared (wing : Fin 4) (page : Nat)
deriving DecidableEq, Repr

end Sys2Proof
end

