-- ==== Sys2Proof/Machine/SMap.lean ====
section
/-! DEFINITION. Sparse tables: lists of (key, value) pairs in one canonical form, keys strictly rising. The byte memory of the HIF window is one, with the value 0 never listed. -/

namespace Sys2Proof

/-- A sparse table keyed by a natural number, keys strictly rising. -/
abbrev SMap (α : Type) := List (Nat × α)

namespace SMap

/-- The value at a key. -/
def find {α : Type} : SMap α → Nat → Option α
  | [], _ => none
  | (k, v) :: m, q => if k = q then some v else find m q

/-- The table with a value at a key. -/
def put {α : Type} : SMap α → Nat → α → SMap α
  | [], q, x => [(q, x)]
  | (k, v) :: m, q, x =>
    if q < k then (q, x) :: (k, v) :: m
    else if q = k then (q, x) :: m
    else (k, v) :: put m q x

/-- The table without a key. -/
def drop {α : Type} : SMap α → Nat → SMap α
  | [], _ => []
  | (k, v) :: m, q => if k = q then m else (k, v) :: drop m q

/-- The value at a key, the given default where the key is not listed. -/
def getD {α : Type} (m : SMap α) (q : Nat) (d : α) : α := (find m q).getD d

/-- The table with the value at a key changed, from the given default where the key is not listed. -/
def modify {α : Type} (m : SMap α) (q : Nat) (d : α) (f : α → α) : SMap α := put m q (f (getD m q d))

/-- The table with a listed value changed; an unlisted key stays unlisted. -/
def adjust {α : Type} (m : SMap α) (q : Nat) (f : α → α) : SMap α :=
  match find m q with
  | none => m
  | some v => put m q (f v)

/-- Keys strictly rising. -/
def wf {α : Type} : SMap α → Bool
  | [] => true
  | [_] => true
  | (k, _) :: (k', v') :: m => decide (k < k') && wf ((k', v') :: m)

/-- The values whose pair meets a test. -/
def pick {α : Type} (m : SMap α) (p : Nat → α → Bool) : List α := (m.filter fun e => p e.1 e.2).map (·.2)

end SMap

/-- The byte memory behind the ring windows of HIF, keyed by HIF offset (R428); an unlisted byte reads 0. -/
abbrev Memory := List Host.Cell

namespace Memory

/-- The byte at an offset (log entry 8: an unlisted byte reads 0). -/
def read (m : Memory) (a : Nat) : Byte := SMap.getD m a 0

/-- The memory with a byte written; writing 0 removes the entry. -/
def write (m : Memory) (a : Nat) (b : Byte) : Memory := if b = 0 then SMap.drop m a else SMap.put m a b

/-- Bytes from an offset upward. -/
def readBytes (m : Memory) (a : Nat) : Nat → List Byte
  | 0 => []
  | n + 1 => read m a :: readBytes m (a + 1) n

/-- Bytes written from an offset upward. -/
def writeBytes (m : Memory) (a : Nat) : List Byte → Memory
  | [] => m
  | b :: bs => writeBytes (write m a b) (a + 1) bs

/-- Every byte from `lo` up to and without `hi` cleared. -/
def clear (m : Memory) (lo hi : Nat) : Memory := m.filter fun c => decide (c.1 < lo) || decide (hi ≤ c.1)

/-- The canonical form: offsets strictly rising, no entry equal to what an unlisted offset reads as. -/
def wf (m : Memory) : Bool := SMap.wf m && m.all fun c => decide (c.2 ≠ 0)

end Memory

end Sys2Proof
end

