-- ==== Sys2Proof/Machine/Bytes.lean ====
section
/-! DEFINITION. Byte order, bit fields, CRC-32C, CRC-16 and list helpers. -/

namespace Sys2Proof.Bytes

/-- The number that bytes hold, least significant byte first (R2). -/
def le : List Byte → Nat
  | [] => 0
  | b :: bs => b.toNat + 256 * le bs

/-- `n` bytes of a number, least significant byte first (R2). -/
def ofLe (n : Nat) (v : Nat) : List Byte :=
  match n with
  | 0 => []
  | n + 1 => BitVec.ofNat 8 v :: ofLe n (v / 256)

/-- `n` bytes of a number, most significant byte first (byte strings of published standards, R2). -/
def ofBe (n : Nat) (v : Nat) : List Byte := (ofLe n v).reverse

/-- `n` bytes from an offset of a byte list; 0 beyond its end. -/
def slice (bs : List Byte) (off n : Nat) : List Byte :=
  let t := (bs.drop off).take n
  t ++ List.replicate (n - t.length) 0

/-- The little-endian field of `n` bytes at an offset. -/
def field (bs : List Byte) (off n : Nat) : Nat := le (slice bs off n)

/-- The most-significant-first number of `n` bytes at an offset. -/
def fieldBe (bs : List Byte) (off n : Nat) : Nat := le (slice bs off n).reverse

/-- Bits [hi:lo] of a number. -/
def bits (v hi lo : Nat) : Nat := (v / 2 ^ lo) % 2 ^ (hi + 1 - lo)

/-- Bit `i` of a number. -/
def bit (v i : Nat) : Bool := bits v i i = 1

/-- A Boolean as a bit. -/
def b2n (b : Bool) : Nat := if b then 1 else 0

/-- A 32-bit two's-complement number as an integer (R3). -/
def s32 (v : Nat) : Int := if v < 2 ^ 31 then (v : Int) else (v : Int) - 2 ^ 32

/-- A 16-bit two's-complement number as an integer. -/
def s16 (v : Nat) : Int := if v < 2 ^ 15 then (v : Int) else (v : Int) - 2 ^ 16

/-- An integer as `n` bits of two's complement. -/
def twos (n : Nat) (v : Int) : Nat := (v % (2 ^ n : Int)).toNat

/-- Saturation to 32 bits of two's complement (R221, R258). -/
def sat32 (v : Int) : Int := if v < -(2 ^ 31) then -(2 ^ 31) else if v > 2 ^ 31 - 1 then 2 ^ 31 - 1 else v

/-- Every byte is zero. -/
def allZero (bs : List Byte) : Bool := bs.all fun b => decide (b = 0)

/-- Eight steps of the reflected CRC-32C shift register (R97). -/
def crc32Byte : Nat → Nat → Nat
  | 0, c => c
  | n + 1, c => crc32Byte n (if c % 2 = 1 then Nat.xor (c / 2) 0x82F63B78 else c / 2)

/-- The CRC-32C register over bytes. -/
def crc32Run : Nat → List Byte → Nat
  | c, [] => c
  | c, b :: bs => crc32Run (crc32Byte 8 (Nat.xor c b.toNat)) bs

/-- CRC-32C of bytes in address order (R97). -/
def crc32c (bs : List Byte) : Nat := Nat.xor (crc32Run 0xFFFFFFFF bs) 0xFFFFFFFF

/-- Eight steps of the CRC-16 shift register (R121). -/
def crc16Byte : Nat → Nat → Nat
  | 0, c => c
  | n + 1, c => crc16Byte n (if c / 0x8000 % 2 = 1 then Nat.xor (c * 2 % 0x10000) 0x1021 else c * 2 % 0x10000)

/-- CRC-16 of bytes in address order (R121). -/
def crc16 (bs : List Byte) : Nat := bs.foldl (fun c b => crc16Byte 8 (Nat.xor c (b.toNat * 256))) 0xFFFF

/-- Insertion into a list ordered by a strict test; equal elements keep their order. -/
def insertBy {α : Type} (lt : α → α → Bool) (x : α) : List α → List α
  | [] => [x]
  | y :: ys => if lt x y then x :: y :: ys else y :: insertBy lt x ys

/-- A list sorted by a strict test, equal elements in their old order. -/
def sortBy {α : Type} (lt : α → α → Bool) (xs : List α) : List α :=
  xs.foldl (fun acc x => insertBy lt x acc) []

/-- The largest element, 0 of none. -/
def maxOf (xs : List Nat) : Nat := xs.foldl max 0

/-- The smallest element, if any. -/
def minOf : List Nat → Option Nat
  | [] => none
  | x :: xs => some (xs.foldl min x)

/-- The sum. -/
def sumOf (xs : List Nat) : Nat := xs.foldl (· + ·) 0

/-- The k-th element, or a default. -/
def nth {α : Type} (xs : List α) (k : Nat) (d : α) : α := (xs[k]?).getD d

/-- The list with its k-th element replaced. -/
def setNth {α : Type} : List α → Nat → α → List α
  | [], _, _ => []
  | _ :: xs, 0, y => y :: xs
  | x :: xs, k + 1, y => x :: setNth xs k y

/-- Division rounded up. -/
def ceilDiv (a b : Nat) : Nat := (a + b - 1) / b

/-- Whether a 40-bit deadline has passed at a Basam time (R70). -/
def passed (now d : Nat) : Bool := decide ((now % 2 ^ 40 + 2 ^ 40 - d % 2 ^ 40) % 2 ^ 40 < 2 ^ 39)

/-- How far ahead a deadline lies, in µs (R70). -/
def ahead (now d : Nat) : Nat := (d % 2 ^ 40 + 2 ^ 40 - now % 2 ^ 40) % 2 ^ 40

end Sys2Proof.Bytes
end

