-- ==== Sys2Proof/Config.lean ====
section
/-! DEFINITION. What the silicon fixes, and the free values: constants with no body for what the spec leaves open or takes from a published standard without stating it. -/

namespace Sys2Proof.Config

/-! ## Published standards named by the spec and not stated there (log entry 4) -/

/-- SHA-384 (R186, R189, R286, R317, R321). -/
opaque sha384 : List Byte → Hash384

/-- HMAC-SHA-384 under a key, the step of HKDF (R317, R326) and of the record key (R332). -/
opaque hmacSha384 : List Byte → List Byte → Hash384

/-- The byte of the AES-256-CTR key stream of AES-256-GCM at an index, under a key and a 12-byte nonce (R105, R299, R331, R346). -/
opaque gcmKeystream : Key256 → List Byte → Nat → Byte

/-- The AES-256-GCM tag under a key and nonce, of the additional data and the ciphertext. -/
opaque gcmTag : Key256 → List Byte → List Byte → List Byte → BitVec 128

/-- The ECDSA P-384 signature with the deterministic nonce of RFC 6979 of a digest under a private key (R319). -/
opaque ecdsaSign : Hash384 → Hash384 → Sig

/-- Whether a signature of a digest verifies under a public key (R186, R319, R335). -/
opaque ecdsaVerify : PubKey → Hash384 → Sig → Bool

/-- The public key of a private key (R319). -/
opaque p384Public : Hash384 → PubKey

/-- Whether 97 bytes are a point of P-384 whose product with a private key is not the point at infinity (R319). -/
opaque p384Valid : PubKey → Hash384 → Bool

/-- The ECDH shared secret of a private key and a public key (R319). -/
opaque ecdh : Hash384 → PubKey → Hash384

/-- The order n of P-384, from the standard that R319 names. -/
def p384Order : Nat :=
  0xffffffffffffffffffffffffffffffffffffffffffffffffc7634d81f4372ddf581a0db248b0a77aecec196accc52973

/-- The n-th 384 bits of full entropy that the conditioned entropy source yields (R318). -/
opaque entropy : Nat → Hash384

/-- SHA-384 of the Denolo service key is in ROM; the key itself as RESPONSE is verified under it (R335). -/
opaque serviceKey : PubKey

/-- The device secret S_dev that the PUF yields (R317). -/
opaque deviceSecret : Hash384

/-- The device certificate in DER (R320), signed at manufacture by Denolo's issuing key: a function of what R320 puts into it, the subject public key, the subject serialNumber and the Denolo extension's IDN_BLOCK_ID and IDN_BEHAVIOUR. -/
opaque deviceCertificate : PubKey → List Byte → W32 → W16 → List Byte

/-- Denolo's issuing certificate in DER (R320). -/
opaque issuingCertificate : List Byte

/-- SHA-384 over the boot ROM (R321). -/
opaque romHash : Hash384

/-! ## Values the spec leaves open (log entry 5) -/

/-- FCLK cycle within the tick of the n-th event written (R405: 0 to 35). -/
opaque eventCycle : Nat → Nat

/-- Stop offset of a domain at the n-th hard halt (R414: 0 to 8). -/
opaque haltOffset : Nat → Nat → Nat

/-- The word at an offset of the DBG aperture under a selection, where the layout of the region is not given (R437): the row's contents as they stand after the region's n-th write. -/
opaque dbgData : Nat → Nat → Nat → W32

/-- The bytes of the firmware image that a part holds (R350). -/
opaque imageBytes : ImageInfo → List Byte

/-- The 256-byte image of a Registrar record (R354): the spec gives its length and what it holds, and no layout. -/
opaque recordImage : Req → List Byte

/-- Payloads of GALLERY, CATALOGUE and COUNTER frames (R349), and the part of a HELLO payload behind the digests (R351): the spec says what they hold and gives no widths. -/
opaque galleryPayload : Nat → GalleryAct → List Byte
opaque cataloguePayload : CatFrame → List Byte
opaque counterPayload : Nat → Nat → List Byte
opaque helloTail : List Nat → List WingPolicy → List (Nat × Nat × BitVec 128) → List Byte

/-- How far the programming of the two capsule copies had come at the n-th reset that fell into it (R87). -/
opaque programStage : Nat → Nat

/-- Byte i of the n-th FLAG entry from byte 4 on: R225 lays out bytes 0 to 3 only. -/
opaque flagByte : Nat → Nat → Byte

/-- The partner's answer, for the n-th free value, to what only the partner can know and no frame of R349 carries back: whether its staging section has the digest and passes R187, and whether its finding-aid areas have room (R340). -/
opaque partnerAgrees : Nat → Bool

/-! ## Silicon figures (00_scope, capability table) -/

/-- The figures built into each size (R36, R37). -/
def built : Size → Caps
  | .L => { rows := 2048, wingMask := 0xF, records := 131072, trees := 32, lanes := 128, galleries := 64,
            largestK := 4096, vreg := 256, catEntries := 4096, sramKib := 0x11000, maxShards := 64,
            specWidth := 8, stopSeqs := 8, tokenBits := 21, logprobs := 20, methods := 0x3F }
  | .M => { rows := 2048, wingMask := 0x3, records := 65536, trees := 16, lanes := 64, galleries := 64,
            largestK := 4096, vreg := 256, catEntries := 2048, sramKib := 0x9800, maxShards := 64,
            specWidth := 8, stopSeqs := 8, tokenBits := 21, logprobs := 20, methods := 0x3F }
  | .S => { rows := 1024, wingMask := 0x1, records := 16384, trees := 4, lanes := 32, galleries := 16,
            largestK := 1, vreg := 256, catEntries := 512, sramKib := 0x3000, maxShards := 64,
            specWidth := 8, stopSeqs := 8, tokenBits := 21, logprobs := 1, methods := 0x23 }

/-- IDN_BLOCK_ID.SIZE (02, IDN_BLOCK_ID). -/
def sizeCode : Size → Nat
  | .L => 1
  | .M => 2
  | .S => 3

/-- BEHAVIOUR_CODE of the part (02, IDN_BEHAVIOUR). -/
def behaviour : Nat := 1

/-- Row counts of the SRAM regions in rows of 2,048 data bytes (R382, with the allocation table of 02). The sum over the Registrar's regions is that table's; its split, and that of Keeper SRAM, among regions is not given: DESIGN CHOICE, log entry 9. -/
def regionRows (z : Size) (region : Nat) : Nat :=
  match region, z with
  | 0, .L => 16384 | 0, .M => 8192 | 0, .S => 2048
  | 1, .L => 8192 | 1, .M => 4096 | 1, .S => 1024
  | 2, .L => 1536 | 2, .M => 1536 | 2, .S => 1152
  | 3, _ => 512
  | 4, .L => 1280 | 4, .M => 768 | 4, .S => 192
  | 5, .L => 1536 | 5, .M => 1152 | 5, .S => 288
  | 6, .L => 768 | 6, .M => 640 | 6, .S => 160
  | 7, .L => 4096 | 7, .M => 2048 | 7, .S => 512
  | 8, .L => 256 | 8, .M => 256 | 8, .S => 128
  | 9, _ => 1
  | _, _ => 0

/-- Spare rows of a region (R382). -/
def regionSpares (z : Size) (region : Nat) : Nat := max 1 (regionRows z region / 64)

end Sys2Proof.Config
end

