-- ==== Sys2Proof/Machine/State.lean ====
section
/-! DEFINITION. The state of Basam: every register, ring, queue, counter, mode and pin the spec gives the block, the queue of waiting commands, and the state after reset. -/

namespace Sys2Proof.Machine

/-! ## Keeper: time, resets, boot, halt, interrupts -/

/-- Which W1C and RC fields events of the tick `tick` have set or raised: by R6 a clear of the same tick does not lose them. -/
structure Fresh where
  tick : W64 := 0
  /-- Keys of bits set in the tick: see `State.mark`. -/
  set : List Nat := []
  /-- LOST of the Daybook and of the condition ring: the value before the tick's first increment, and the increments. -/
  dbk : Option (W16 × Nat) := none
  cns : Option (W16 × Nat) := none
deriving DecidableEq, Repr, Inhabited

/-- IDN and KPR registers and the Keeper's own state (02, 04, 18, 20). -/
structure Kpr where
  size : Size := .L
  stepping : Byte := 1
  ktime : W64 := 0
  porLow : Bool := true
  blkLow : Bool := false
  fenceLow : Bool := false
  cause : BitVec 4 := 1
  soft : BitVec 5 := 0
  /-- Resets that increment the Control domain epoch, in 16 bits (R128). -/
  controlCount : W16 := 0
  docentEpoch : BitVec 6 := 0
  intakeEpoch : BitVec 6 := 0
  curatorEpoch : BitVec 6 := 0
  registrarEpoch : BitVec 6 := 0
  blockEpoch : W16 := 0
  phase : Byte := 1
  haltCode : Byte := 0
  catMissing : BitVec 4 := 0
  recovery : Bool := false
  journalResumed : Bool := false
  fwRun : Bool := false
  ready : Bool := false
  /-- Basam time at which READY rose (R171). -/
  readyUs : Nat := 0
  pllHold : W16 := 0
  armCode : W16 := 0
  arm : Bool := false
  halted : Bool := false
  smeared : Bool := false
  smpOut : BitVec 9 := 0
  stop : BitVec 20 := 0
  irqPending : W16 := 0
  irqMask : W16 := 0
  irqKeeper : BitVec 4 := 0
  /-- Vectors whose message waits for the endpoint, and the one on IRQ_VEC (R431). -/
  irqWait : W16 := 0
  irqSent : Option (BitVec 4) := none
  /-- MC_IRQ[0] (R65). -/
  fenceReq : Bool := false
  capValid : Bool := false
  limited : Bool := false
  caps : Caps := {}
  fwVersion : W32 := 0
  /-- What start-up accepted: the capsule in force and the running image (R321). -/
  capsule : Option Capsule := none
  image : Option ImageInfo := none
  /-- The device key register holds S_dev (R80, R317); its value is Config.deviceSecret's. -/
  deviceKey : Bool := false
  /-- The boot step the test wrapper disturbed, WS instruction in force (R444): 0 bypass. -/
  wrapper : Nat := 0
  fresh : Fresh := {}
deriving DecidableEq, Repr, Inhabited

/-- One wakeable domain's power switch (R66, R73). -/
structure DomSt where
  req : Bool := false
  ack : Bool := false
  active : Bool := false
  /-- A wake waits for ACK to fall (R33, R66). -/
  waiting : Bool := false
  /-- A soft reset of the Registrar waits until no other domain is active (R81). -/
  resetWaits : Bool := false
  /-- KTIME of the wake event, for the WAKE entry's latency. -/
  wokenAt : W64 := 0
deriving DecidableEq, Repr, Inhabited

/-- A HIF access held until its home domain is active (R34). -/
structure HeldAccess where
  mid : Byte := 0
  write : Bool := false
  addr : Nat := 0
  data : List Byte := []
deriving DecidableEq, Repr, Inhabited

/-- The response of a completed access: HIF_RSP or MBX_RSP (R43, R44). -/
structure Response where
  mid : Byte := 0
  ok : Bool := true
  data : List Byte := []
deriving DecidableEq, Repr, Inhabited

/-- Clock, power switches and retention (R66, R73 to R79). -/
structure Power where
  fclkReq : Bool := false
  fclkAck : Bool := false
  /-- A wake waits for FCLK_ACK to fall (R66). -/
  fclkWaits : Bool := false
  /-- KTIME at which FCLK_ACK last fell, and at which FCLK_REQ last rose (R76, R419). -/
  fclkFell : Option W64 := none
  fclkRose : W64 := 0
  coldStart : Bool := true
  retEn : Bool := false
  registrar : DomSt := {}
  curator : DomSt := {}
  intake : DomSt := {}
  docent : DomSt := {}
  control : DomSt := {}
  heldAccesses : List HeldAccess := []
  /-- GRV_LINK_UP (R86). -/
  linkUp : Bool := false
deriving DecidableEq, Repr, Inhabited

/-! ## Galleries -/

/-- A finding aid (R272 to R274). -/
structure Aid where
  vocab : Nat := 0
  states : Nat := 0
  masks : Nat := 0
  transitions : Nat := 0
  start : Nat := 0
  stateItems : SMap (Bool × Nat) := []
  maskItems : SMap (List Byte) := []
  transItems : List (Nat × Nat × Nat) := []
  complete : Bool := false
  /-- Per wing: offset of the aid in the wing's aid area in bursts, and the base of its global mask IDs. -/
  base : List Nat := [0, 0, 0, 0]
  maskBase : List Nat := [0, 0, 0, 0]
  bursts : Nat := 0
  /-- A removed aid's area returns to the pool at a boundary (R277). -/
  removed : Bool := false
  /-- The partner holds what has been loaded of it (R340). -/
  told : Bool := false
  /-- State words on each wing, once complete: start word per wing, and the tables. -/
  startWord : List W64 := [0, 0, 0, 0]
deriving DecidableEq, Repr, Inhabited

/-- The gallery's own counters since its opening (R157, R331). -/
structure GalleryCounts where
  accessioned : W64 := 0
  deaccessions : SMap W64 := []
  tokens : W64 := 0
  misses : SMap W64 := []
  late : W64 := 0
  replays : W64 := 0
  recalls : W64 := 0
  slips : W64 := 0
  energy : W64 := 0
deriving DecidableEq, Repr, Inhabited

/-- One gallery's entry of the gallery table (07). -/
structure Gallery where
  /-- 0 closed, 1 open, 2 closing (R137). -/
  state : Nat := 0
  policy : Nat := 0
  gen : W32 := 0
  keyGen : W16 := 0
  keys : GalleryKeys := {}
  lastCtr : W64 := 0
  /-- The egress key and KEY_GEN that sealing still uses in the tick that accepted a GALLERY_REKEY, and that tick (R143). -/
  oldEgress : Option (W64 × Key256 × W16) := none
  /-- Token bucket level in micro-tokens (R146). -/
  level : Int := 0
  budget : Budget := {}
  /-- The block that each wing took up at its last compose point: LOAN_QUOTA, ENERGY_SHARE and RESERVED_SLOTS in force there (R110). -/
  wingBudget : List Budget := [{}, {}, {}, {}]
  counts : GalleryCounts := {}
  aids : SMap Aid := []
  /-- Wings whose stack engine holds or is being given the memory key, and those whose load is acknowledged (R140). -/
  bound : List Nat := []
  loaded : List Nat := []
  /-- Closing: wings whose erase is not acknowledged (R145). -/
  erasing : List Nat := []
  /-- Acts made without a partner session that the next join tells (R340): the opening that GEN names was closed; aids freed that the partner holds. -/
  closedAlone : Bool := false
  freedAids : List Nat := []
deriving DecidableEq, Repr, Inhabited

/-! ## Rings -/

/-- A chain whose packets have been taken up to its last (R99). -/
structure Chain where
  op : Nat := 0
  tag : Nat := 0
  gallery : Nat := 0
  packets : Nat := 0
  broken : Bool := false
  payload : List Byte := []
deriving DecidableEq, Repr, Inhabited

/-- The control registers of ring pair i (05). -/
structure RingPair where
  cmdPi : BitVec 13 := 0
  cmdCi : BitVec 13 := 0
  rplPi : BitVec 13 := 0
  rplCi : BitVec 13 := 0
  ciErr : Bool := false
  piErr : Bool := false
  stopped : Bool := false
  resetBusy : Bool := false
  chain : Option Chain := none
deriving DecidableEq, Repr, Inhabited

/-- The control registers of result ring i (14). -/
structure ResRing where
  pi : BitVec 13 := 0
  ci : BitVec 13 := 0
  ciErr : Bool := false
  resetBusy : Bool := false
deriving DecidableEq, Repr, Inhabited

/-- What a reply that is not yet written still waits for (R140, R340, R348, R354). -/
structure PendingReply where
  ring : Nat := 0
  op : Nat := 0
  gallery : Nat := 0
  tag : Nat := 0
  status : Nat := 0
  data : List Byte := []
  applySeq : W32 := 0
  applyKtime : W64 := 0
  /-- Wings whose stack key load for the gallery is not acknowledged (R140). -/
  waitKyb : List Nat := []
  /-- Own FSEQ that ACKED must cover (R348), 0 none. -/
  waitFence : Nat := 0
  /-- The request that must be covered (R354), by accession number. -/
  waitCover : Option Nat := none
  /-- What a soft reset of Control takes back (R81): the units of the command's packets, its gallery's entry before it, the last accepted counter it set, and the request it accessioned. -/
  units : Nat := 0
  before : Gallery := {}
  ctr : W64 := 0
  acc : Option Nat := none
deriving DecidableEq, Repr, Inhabited

/-- Command, reply and result rings and the apply sequence (05, 14). -/
structure Rings where
  pairs : SMap RingPair := []
  results : SMap ResRing := []
  applySeq : W32 := 0
  /-- KTIME at which that value was taken: a composition of the same tick is the earlier of the two (R101). -/
  appliedAt : Option W64 := none
  /-- Ring served last (R92). -/
  lastRing : Nat := 7
  replies : List PendingReply := []
  /-- Responses of completed accesses, newest first (R43, R44). -/
  out : List Response := []
deriving DecidableEq, Repr, Inhabited

/-! ## Mailboxes and locks -/

/-- The message and stamps of a channel as they stood before the first post of a tick, with that tick and the highest MID that posted in it (R126). -/
structure ChanPrior where
  tick : W64 := 0
  mid : Byte := 0
  slot : List W32 := []
  full : Bool := false
  collision : Bool := false
  msgTx : W16 := 0
  msgRx : W16 := 0
deriving DecidableEq, Repr, Inhabited

/-- A mailbox channel (06). -/
structure Chan where
  staging : List W32 := [0, 0, 0, 0, 0, 0, 0]
  slot : List W32 := [0, 0, 0, 0, 0, 0, 0, 0]
  full : Bool := false
  collision : Bool := false
  ackValid : Bool := false
  ackSeq : W16 := 0
  ackCode : W16 := 0
  msgTx : W16 := 0
  msgRx : W16 := 0
  ackTx : W16 := 0
  ackRx : W16 := 0
  bound : Bool := false
  sender : Byte := 0
  receiver : Byte := 0
  prior : Option ChanPrior := none
deriving DecidableEq, Repr, Inhabited

/-- The reads of one lock in one tick: each reader with the place of its response in `Rings.out`, counted from the oldest; `fresh` if the lock was free before the first of them (R134). -/
structure LockReads where
  tick : W64 := 0
  fresh : Bool := false
  readers : List (Byte × Nat) := []
deriving DecidableEq, Repr, Inhabited

/-- Channels, epochs of external identities, lock owners and high-word latches (06, R430). -/
structure Mbx where
  chans : SMap Chan := []
  epochs : SMap W16 := []
  /-- Lock owners; a lock not listed is free (R132). -/
  locks : SMap Byte := []
  /-- High-word latch of each master: pair offset and value (R430). -/
  latches : SMap (Nat × W32) := []
  /-- Reads of each lock in the current tick (R134). -/
  lockReads : SMap LockReads := []
deriving DecidableEq, Repr, Inhabited

/-! ## Counters, snapshots, freeze, trace -/

/-- An operation of the counter bank that reaches it later than its event (R402). -/
inductive BankOp where
  /-- Increment of counter `key` by `n`, or setting of a gauge. -/
  | add (key : Nat) (n : Nat)
  | gauge (key : Nat) (n : Nat)
  | gaugeMax (key : Nat) (n : Nat)
  /-- Snapshot copy of one delay class. -/
  | copy (delay : Nat)
  /-- Reset of one delay class of a group. -/
  | reset (delay group : Nat)
  /-- Entry of an event ring, sent on the path of the counters (R405). -/
  | event (ring : Nat) (bytes : List Byte)
deriving DecidableEq, Repr, Inhabited

/-- A bank operation of an event in tick `event`, applied in tick `due` (R402). -/
structure BankEntry where
  event : Nat := 0
  due : Nat := 0
  op : BankOp := .add 0 0
deriving DecidableEq, Repr, Inhabited

/-- An armed snapshot (R404). -/
structure Armed where
  id : W32 := 0
  tick : W64 := 0
  freeze : Bool := false
deriving DecidableEq, Repr, Inhabited

/-- Counter bank, snapshot registers, freeze and trace control (18). -/
structure Cnt where
  /-- Live counters, key group * 512 + index. -/
  live : SMap W64 := []
  shadow : SMap W64 := []
  shadowId : SMap W32 := []
  /-- Tick at which each group's INTERVAL began. -/
  since : SMap W64 := []
  queue : List BankEntry := []
  activity : Bool := false
  snapId : W32 := 0
  snapValid : Bool := false
  snapFreeze : Bool := false
  snapKtime : W64 := 0
  armed : Option Armed := none
  /-- The snapshot being taken between its tick and the stamp seven ticks later. -/
  taking : Option Armed := none
  lastId : W32 := 0
  lastTick : Option W64 := none
  /-- A snapshot was stamped in this tick: its cause of vector 15 follows in the next (R404). -/
  snapDue : Bool := false
  holding : BitVec 4 := 0
  frozen : BitVec 4 := 0
  /-- A FREEZE was accepted and has not completed (R410). -/
  freezeDue : Bool := false
  /-- CNT_TRC_CTRL bits [13:1] and the trace buffer (R416, R417). -/
  trcDaybook : Bool := false
  trcEvents : BitVec 12 := 0
  trcBuffer : List W32 := []
  trcSeq : W16 := 0
  trcSync : Bool := false
  trcDrops : Nat := 0
  evrCount : SMap W32 := []
deriving DecidableEq, Repr, Inhabited

/-- Daybook and condition ring registers (17, 18). -/
structure Logs where
  dbkPi : BitVec 14 := 0
  dbkCi : BitVec 14 := 0
  dbkErr : Bool := false
  dbkLost : W16 := 0
  dbkWings : BitVec 4 := 0xF
  dbkSelect : Bool := false
  cnsPi : BitVec 11 := 0
  cnsCi : BitVec 11 := 0
  cnsErr : Bool := false
  cnsLost : W16 := 0
  cnsLostModule : Bool := false
  reportSeq : W32 := 0
deriving DecidableEq, Repr, Inhabited

/-! ## Ledger -/

/-- A Ledger checkpoint in the journal (R422). -/
structure Checkpoint where
  seq : Nat := 0
  bytes : List Byte := []
  valid : Bool := true
deriving DecidableEq, Repr, Inhabited

/-- An entry of the breach table (R420). -/
structure BreachEntry where
  fingerprint : W64 := 0
  wing : Nat := 0
  quarantines : Nat := 0
  firstS : Nat := 0
  lastS : Nat := 0
  steps : Nat := 0
  codes : W32 := 0
deriving DecidableEq, Repr, Inhabited

/-- The Ledger's retained copy and the journal (19). -/
structure Ledger where
  /-- Counters and gauges of the sections at 0x0000 to 0x09A7, by 8-byte entry index. -/
  words : SMap W64 := []
  /-- Firmware activations: entry number to (version, POWER_ON_S, BLOCK_EPOCH, ROLLBACK). -/
  activations : SMap (W32 × Nat × W16 × Bool) := []
  /-- Sticky list: entry number to (POWER_ON_S, region, codeword, row, marks). -/
  sticky : SMap (Nat × Nat × Nat × Nat × Nat) := []
  breaches : SMap BreachEntry := []
  evicted : W64 := 0
  /-- LEDGER_LOST (R322). -/
  lost : Bool := false
  journal : SMap Checkpoint := []
  /-- A checkpoint being programmed: its journal slot. -/
  running : Option (Nat × Checkpoint) := none
  /-- The previous telemetry report was below POWER_WARN_MV (R425). -/
  warned : Bool := false
  /-- Own starts that wait for the arbiter (R397): causes. -/
  waiting : List Nat := []
  /-- Checkpoint cause of the running checkpoint (R421). -/
  cause : Nat := 0
  nextPeriodic : Nat := 0
deriving DecidableEq, Repr, Inhabited

/-! ## Steps, wings, intake, merge, Docent -/

/-- The row parameter table entry of one row (R28) with its descriptor fields (R210, R213). -/
structure RowAsg where
  row : Nat := 0
  acc : Nat := 0
  gallery : Nat := 0
  /-- Row type (R210): 1 FEED, 2 DIRECT, 3 EMBED, 4 DENOISE. -/
  type : Nat := 0
  rowClass : Nat := 0
  adjSel : Nat := 0
  spec : Nat := 0
  position : Nat := 0
  inToken : Nat := 0
  maskId : Nat := 0
  promptLen : Nat := 0
  resultAddr : Nat := 0
  /-- The request's sampling block and MAX_TOKENS as the compose point found them (R28). -/
  sampling : Sampling := {}
  maxTokens : Nat := 0
  key : W64 := 0
  cls : Nat := 0
  /-- The adjustment half that the request's descriptor before this one named (R222). -/
  adjBefore : Nat := 0
  /-- Input position of the row: DIRECT from composition, FEED from the commit before its feed (R265, R313). -/
  inputPos : Nat := 0
  /-- Drafts supplied at the feed (R211), with the finding-aid states they reach (R276). -/
  drafts : List Nat := []
  draftWords : List W64 := []
  /-- State word that gives the mask of slot 0; the feed words are being made; drafts still to be walked. -/
  word : W64 := 0
  prepared : Bool := false
  toWalk : List Nat := []
  walking : Bool := false
  void : Bool := false
  /-- The VOID flag that a stream already sent, for the same words under a new tag (R53, R314). -/
  sentVoid : Option Bool := none
deriving DecidableEq, Repr, Inhabited

/-- A chunk descriptor (R213). -/
structure Chunk where
  acc : Nat := 0
  gallery : Nat := 0
  history : Bool := false
  last : Bool := false
  firstPos : Nat := 0
  tokens : Nat := 0
  srcAddr : Nat := 0
deriving DecidableEq, Repr, Inhabited

/-- The outcome of one merge unit (R237, R265, R266). -/
inductive UnitOut where
  | discarded
  | noCandidate
  /-- Sampled token, DUP, TIES_CUT, logprob entries of 8 bytes as numbers. -/
  | token (t : Nat) (dup ties : Bool) (logprobs : List Nat)
deriving DecidableEq, Repr, Inhabited

/-- A step of one wing, from its composition to the commit of its rows (01, 10, 11, 17). -/
structure Step where
  tag : W16 := 0
  shape : CatEntry := {}
  index : Nat := 0
  composeKtime : W64 := 0
  rows : List RowAsg := []
  chunks : List Chunk := []
  replay : Bool := false
  fixed : Bool := false
  gap : Nat := 0
  /-- Planned start (R208). -/
  planned : Nat := 0
  /-- Replays of this step's work issued so far (R381). -/
  replays : Nat := 0
  started : Option W64 := none
  ended : Option W64 := none
  /-- ERROR_UE, incomplete row or own discard (R239); the cause of the DISCARD entry. -/
  discarded : Nat := 0
  energy : Option W32 := none
  /-- Breach codes of the step, as a bit map, bit 31 TAIL_OVERRUN; those already reported (R197). -/
  breaches : W32 := 0
  reported : W32 := 0
  counted : Bool := false
  /-- Excluded from time measures (R194). -/
  excluded : Bool := false
  /-- A late acknowledge covers it: no breach counts against its shape (R77). -/
  lateAck : Bool := false
  throttled : Bool := false
  /-- Windows open now, and windows whose close was reached. -/
  openWindows : List Nat := []
  closedWindows : List Nat := []
  /-- Windows whose CLOSE tick this is: they close at its end (R238). -/
  closing : List Nat := []
  lastClose : Option W64 := none
  /-- Intake (11): bursts written at ring positions, headers that arrived (key unit * 64 + shard), released and freed rows. -/
  bursts : SMap (List Byte) := []
  headers : SMap (List Byte) := []
  released : List Nat := []
  freed : List Nat := []
  /-- Merge units read into a tree or discarded (R229), by row * 16 + slot. -/
  read : List Nat := []
  /-- Outcomes by row * 16 + slot (R237, R265). -/
  units : SMap UnitOut := []
  committed : List Nat := []
  /-- Feed stream of this step: sent and complete, with its tick; FEED_TAKEN arrived (R53, R54). -/
  fedAt : Option W64 := none
  /-- Beats of the stream sent so far (R315). -/
  fedBeats : Nat := 0
  taken : Bool := false
  /-- Composed of a section that an accepted CAT_COMMIT brings: the bank flips as it begins (R188). -/
  sectionNew : Bool := false
  /-- Composed under a policy that an accepted WING_POLICY brings: it is in force from this step's begin (R154). -/
  policyNew : Option WingPolicy := none
  /-- Tag of the discarded step whose work this replay repeats (R378). -/
  replayTag : Option W16 := none
  /-- Number of this step among the measured steps of its shape (R198). -/
  measuredNo : Nat := 0
  /-- Its RELEASE_TICK was reached (R155). -/
  releaseDone : Bool := false
deriving DecidableEq, Repr, Inhabited

/-- State of a (wing, shape fingerprint) (R189, R198, R200). -/
structure ShapeSt where
  disabled : Bool := false
  quarantined : Bool := false
  /-- Quarantine or disablement waits for the next compose point, or a quarantine is held (R198, R199). -/
  wantQuarantine : Bool := false
  wantDisable : Bool := false
  heldReport : Bool := false
  /-- An uncorrectable entry is not allowed until restored (R391). -/
  lost : Bool := false
  breaches : W32 := 0
  /-- Last measured steps, newest first, at most 256 (R198), and how many were measured in all. -/
  history : List Bool := []
  measured : Nat := 0
deriving DecidableEq, Repr, Inhabited

/-- One wing as the Curator, the catalogue and the intake keep it (09, 10, 11). -/
structure Wing where
  policy : WingPolicy := {}
  /-- An accepted WING_POLICY that is not in force yet: compose points read it (R9, R154). -/
  policyNext : Option WingPolicy := none
  /-- P_w in ticks before a change that lowers it, kept until the wing's next compose point (R160). -/
  pwFloor : Nat := 0
  committed : List CatEntry := []
  signature : Sig := 0
  selector : Bool := false
  staging : SMap CatEntry := []
  /-- Staging section emptied since the last flip or reset (R185). -/
  stagingFresh : Bool := false
  /-- An accepted CAT_COMMIT that has not flipped: its entries and signature (R188). -/
  commitNext : Option (List CatEntry × Sig) := none
  shapes : SMap ShapeSt := []
  nextTag : W16 := 0
  /-- The step that runs, the descriptor pending behind it, the composed step not yet issued, and ended steps whose rows still commit. -/
  running : Option Step := none
  pending : Option Step := none
  composed : Option Step := none
  tails : List Step := []
  /-- Steps that are over, newest first, at most 256: tags by which a late event is known (R50; log entry 18). -/
  past : List Step := []
  /-- A discarded step that waits for its replay (R375, R378). -/
  replayOf : Option Step := none
  /-- Requests by row in the wing's previous composed step (R209, R224). -/
  lastRows : SMap Nat := []
  lastBuild : Option W64 := none
  /-- End tick and shape of the wing's last step (R208). -/
  lastEnd : Option (Nat × CatEntry) := none
  /-- Tick timers: pre-wake, compose wake, compose point (R71, R75). -/
  preWake : Option W64 := none
  composeWake : Option W64 := none
  composeAt : Option W64 := none
  /-- Tick in which the three timers were armed: a timer armed at or below KTIME fires in the next tick (R71). -/
  armedAt : W64 := 0
  /-- No further descriptor of the wing is issued: it failed its replays (R381). -/
  stopped : Bool := false
  /-- Feed stream gate: tag of the last stream sent without FEED_TAKEN (R54). -/
  feedGate : Option W16 := none
  dbkOn : Bool := true
  dbkSelect : Bool := false
  /-- The next tick's effects on a wing without a step (R9). -/
  idleFlip : Bool := false
  /-- In the paired wing set (R339). -/
  paired : Bool := false
  /-- Drop count of the KV mirror last read (R359). -/
  mirrorDrops : W64 := 0
deriving DecidableEq, Repr, Inhabited

/-- A merge unit (R237). -/
structure MUnit where
  wing : Nat := 0
  tag : W16 := 0
  row : Nat := 0
  slot : Nat := 0
  queuedAt : W64 := 0
deriving DecidableEq, Repr, Inhabited

/-- A candidate record as it takes part in the merge (R232, R243). -/
structure Cand where
  index : Nat := 0
  value : Int := 0
  noised : Bool := false
  shard : Nat := 0
  number : Nat := 0
deriving DecidableEq, Repr, Inhabited

/-- A merge result: header and entries (R253). -/
structure MergeRes where
  /-- The tree whose output buffer holds it (R250). -/
  tree : Nat := 0
  madeAt : W64 := 0
  wing : Nat := 0
  tag : W16 := 0
  row : Nat := 0
  slot : Nat := 0
  acc : Nat := 0
  /-- The K_M result slots: the first N entries, then sentinels (R244). -/
  entries : List Cand := []
  n : Nat := 0
  km : Nat := 0
  tiesCut : Nat := 0
  dup : Bool := false
  inexact : Bool := false
  pieced : Bool := false
  rowMax : Int := 0
  eg : Int := 0
  sel : Nat := 0
  res : Nat := 0
deriving DecidableEq, Repr, Inhabited

/-- A tree that holds a unit, with the records and headers it read (R240, R241). -/
structure TreeSt where
  unit : MUnit := {}
  takenAt : W64 := 0
  /-- Cycles within which the unit is complete (R254). -/
  bound : Nat := 0
  result : MergeRes := {}
deriving DecidableEq, Repr, Inhabited

/-- A lane that holds a unit (R259). -/
structure LaneSt where
  result : MergeRes := {}
  takenAt : W64 := 0
deriving DecidableEq, Repr, Inhabited

/-! ## SMP, KYB, commit stage, Egress -/

/-- Why Basam issued an SMP request. -/
inductive SmpUse where
  | pageTable (wing acc : Nat)
  /-- History write of the next token of a run (R18). -/
  | history (acc token : Nat)
  /-- Walker read after a committed token (R275); stop read of one sequence (R271). -/
  | walk (acc token : Nat)
  | stopRead (acc sequence : Nat)
  /-- Walk of a draft for a row's feed words (R276). -/
  | draftWalk (wing : Nat) (tag : W16) (row token : Nat)
  | result (acc : Nat)
  | mirrorStatus (wing : Nat)
  | setup (acc : Nat)
  /-- Layout of a finding aid's tables and masks (R273). -/
  | aid (gallery number : Nat)
deriving DecidableEq, Repr, Inhabited

/-- An SMP request outstanding or waiting for a tag (R56 to R58). -/
structure SmpReq where
  tag : Nat := 0
  wing : Nat := 0
  op : Nat := 0
  addr : Nat := 0
  keySlot : Nat := 0
  ben : W64 := 0
  data : List Byte := []
  use : SmpUse := .setup 0
  /-- KTIME of issue (R399, SMP_LATENCY). -/
  issued : W64 := 0
  /-- FSEQ of the partner's frame that caused it, 0 for none (R347). -/
  frame : Nat := 0
deriving DecidableEq, Repr, Inhabited

/-- A KYB operation not yet acknowledged (R61). `noise` selects the noise-key bank. -/
structure KybOp where
  wing : Nat := 0
  noise : Bool := false
  /-- 0 LOAD, 1 ERASE, 2 ERASE_ALL. -/
  op : Nat := 0
  slot : Nat := 0
  key : List Byte := []
  /-- FSEQ of the partner's frame that caused it, 0 for none (R347). -/
  frame : Nat := 0
deriving DecidableEq, Repr, Inhabited

/-- The commit of one row's run, token by token (R18, R269 to R271). -/
structure CommitJob where
  wing : Nat := 0
  tag : W16 := 0
  row : Nat := 0
  acc : Nat := 0
  /-- Outcomes of the run not yet committed; the first is being committed. -/
  todo : List UnitOut := []
  /-- Stop tokens and MAX_TOKENS of the row (R28). -/
  stopTokens : List Nat := []
  maxTokens : Nat := 0
  /-- The run ends with NO_CANDIDATE behind its tokens (R270). -/
  noCandidate : Bool := false
  /-- States of the accepted drafts, for the tokens of `todo` in order (R276). -/
  words : List W64 := []
  /-- Outcomes committed by this job. -/
  done : List UnitOut := []
  /-- Position of the first outcome in `done`, and of the run's first token (R300, R303). -/
  firstPos : Nat := 0
  runPos : Nat := 0
  replayed : Bool := false
  /-- Reasons found at the token last committed (R22, R271). -/
  causes : List Nat := []
  /-- Stop sequences whose read is outstanding. -/
  reads : List Nat := []
deriving DecidableEq, Repr, Inhabited

/-- A result being read and released in groups (R312). -/
structure ResultJob where
  acc : Nat := 0
  wing : Nat := 0
  shapeId : Nat := 0
  /-- Length of the result once its first burst is read, cut to the area. -/
  length : Option Nat := none
  truncated : Bool := false
  /-- First byte of the next group, and the bytes of it read so far. -/
  next : Nat := 0
  buf : List Byte := []
  /-- A read is outstanding. -/
  reading : Bool := false
deriving DecidableEq, Repr, Inhabited

/-- A record of a request on its way to the result ring (R298 to R310). -/
structure OutRec where
  acc : Nat := 0
  gallery : Nat := 0
  wing : Nat := 0
  slot : Nat := 0
  seq : Nat := 0
  /-- Row whose turn it awaits on a fixed-shape wing (R309). -/
  row : Option Nat := none
  /-- Plaintext until sealing: tokens with their positions, reason, FINAL. -/
  tokens : List UnitOut := []
  firstPos : Nat := 0
  reason : Nat := 0
  final : Bool := false
  replayed : Bool := false
  isResult : Bool := false
  sealed : Bool := false
  late : Bool := false
  stamp : W64 := 0
  /-- Ring entries of the group, 64 bytes each, PHASE zero. -/
  entries : List (List Byte) := []
  /-- Own FSEQ of the mirror record that carries it, 0 for none (R19). -/
  fseq : Nat := 0
  held : Bool := false
  /-- Its REC frame waits for the read of the KV mirror's drop count (R359). -/
  mirrorDue : Bool := false
  mirrorLate : Bool := false
  /-- Tick of the last commit or deaccession the record stems from (R303). -/
  madeAt : W64 := 0
deriving DecidableEq, Repr, Inhabited

/-- The units of the data path shared by the wings (11, 12, 14). -/
structure Path where
  mergeQueue : List MUnit := []
  trees : SMap TreeSt := []
  dispatch : List MergeRes := []
  lanes : SMap LaneSt := []
  jobs : List CommitJob := []
  results : SMap ResultJob := []
  smp : List SmpReq := []
  smpWait : List SmpReq := []
  kyb : List KybOp := []
  /-- Wings whose LOAD of slot 64 is acknowledged (R61). -/
  ctlLoaded : List Nat := []
  records : List OutRec := []
deriving DecidableEq, Repr, Inhabited

/-- Deadline wheel entry (R72). -/
structure WheelEntry where
  kind : Nat := 0
  deadline : Nat := 0
  /-- In the far list (R72). -/
  far : Bool := false
deriving DecidableEq, Repr, Inhabited

/-- Power cap, telemetry and throttling (R170 to R174, R201). -/
structure Cap where
  capMw : Nat := 0
  efficiency : Nat := 0
  vrail : W32 := 0
  irail : W32 := 0
  pkgMw : W32 := 0
  tj : W16 := 0
  throttling : Bool := false
  /-- KTIME of the last report that carried THROTTLING (R201); the period runs. -/
  throttleAt : W64 := 0
  inPeriod : Bool := false
  /-- PKG_MW of the reports above P_pkg in a row, newest last; a report was written for this run (R174). -/
  aboveCap : List W32 := []
  overReported : Bool := false
deriving DecidableEq, Repr, Inhabited

/-! ## Registrar -/

/-- A record of the mirror half with the sealed entries kept for it (R355). -/
structure MirrorSlot where
  record : Req := {}
  releasedSeq : Nat := 0
  entries : List (Nat × List Byte) := []
  /-- The slot is marked lost (R391). -/
  lost : Bool := false
deriving DecidableEq, Repr, Inhabited

/-- The slot tag (R392). -/
structure SlotTag where
  acc : Nat := 0
  nextSeq : Nat := 0
  submitCtr : Nat := 0
  gallery : Nat := 0
deriving DecidableEq, Repr, Inhabited

/-- The Registrar: live requests by accession number, slot generations, slot tags, the mirror half, the deadline wheel (R15, R27, R72, R355, R392). -/
structure Reg where
  reqs : SMap Req := []
  gens : SMap Nat := []
  tags : SMap SlotTag := []
  mirror : SMap MirrorSlot := []
  wheel : SMap WheelEntry := []
  /-- KTIME of the last far-list scan (R72). -/
  farScan : Nat := 0
deriving DecidableEq, Repr, Inhabited

/-! ## Pair -/

/-- A data frame sent and not yet covered by ACKED (R347). -/
inductive FrameOut where
  | hello (h : Hello)
  | time (own echoSent echoArrived : W64)
  | rec_ (r : MirrorRec)
  | ack
  | gallery (g : Nat) (a : GalleryAct)
  | catalogue (c : CatFrame)
  | counter (g c : Nat)
  | bulk (r : MirrorRec)
  | handback (r : Req)
  | leave
  | image (f : ImageFrame)
deriving DecidableEq, Repr, Inhabited

/-- A frame kept for retransmission: its FSEQ and payload. -/
structure KeptFrame where
  fseq : Nat := 0
  payload : FrameOut := .ack
deriving DecidableEq, Repr, Inhabited

/-- The recovery session of IMAGE frames (R350): its own FSEQ, ACKED and frames kept. -/
structure RecSession where
  fseqNext : Nat := 1
  applied : Nat := 0
  acked : Nat := 0
  ackSent : Nat := 0
  ackSentAt : W64 := 0
  ackMovedAt : W64 := 0
  kept : List KeptFrame := []
deriving DecidableEq, Repr, Inhabited

/-- The pair (16). -/
structure Pair where
  state : PairState := .unpaired
  /-- State before FENCING and before JOINING, and KTIME of the detection (R341, R362). -/
  before : PairState := .alone
  joinFrom : PairState := .alone
  detectedAt : W64 := 0
  /-- Valid frames came again in this tick, or the 5,000 µs ended in it: each acts behind the tick, since a confirmation of the same tick goes before it (R371). -/
  withdrawDue : Bool := false
  expireDue : Bool := false
  /-- FSEQ of the mirror fence on which the completion of a join waits (R348). -/
  joinFence : Option Nat := none
  /-- Heartbeats (R342 to R345). -/
  hseq : BitVec 12 := 0
  lastFrame : Option W64 := none
  /-- Own ECHO value for the partner's last HEARTBEAT, with its arrival; HSEQ and KTIME of the last own HEARTBEAT (R344). -/
  ownEcho : Option (Nat × W64) := none
  sentAt : Option (BitVec 12 × W64) := none
  /-- (raw offset in half ticks, round trip) of the last 16 exchanges, newest first; the estimate, twice θ, once there is one. -/
  exchanges : List (Int × Nat) := []
  theta : Int := 0
  thetaKnown : Bool := false
  /-- Data session (R346, R347). -/
  session : Bool := false
  fseqNext : Nat := 1
  /-- FSEQ of the last frame taken in order; ACKED waits for the writes it caused (R347). -/
  applied : Nat := 0
  /-- FSEQ of the frame whose effects are being made, 0 for none. -/
  applying : Nat := 0
  acked : Nat := 0
  ackSent : Nat := 0
  ackSentAt : W64 := 0
  ackMovedAt : W64 := 0
  kept : List KeptFrame := []
  directionKeys : Option (Key256 × Key256) := none
  ephemeral : Option (Hash384 × PubKey) := none
  helloSent : Option W64 := none
  /-- The partner's HELLO that no join has used yet, and the one of the last join. -/
  helloIn : Option (Hello × Nat) := none
  partner : Option Hello := none
  /-- Pages whose COPY is not cleared: wing * 2^32 + page (R357). -/
  copying : List Nat := []
  mirrorMap : SMap Nat := []
  /-- FSEQ of the first frame sent for each request in the session: for covering (R352). -/
  bulkFseq : SMap Nat := []
  /-- Record of each request as of its last REC or BULK frame that ACKED covers (R391). -/
  imaged : SMap Req := []
  /-- Takeover journal: phase, KTIME of the fence confirmation; live (R88). -/
  journal : Option (Nat × W64) := none
  journalAsked : Option W64 := none
  /-- Requests being handed back: accession number to HANDBACK FSEQ, 0 before it is sent (R353). -/
  handbacks : SMap Nat := []
  /-- Basam time at which adoption ended (R171). -/
  survivorUs : Option Nat := none
  /-- Recovery by channel 31 (R86): item, chunks accepted, length so far. -/
  recItem : Nat := 0
  recChunks : Nat := 0
  recBytes : Nat := 0
  recTotal : Nat := 0
  recDone : Option RecoveredItem := none
  /-- The recovery session (R350), chunks and bytes of the image that it has brought, and KTIME of the last request. -/
  recov : RecSession := {}
  imgChunks : Nat := 0
  imgBytes : Nat := 0
  recAskedAt : W64 := 0
deriving DecidableEq, Repr, Inhabited

/-! ## Maintenance, integrity, security -/

/-- A running activity (R103, R396): code, its scope (wing, gallery or region), 255 where none, and the apply sequence of the command that started it, none for an own start. -/
structure Activity where
  code : Nat := 0
  scope : Nat := 255
  seq : Option W32 := none
  /-- Own FSEQ whose acknowledgement completes it, 0 for none (R143). -/
  fence : Nat := 0
deriving DecidableEq, Repr, Inhabited

/-- An archive catalogue slot (R190): the bytes of its header, none while it is erased, and the entries of each wing's section in index order. -/
structure ArcSlot where
  header : List Byte := []
  sections : List (List CatEntry) := [[], [], [], []]
deriving DecidableEq, Repr, Inhabited

/-- Maintenance (17) and the archive flash as Basam writes it (R82). -/
structure Maint where
  running : List Activity := []
  last : Nat := 0
  result : Nat := 0
  /-- Firmware staging buffer: bytes by offset (R109). -/
  fwStage : SMap Byte := []
  fwImage : Option ImageInfo := none
  capStage : List Byte := []
  capTotal : Nat := 0
  capNext : Option Capsule := none
  retire : Option (Nat × Nat × Nat) := none
  arcJob : Option (Nat × ArcSlot) := none
  arcSlots : List ArcSlot := [{}, {}]
  /-- Image region and capsule copies of the archive (R82), what its device reported, and whether quad transfers at 50 MHz are in use (R62). -/
  flash : Flash := {}
  arcTable : Option ArcTable := none
  arcQuad : Bool := false
  recoverProgram : Bool := false
  fwProgram : Bool := false
deriving DecidableEq, Repr, Inhabited

/-- Scrubbing, corrections and lockstep (17). -/
structure Integ where
  /-- Lap start per domain (0 Keeper, 1 to 5 as R81), codewords done; scrub wake: d for a domain whose lap is to be scrubbed, d + 8 once it is. -/
  lapStart : SMap W64 := []
  lapDone : SMap Nat := []
  scrubWake : List Nat := []
  /-- Corrected codewords of the previous and current lap: region * 2^32 + row * 64 + codeword. -/
  prevLap : List Nat := []
  curLap : List Nat := []
  stickyNow : List Nat := []
  /-- Corrections per region in the lap, since the last report, and KTIME of that report. -/
  lapCount : SMap Nat := []
  sinceReport : SMap Nat := []
  reportAt : SMap W64 := []
  /-- Retired logical rows: region * 2^17 + row to the spare number; spares used per region. -/
  retired : SMap Nat := []
  sparesUsed : SMap Nat := []
  lockstepAt : Option W64 := none
deriving DecidableEq, Repr, Inhabited

/-- HMAC_DRBG with SHA-384 (R318): key, value, and requests since it was seeded. -/
structure Drbg where
  key : Hash384 := 0
  v : Hash384 := 0
  requests : Nat := 0
deriving DecidableEq, Repr, Inhabited

/-- Identity, random source, service unlock and DBG registers (15, 20). -/
structure Sec where
  unlocked : Bool := false
  /-- Outstanding challenge and its KTIME (R334). -/
  challenge : Option (Hash384 × W64) := none
  /-- The random source, instantiated at start-up (R318). -/
  drbg : Drbg := {}
  /-- The PUF array is locked until the next power-on reset (R83). -/
  pufLocked : Bool := false
  /-- Writes to each SRAM region (R437). -/
  writes : SMap Nat := []
  dbgSel : W32 := 0
  dbgInject : W32 := 0
deriving DecidableEq, Repr, Inhabited

/-! ## Outputs -/

/-- A beat of a feed stream on TFP: four words, TFP_WEN, TFP_FIRST, TFP_LAST (R313). -/
structure FeedBeat where
  words : List W64 := []
  wen : BitVec 4 := 0
  first : Bool := false
  last : Bool := false
deriving DecidableEq, Repr, Inhabited

/-- What Basam puts out on its ports (03). -/
inductive PortOut where
  | message (vector : Nat)
  | descriptor (wing : Nat) (beats : List (List Byte))
  | feed (wing : Nat) (tag : W16) (beats : List FeedBeat)
  | dropNotice (wing : Nat) (tag : W16)
  | smp (r : SmpReq)
  | kyb (o : KybOp)
  | heartbeat (frame : W64)
  /-- A data frame on GRV: the bytes of its beats (R346). -/
  | frame (beats : List Byte)
  /-- An archive region being erased and programmed. -/
  | archive (region : ArcRegion)
  | wrapper (value : Nat)
  | trace (word : W32)
deriving DecidableEq, Repr, Inhabited

/-! ## The state -/

/-- The state of Basam, and the queue of the commands that wait. -/
structure State where
  kpr : Kpr := {}
  power : Power := {}
  rings : Rings := {}
  /-- Ring memories of the HIF window (R428). -/
  mem : Memory := []
  mbx : Mbx := {}
  cnt : Cnt := {}
  logs : Logs := {}
  ledger : Ledger := {}
  galleries : SMap Gallery := []
  reg : Reg := {}
  wings : SMap Wing := []
  path : Path := {}
  cap : Cap := {}
  pair : Pair := {}
  maint : Maint := {}
  integ : Integ := {}
  sec : Sec := {}
  /-- Outputs transferred, newest first. -/
  outs : List PortOut := []
  /-- The model's own counter of free values drawn (log entry 5). -/
  free : Nat := 0
  /-- Commands that wait, first in, first out. -/
  pending : List Instr := []
deriving DecidableEq, Repr, Inhabited

/-- Reasons a step stops with a fault. No meaning of this model ends so: the spec gives every row an effect. -/
inductive Fault where
  /-- Raised by nothing: kept so that the type names a reason. Safe. -/
  | none
deriving DecidableEq, Repr

/-- Reasons a command is refused by the model. -/
inductive Refusal where
  /-- Raised by a command of Machine/Dispatch.lean that has no meaning yet. Safe: the model stops where the hardware goes on. -/
  | notModelled (mnemonic : String)
deriving DecidableEq, Repr

/-- Basam right after power-on reset, POR_N still low: registers at their reset values, every other field as log entry 7 says. -/
def State.reset : State := {}

end Sys2Proof.Machine
end

