-- ==== Sys2Proof/Machine/Ops.lean ====
section
/-! DEFINITION. The named operations over State that every meaning uses: time, tables, counters, the Ledger, interrupts, event rings, condition reports, trace, random draws. -/

namespace Sys2Proof.Machine

open Sys2Proof.Bytes

/-! ## Armed error injection (R438) -/

/-- A write to a region: it is counted, and an injection armed for it is applied and disarmed. -/
def Sec.wrote (x : Sec) (region : Nat) : Sec :=
  let y := { x with writes := SMap.modify x.writes region 0 (· + 1) }
  if bit y.dbgInject.toNat 31 && decide (bits y.dbgInject.toNat 27 24 = region) then
    { y with dbgInject := y.dbgInject &&& 0x7FFFFFFF#32 }
  else y

/-- The state after a write to an SRAM region by an agent other than a scrub agent. -/
def State.wrote (s : State) (region : Nat) : State := { s with sec := s.sec.wrote region }

/-! ## Time -/

/-- KTIME as a number (R69). -/
def State.now (s : State) : Nat := s.kpr.ktime.toNat

/-- Basam time in µs (R70). -/
def State.nowUs (s : State) : Nat := s.now / 100

/-! ## A clear and an event of one tick (R6) -/

/-- What events of the current tick have set. -/
def State.freshNow (s : State) : Fresh := if s.kpr.fresh.tick = s.kpr.ktime then s.kpr.fresh else { tick := s.kpr.ktime }

/-- An event of this tick sets the W1C bit of a key: 0 to 7 CI_ERR and 8 to 15 PI_ERR of the ring pairs, 16 to 23 CI_ERR of the result rings, 24 and 25 the error bits of the Daybook and the condition ring, 26 LOST_MODULE, 32 + d SOFT, 40 + b of KPR_IRQ_KEEPER, 48 + v PENDING, 64 + n COLLISION, 96 + n ACK_VALID; 128 + v says that the tick's cause of vector v has requested its message. -/
def State.mark (s : State) (key : Nat) : State :=
  { s with kpr := { s.kpr with fresh := { s.freshNow with set := key :: s.freshNow.set } } }

/-- The bit of a key was set by an event of this tick: a W1C write of the tick leaves it set. -/
def State.isFresh (s : State) (key : Nat) : Bool := s.freshNow.set.contains key

/-- The mark of an event where it occurs. -/
def State.markIf (s : State) (on : Bool) (key : Nat) : State := if on then s.mark key else s

/-- A W1C bit after a write: cleared by a 1, unless an event of this tick set it. -/
def State.w1c (s : State) (old : Bool) (w : Bool) (key : Nat) : Bool := old && (!w || s.isFresh key)

/-- The increments of an RC field in this tick, k more. -/
def raiseLostBy (k : Nat) (now : W16) : Option (W16 × Nat) → Option (W16 × Nat)
  | none => some (now, k)
  | some (b, n) => some (b, n + k)

/-- An RC field read: the value without this tick's increments, and what stays behind the read. -/
def readLost (now : W16) : Option (W16 × Nat) → W16 × W16 × Option (W16 × Nat)
  | none => (now, 0, none)
  | some (b, n) => (b, BitVec.ofNat 16 (min n 0xFFFF), some (0, n))

/-! ## Tables -/

/-- Ring pair i. -/
def State.pairAt (s : State) (i : Nat) : RingPair := SMap.getD s.rings.pairs i {}

/-- The state with ring pair i changed. -/
def State.updPair (s : State) (i : Nat) (f : RingPair → RingPair) : State :=
  { s with rings := { s.rings with pairs := SMap.modify s.rings.pairs i {} f } }

/-- Result ring i. -/
def State.resAt (s : State) (i : Nat) : ResRing := SMap.getD s.rings.results i {}

/-- The state with result ring i changed. -/
def State.updRes (s : State) (i : Nat) (f : ResRing → ResRing) : State :=
  { s with rings := { s.rings with results := SMap.modify s.rings.results i {} f } }

/-- Mailbox channel n. -/
def State.chanAt (s : State) (n : Nat) : Chan := SMap.getD s.mbx.chans n {}

/-- The state with channel n changed. -/
def State.updChan (s : State) (n : Nat) (f : Chan → Chan) : State :=
  { s with mbx := { s.mbx with chans := SMap.modify s.mbx.chans n {} f }, sec := s.sec.wrote 9 }

/-- Wing w. -/
def State.wingAt (s : State) (w : Nat) : Wing := SMap.getD s.wings w {}

/-- The state with wing w changed. -/
def State.updWing (s : State) (w : Nat) (f : Wing → Wing) : State :=
  { s with wings := SMap.modify s.wings w {} f }

/-- Gallery g's entry of the gallery table. -/
def State.galAt (s : State) (g : Nat) : Gallery := SMap.getD s.galleries g {}

/-- The state with gallery g changed. -/
def State.updGal (s : State) (g : Nat) (f : Gallery → Gallery) : State :=
  { s with galleries := SMap.modify s.galleries g {} f, sec := s.sec.wrote 4 }

/-- The live request an accession number names (R16): its slot is held. -/
def State.req? (s : State) (acc : Nat) : Option Req := (SMap.find s.reg.reqs acc).filter fun r => !r.gone

/-- The state with a live request changed; nothing where the number names none. -/
def State.updReq (s : State) (acc : Nat) (f : Req → Req) : State :=
  { s with reg := { s.reg with reqs := SMap.adjust s.reg.reqs acc f }, sec := s.sec.wrote 0 }

/-- All requests kept, in order of accession number: the live ones, and those whose slot is freed but whose loans are not (R21). -/
def State.allReqs (s : State) : List Req := s.reg.reqs.map (·.2)

/-- The requests that hold a slot, in order of accession number. -/
def State.liveReqs (s : State) : List Req := s.allReqs.filter fun r => !r.gone

/-- The capsule in force, an empty one before boot phase 0x04. -/
def State.cfg (s : State) : Capsule := s.kpr.capsule.getD {}

/-- Site settings of a wing. -/
def State.site (s : State) (w : Nat) : WingSite := nth s.cfg.wings w {}

/-- The partner the capsule names (R338). -/
def State.partner? (s : State) : Option PartnerCfg := s.cfg.partner

/-- The pair side of this member, 0 on an unpaired part (R15, R331). -/
def State.side (s : State) : Nat := (s.partner?.map (·.side)).getD 0

/-- Whether a wing is served (R180, IDN WING_MASK). -/
def State.served (s : State) (w : Nat) : Bool := bit s.kpr.caps.wingMask w && decide (w < 4)

/-- The wings served, ascending. -/
def State.servedWings (s : State) : List Nat := (List.range 4).filter s.served

/-- SECTION (R180). -/
def State.sectionSize (s : State) : Nat :=
  min 1024 (s.kpr.caps.catEntries / max 1 s.servedWings.length)

/-! ## Archive flash (R82) -/

/-- Byte offset and size of a region of the archive flash. -/
def arcRange : ArcRegion → Nat × Nat
  | .directory => (0, 0x10000)
  | .helper => (0x10000, 0x10000)
  | .capsule => (0x20000, 0x40000)
  | .image => (0x100000, 0xF00000)
  | .slotA => (0x1000000, 0xC00000)
  | .slotB => (0x1C00000, 0xC00000)
  | .journal => (0x2800000, 0x1000000)

/-- Size of a region of the archive flash. -/
def arcSize (r : ArcRegion) : Nat := (arcRange r).2

/-! ## Power domains -/

/-- The switch state of a domain. -/
def Power.dom (p : Power) : Dom → DomSt
  | .registrar => p.registrar
  | .curator => p.curator
  | .intake => p.intake
  | .docent => p.docent
  | .control => p.control

/-- The power state with a domain's switch state changed. -/
def Power.setDom (p : Power) (d : Dom) (x : DomSt) : Power :=
  match d with
  | .registrar => { p with registrar := x }
  | .curator => { p with curator := x }
  | .intake => { p with intake := x }
  | .docent => { p with docent := x }
  | .control => { p with control := x }

/-- The domain's bit in KPR_SOFT_RESET and PSW_REQ. -/
def domBit : Dom → Nat
  | .registrar => 0
  | .curator => 1
  | .intake => 2
  | .docent => 3
  | .control => 4

/-- The wakeable domains in bit order. -/
def allDoms : List Dom := [.registrar, .curator, .intake, .docent, .control]

/-- The wakeable domains other than the Registrar. -/
def otherDoms : List Dom := [.curator, .intake, .docent, .control]

/-- Whether a domain is active (R73). -/
def State.active (s : State) (d : Dom) : Bool := (s.power.dom d).active

/-! ## Outputs and free values -/

/-- A transfer on an output port. -/
def State.emit (s : State) (o : PortOut) : State := { s with outs := o :: s.outs }

/-! ## The random source (R318): HMAC_DRBG of SP 800-90A with SHA-384 -/

/-- HMAC-SHA-384 over bytes under a 48-byte key. -/
def drbgMac (key : Hash384) (bs : List Byte) : Hash384 := Config.hmacSha384 (ofBe 48 key.toNat) bs

/-- HMAC_DRBG_Update with provided data, which may be empty. -/
def drbgUpdate (key v : Hash384) (seed : List Byte) : Hash384 × Hash384 :=
  let k1 := drbgMac key (ofBe 48 v.toNat ++ [0] ++ seed)
  let v1 := drbgMac k1 (ofBe 48 v.toNat)
  if seed.isEmpty then (k1, v1)
  else
    let k2 := drbgMac k1 (ofBe 48 v1.toNat ++ [1] ++ seed)
    (k2, drbgMac k2 (ofBe 48 v1.toNat))

/-- Key and value taken up with fresh entropy: the request count begins again. -/
def State.seedFrom (s : State) (key v : Hash384) : State :=
  let r := drbgUpdate key v (ofBe 48 (Config.entropy s.free).toNat)
  { s with sec := { s.sec with drbg := { key := r.1, v := r.2 } }, free := s.free + 1 }

/-- The random source instantiated: key all zero, value all 0x01, then the entropy (R318). -/
def State.seedSource (s : State) : State := s.seedFrom 0 (BitVec.ofNat 384 ((2 ^ 384 - 1) / 255))

/-- The first `n` bytes, at most 48, of the next request of the random source. -/
def State.draw (s : State) (n : Nat) : List Byte := (ofBe 48 (drbgMac s.sec.drbg.key (ofBe 48 s.sec.drbg.v.toNat)).toNat).take n

/-- The state after a request; after 2^20 requests the source is reseeded. -/
def State.drawn (s : State) : State :=
  let r := drbgUpdate s.sec.drbg.key (drbgMac s.sec.drbg.key (ofBe 48 s.sec.drbg.v.toNat)) []
  if s.sec.drbg.requests + 1 < 2 ^ 20 then
    { s with sec := { s.sec with drbg := { key := r.1, v := r.2, requests := s.sec.drbg.requests + 1 } } }
  else s.seedFrom r.1 r.2

/-! ## Counter bank (R399 to R403) -/

/-- Key of counter i of group g. -/
def cntKey (g i : Nat) : Nat := g * 512 + i

/-- Delay of the domain in which a counter's events arise (R402; one class per counter, log entry 11). -/
def cntDelay (key : Nat) : Nat :=
  let g := key / 512
  let i := key % 512
  if g = 0 then (if i = 15 then 4 else 0)
  else if g ≤ 4 then
    (if i = 16 then 6 else if i = 17 || i = 18 then 6 else if i = 5 then 6 else 3)
  else if g = 5 then
    (if i ≤ 5 then 4 else if i ≤ 15 then 2 else if i ≤ 21 then 6 else 2)
  else if g = 6 then
    (if i = 8 then 6 else if i ≤ 8 then 2 else if i ≤ 10 then 0
     else if i = 15 || i = 16 then 4 else if i = 17 then 0 else if i = 18 then 2 else if i = 19 then 3
     else if i = 20 || i = 21 then 6 else if i = 22 then 4 else if i = 13 then 4 else 2)
  else if g = 7 then 0
  else if g = 8 then (if i = 4 || i = 5 then 0 else 2)
  else if g = 9 then (if i ≤ 3 then 6 else if i = 7 then 3 else if i ≥ 8 then 6 else 0)
  else 0

/-- An operation entered for the bank in the tick of its event. -/
def State.bank (s : State) (delay : Nat) (op : BankOp) : State :=
  { s with cnt := { s.cnt with queue := s.cnt.queue ++ [{ event := s.now, due := s.now + delay, op := op }] } }

/-- An increment of counter i of group g by n (R399; from READY onward, group 0x09 only while ACTIVITY is 1, R400). -/
def State.count (s : State) (g i n : Nat) : State :=
  if s.kpr.ready && (g != 9 || s.cnt.activity) then s.bank (cntDelay (cntKey g i)) (.add (cntKey g i) n) else s

/-- A gauge raised to a value if it is larger (R398). -/
def State.gaugeMax (s : State) (g i n : Nat) : State :=
  if s.kpr.ready && (g != 9 || s.cnt.activity) then s.bank (cntDelay (cntKey g i)) (.gaugeMax (cntKey g i) n) else s

/-- A gauge set to a value (R398). -/
def State.gauge (s : State) (g i n : Nat) : State :=
  if s.kpr.ready && (g != 9 || s.cnt.activity) then s.bank (cntDelay (cntKey g i)) (.gauge (cntKey g i) n) else s

/-! ## Ledger (R418) -/

/-- A Ledger counter raised by n, saturating at 2^64 - 1. -/
def State.ledgerAdd (s : State) (i n : Nat) : State :=
  let v := (SMap.getD s.ledger.words i 0).toNat + n
  { s with ledger := { s.ledger with words := SMap.put s.ledger.words i (BitVec.ofNat 64 (min v (2 ^ 64 - 1))) } }

/-- A Ledger gauge set. -/
def State.ledgerSet (s : State) (i n : Nat) : State :=
  { s with ledger := { s.ledger with words := SMap.put s.ledger.words i (BitVec.ofNat 64 n) } }

/-- A Ledger gauge raised to a maximum. -/
def State.ledgerMax (s : State) (i n : Nat) : State :=
  if (SMap.getD s.ledger.words i 0).toNat < n then s.ledgerSet i n else s

/-- Entry i of the Ledger's counter sections. -/
def State.ledgerAt (s : State) (i : Nat) : Nat := (SMap.getD s.ledger.words i 0).toNat

/-- Index of a per-wing Ledger entry. -/
def ledgerWing (w i : Nat) : Nat := 64 + 32 * w + i

/-! ## Interrupts (R63, R64, R431, R432) -/

/-- A message requested for a vector: sent at once if the endpoint owes no acknowledgement, else it waits. -/
def State.requestMsg (s : State) (v : Nat) : State :=
  match s.kpr.irqSent with
  | none => { s with kpr := { s.kpr with irqSent := some (BitVec.ofNat 4 v) }, outs := .message v :: s.outs }
  | some _ => { s with kpr := { s.kpr with irqWait := s.kpr.irqWait ||| BitVec.ofNat 16 (2 ^ v) } }

/-- A message requested for a cause of this tick. -/
def State.announce (s : State) (v : Nat) : State := (s.requestMsg v).mark (128 + v)

/-- A cause of vector v: PENDING[v] is set; if it rises while MASK[v] is 0 a message is requested. -/
def State.raiseVec (s : State) (v : Nat) : State :=
  let risen := !s.kpr.irqPending.getLsbD v
  let s1 := ({ s with kpr := { s.kpr with irqPending := s.kpr.irqPending ||| BitVec.ofNat 16 (2 ^ v) } }).mark (48 + v)
  if risen && !s.kpr.irqMask.getLsbD v then s1.announce v else s1

/-- The next waiting vector, ascending, takes the free endpoint (R431). -/
def State.nextMsg (s : State) : State :=
  match (List.range 16).find? fun v => s.kpr.irqWait.getLsbD v with
  | none => s
  | some v =>
    { s with
      kpr := { s.kpr with irqSent := some (BitVec.ofNat 4 v), irqWait := s.kpr.irqWait &&& ~~~(BitVec.ofNat 16 (2 ^ v)) }
      outs := .message v :: s.outs }

/-- The request that a cause of this tick made for vector v is not made after all: a write of the same tick masks it (R431). -/
def State.withdrawMsg (s : State) (v : Nat) : State :=
  if s.kpr.irqWait.getLsbD v then { s with kpr := { s.kpr with irqWait := s.kpr.irqWait &&& ~~~(BitVec.ofNat 16 (2 ^ v)) } }
  else if s.kpr.irqSent = some (BitVec.ofNat 4 v) then
    ({ s with kpr := { s.kpr with irqSent := none }, outs := s.outs.erase (.message v) }).nextMsg
  else s

/-- A cause of vector 15 with its bit in KPR_IRQ_KEEPER: 0 READY, 1 SNAPSHOT, 2 MAILBOX, 3 CLOCK_OFFSET (R432). -/
def State.keeperCause (s : State) (b : Nat) : State :=
  (({ s with kpr := { s.kpr with irqKeeper := s.kpr.irqKeeper ||| BitVec.ofNat 4 (2 ^ b) } }).mark (40 + b)).raiseVec 15

/-! ## Throttling (R170, R201) -/

/-- Whether a throttling period runs: to 1,000 µs after the last report that carried THROTTLING. -/
def State.throttled (s : State) : Bool := s.cap.inPeriod

/-! ## Trace (R416, R417) -/

/-- Words that the trace buffer holds. -/
def traceWords : Nat := 1024

/-- The header word of a trace packet. -/
def traceHeader (kind source len : Nat) (seq : W16) : W32 :=
  BitVec.ofNat 32 (kind * 2 ^ 28 + source * 2 ^ 24 + len * 2 ^ 20 + seq.toNat)

/-- A packet of n words behind its header dropped whole: it takes a TSEQ value all the same (R417). -/
def State.traceDropped (s : State) (n : Nat) : State :=
  ({ s with cnt := { s.cnt with trcSeq := s.cnt.trcSeq + 1, trcDrops := s.cnt.trcDrops + 1 } }).count 0 15 (1 + n)

/-- One packet put into the buffer, or dropped whole; either way it takes a TSEQ value. -/
def State.tracePacket (s : State) (kind source : Nat) (words : List W32) : State :=
  let c := s.cnt
  let hdr := traceHeader kind source words.length c.trcSeq
  if c.trcBuffer.length + 1 + words.length ≤ traceWords then
    { s with cnt := { c with trcSeq := c.trcSeq + 1, trcBuffer := c.trcBuffer ++ hdr :: words } }
  else s.traceDropped words.length

/-- A SYNC packet (R417). -/
def State.traceSync (s : State) : State :=
  s.tracePacket 1 0 [BitVec.ofNat 32 s.now, BitVec.ofNat 32 (s.now / 2 ^ 32)]

/-- A packet of a selected source: after drops a DROP and a SYNC packet go first, or it is dropped too, a SYNC at the first selection and every 65,536 packets (R417). -/
def State.trace (s : State) (kind source : Nat) (words : List W32) : State :=
  let n := s.cnt.trcDrops
  let s2 :=
    if n = 0 then
      (if s.cnt.trcSeq = 0 && s.cnt.trcSync then ({ s with cnt := { s.cnt with trcSync := false } }).traceSync else s).tracePacket
        kind source words
    else if s.cnt.trcBuffer.length + 6 + words.length ≤ traceWords then
      ((({ s with cnt := { s.cnt with trcDrops := 0 } }).tracePacket 4 0 [BitVec.ofNat 32 n]).traceSync).tracePacket kind source words
    else s.traceDropped words.length
  if s2.cnt.trcSeq = 0 then { s2 with cnt := { s2.cnt with trcSync := true } } else s2

/-- 32-bit words of a byte list, low word first. -/
def words32 : List Byte → List W32
  | a :: b :: c :: d :: rest => BitVec.ofNat 32 (le [a, b, c, d]) :: words32 rest
  | _ => []

/-! ## Event rings (R405 to R407) -/

/-- The 16 bytes of an event ring entry. -/
def eventBytes (ktime cycle code wing arg0 arg1 : Nat) (thr : Bool) : List Byte :=
  ofLe 16 (ktime % 2 ^ 56 + cycle * 2 ^ 58 + code * 2 ^ 64 + wing * 2 ^ 72 + b2n thr * 2 ^ 79
    + (arg0 % 2 ^ 16) * 2 ^ 80 + (arg1 % 2 ^ 32) * 2 ^ 96)

/-- Offset of event ring n. -/
def evrBase (n : Nat) : Nat := 0x500000 + n * 0x1000

/-- Ticks from an event to its ring: the delay of the domain in which it arises (R402, R405); PAIR_STATE arises in Control, RESEND in the Registrar domain, the crypto engine is in the Docent domain. -/
def eventDelay (n code : Nat) : Nat :=
  if n = 8 then 0 else if n = 2 then 2 else if n = 3 then 3
  else if n = 1 ∨ n = 9 ∨ n = 10 then 4
  else if n = 11 then (if code = 0x69 then 2 else 4)
  else 6

/-- An entry reaches ring n, overwriting the oldest one (R405, R406, R416). -/
def State.writeEvent (s : State) (n : Nat) (bs : List Byte) : State :=
  let cnt := SMap.getD s.cnt.evrCount n 0
  let s1 := { s with
    mem := Memory.writeBytes s.mem (evrBase n + (cnt.toNat % 256) * 16) bs
    cnt := { s.cnt with evrCount := SMap.put s.cnt.evrCount n (cnt + 1) }
    sec := s.sec.wrote 8 }
  if s.cnt.trcEvents.getLsbD (n - 1) && decide (1 ≤ n) then s1.trace 2 n (words32 bs) else s1

/-- An event of ring n in this tick: its entry goes to the ring along the path of the counters (R405). CYCLE is a free value, 0 for Keeper events. -/
def State.event (s : State) (n code wing arg0 arg1 : Nat) : State :=
  let cyc := if n = 8 then 0 else Config.eventCycle s.free % 36
  let bs := eventBytes s.now cyc code wing arg0 arg1 s.throttled
  let s1 := { s with free := s.free + 1 }
  if n = 8 then s1.writeEvent n bs else s1.bank (eventDelay n code) (.event n bs)

/-- WING field of an event that concerns no wing. -/
def noWing : Nat := 15

/-! ## Ring indices (R89) -/

/-- Occupancy of a ring whose indices have `n` bits with the wrap bit. -/
def occupancy {n : Nat} (p c : BitVec n) : Nat := (p - c).toNat

/-- Whether a new consumer index lies between the old one and the producer index, both included (R90, R307). -/
def ciAccepted {n : Nat} (p c new : BitVec n) : Bool := decide ((new - c).toNat ≤ (p - c).toNat)

/-! ## Hard halt (R413, R414) -/

/-- Hard halt allowed: service unlock in force and the pair at rest. -/
def State.haltAllowed (s : State) : Bool :=
  s.sec.unlocked && (s.pair.state == .unpaired || s.pair.state == .alone || s.pair.state == .yielded)

/-- STOP field of a domain at this halt: a free offset 0 to 8, or 0xF for a domain that is off. -/
def State.stopOffset (s : State) (d : Dom) : Nat :=
  if s.active d then Config.haltOffset s.free (domBit d) % 9 else 15

/-- The stop of every powered fast domain. -/
def State.halt (s : State) : State :=
  if s.kpr.halted then s
  else
    let offs := allDoms.map s.stopOffset
    let on := offs.filter (· != 15)
    let stop := offs.foldr (fun o acc => acc * 16 + o) 0
    let smeared := on.any fun o => on.any fun o' => o != o'
    let s1 := { s with
      kpr := { s.kpr with
        halted := true, smeared := smeared, smpOut := BitVec.ofNat 9 s.path.smp.length
        stop := BitVec.ofNat 20 stop }
      free := s.free + 1 }
    s1.event 8 4 noWing (stop % 2 ^ 16) (stop / 2 ^ 16)

/-! ## Condition reports (R394, R395) -/

/-- The 64 bytes of a condition report. -/
def reportBytes (seq code sev unit ktime wing gal : Nat) (detail : List Nat) : List Byte :=
  ofLe 4 seq ++ ofLe 2 code ++ ofLe 1 sev ++ ofLe 1 unit ++ ofLe 8 ktime ++ ofLe 1 wing ++ ofLe 1 gal
    ++ ofLe 2 0 ++ (List.range 11).flatMap fun i => ofLe 4 (nth detail i 0)

/-- A condition report written, or dropped and counted in LOST when the ring is full; an armed hard halt on its code follows. `wing` and `gal` are 255 for none. -/
def State.report (s : State) (code sev unit wing gal : Nat) (detail : List Nat) : State :=
  let seq := s.logs.reportSeq.toNat
  let full := decide (occupancy s.logs.cnsPi s.logs.cnsCi ≥ 1024)
  let s1 :=
    if full then
      let l := s.logs
      let lost := if l.cnsLost = 0xFFFF then l.cnsLost else l.cnsLost + 1
      let s0 := { s with
        logs := { l with cnsLost := lost, cnsLostModule := l.cnsLostModule || decide (sev = 2) }
        kpr := { s.kpr with fresh := { s.freshNow with cns := raiseLostBy 1 l.cnsLost s.freshNow.cns } } }
      (if sev = 2 then s0.mark 26 else s0).count 6 16 1
    else
      let bs := reportBytes seq code sev unit s.now wing gal detail
      let at_ := 0x600000 + (s.logs.cnsPi.toNat % 1024) * 64
      let s0 := { s with
        mem := Memory.writeBytes s.mem at_ bs
        sec := s.sec.wrote 8
        logs := { s.logs with cnsPi := s.logs.cnsPi + 1, reportSeq := s.logs.reportSeq + 1 } }
      (((s0.event 9 0x60 (if wing = 255 then noWing else wing) code seq).count 6 15 1).raiseVec 12)
  if s1.kpr.arm && decide (s1.kpr.armCode.toNat = code) && s1.haltAllowed then s1.halt else s1

/-- A report of module severity is unread (R395). -/
def State.moduleUnread (s : State) : Bool :=
  (List.range (occupancy s.logs.cnsPi s.logs.cnsCi)).any fun i =>
    decide (Memory.read s.mem (0x600000 + ((s.logs.cnsCi.toNat + i) % 1024) * 64 + 6) = 2)

/-- Level of MC_IRQ[1] (R65, R201, R395). -/
def State.alert (s : State) : Bool :=
  decide (s.kpr.porLow = false) && (s.moduleUnread || s.logs.cnsLostModule || s.throttled)

/-! ## Refused accesses (R43, R119) -/

/-- The Keeper event of a refused access. -/
def State.logRefused (s : State) (mid : Byte) (addr : Nat) : State := s.event 8 1 noWing mid.toNat addr

/-- A completed access with its response. -/
def State.respond (s : State) (mid : Byte) (ok : Bool) (data : List Byte) : State :=
  { s with rings := { s.rings with out := { mid := mid, ok := ok, data := data } :: s.rings.out } }

end Sys2Proof.Machine
end

