-- ==== Sys2Proof/Machine/Crypto.lean ====
section
/-! DEFINITION. Key derivation and sealing: what Basam forms from the published primitives of Config (13 R283, 15 R317 to R333). -/

namespace Sys2Proof.Machine

open Sys2Proof.Bytes

/-- The bytes of an ASCII text. -/
def ascii (t : String) : List Byte := t.toList.map fun c => BitVec.ofNat 8 c.toNat

/-- A digest as bytes, most significant first. -/
def hashBytes (h : Hash384) : List Byte := ofBe 48 h.toNat

/-- HKDF-Extract of RFC 5869 (R283, R317, R326). -/
def hkdfExtract (salt ikm : List Byte) : Hash384 := Config.hmacSha384 salt ikm

/-- Blocks of HKDF-Expand of RFC 5869. -/
def hkdfBlocks (prk info : List Byte) : Nat → Nat → List Byte → List Byte
  | 0, _, _ => []
  | n + 1, i, last =>
    let t := hashBytes (Config.hmacSha384 prk (last ++ info ++ ofLe 1 i))
    t ++ hkdfBlocks prk info n (i + 1) t

/-- HKDF-Expand of RFC 5869, `n` bytes. -/
def hkdfExpand (prk : Hash384) (info : List Byte) (n : Nat) : List Byte :=
  (hkdfBlocks (hashBytes prk) info (ceilDiv n 48) 1 []).take n

/-- A 32-byte key from bytes. -/
def key256 (bs : List Byte) : Key256 := BitVec.ofNat 256 (le bs.reverse)

/-- A 48-byte string as a number, most significant byte first. -/
def hash384 (bs : List Byte) : Hash384 := BitVec.ofNat 384 (le bs.reverse)

/-- The device secret S_dev as HKDF input; the register that holds it is written by boot phase 0x02 (R317). -/
def deviceSecret : List Byte := hashBytes Config.deviceSecret

/-- PRK_dev (R317). -/
def prkDev : Hash384 := hkdfExtract (List.replicate 48 0) deviceSecret

/-- The scalar that 72 bytes read big-endian give: (v mod (n - 1)) + 1 (R317). -/
def identityScalar (bs : List Byte) : Hash384 := BitVec.ofNat 384 (le bs.reverse % (Config.p384Order - 1) + 1)

/-- The identity key d (R317). -/
def identityKey : Hash384 := identityScalar (hkdfExpand prkDev (ascii "BASAM ID") 72)

/-- The Ledger sealing key (R317). -/
def ledgerKey : Key256 := key256 (hkdfExpand prkDev (ascii "BASAM LS") 32)

/-- The control structure key of key slot 64 (R317). -/
def controlKey : Key256 := key256 (hkdfExpand prkDev (ascii "BASAM CS") 32)

/-- The identity public key as 97 bytes (R319, R320). -/
def identityPublic : PubKey := Config.p384Public identityKey

/-- Public key bytes, 0x04, X, Y. -/
def pubBytes (k : PubKey) : List Byte := ofBe 97 k.toNat

/-- A number's 32 uppercase hexadecimal characters, most significant first. -/
def hexText (v : Nat) : List Byte :=
  (List.range 32).map fun i => let d := v / 16 ^ (31 - i) % 16
    BitVec.ofNat 8 (if d < 10 then 48 + d else 55 + d)

/-- The subject serialNumber of the device certificate: the first 16 bytes of SHA-384 over the public key (R320). -/
def serialNumber : List Byte := hexText (le ((hashBytes (Config.sha384 (pubBytes identityPublic))).take 16).reverse)

/-- Device signature over the SHA-384 of bytes (R319), r then s. -/
def deviceSign (bs : List Byte) : List Byte := ofBe 96 (Config.ecdsaSign identityKey (Config.sha384 bs)).toNat

/-- AES-256-GCM encryption of bytes, byte by byte with the key stream. -/
def gcmXor (k : Key256) (nonce : List Byte) (bs : List Byte) : List Byte :=
  (bs.zipIdx).map fun p => p.1 ^^^ Config.gcmKeystream k nonce p.2

/-- AES-256-GCM sealing: ciphertext and tag. -/
def gcmSeal (k : Key256) (nonce aad pt : List Byte) : List Byte × List Byte :=
  let ct := gcmXor k nonce pt
  (ct, ofBe 16 (Config.gcmTag k nonce aad ct).toNat)

/-- AES-256-GCM opening: the plaintext if the tag verifies. -/
def gcmOpen (k : Key256) (nonce aad ct tag : List Byte) : Option (List Byte) :=
  if ofBe 16 (Config.gcmTag k nonce aad ct).toNat = tag then some (gcmXor k nonce ct) else none

/-- The keys of key generation n from PRK_n, the memory key given (R326). -/
def galleryKeys (prk : Hash384) (n : Nat) (memory : Key256) : GalleryKeys :=
  { secret := hash384 (hkdfExpand prk (ascii "BASAM GS" ++ ofLe 2 n) 48)
    ingress := key256 (hkdfExpand prk (ascii "BASAM IN" ++ ofLe 2 n) 32)
    egress := key256 (hkdfExpand prk (ascii "BASAM EG" ++ ofLe 2 n) 32)
    memory := memory }

/-- The keys GALLERY_OPEN derives from the ECDH secret (R326). -/
def openKeys (z : Hash384) (nonce : List Byte) (g gen : Nat) : GalleryKeys :=
  let prk := hkdfExtract (nonce ++ ofLe 1 g ++ ofLe 4 gen) (hashBytes z)
  galleryKeys prk 0 (key256 (hkdfExpand prk (ascii "BASAM MK") 32))

/-- The keys GALLERY_REKEY derives for the new generation n (R327); MK stays (R144). -/
def rekeyKeys (old : GalleryKeys) (z : Hash384) (n : Nat) : GalleryKeys :=
  galleryKeys (hkdfExtract (hashBytes old.secret) (hashBytes z)) n old.memory

/-- The gallery secret: 48 zero bytes for gallery 0 (R284). -/
def secretOf (g : Nat) (gal : Gallery) : List Byte :=
  if g = 0 then List.replicate 48 0 else hashBytes gal.keys.secret

/-- The request key (R283): k0 in bits [31:0], k1 in bits [63:32]. -/
def requestKey (secret seed : List Byte) (acc : Nat) : W64 :=
  BitVec.ofNat 64 (le (hkdfExpand (hkdfExtract seed secret) (ascii "BASAM RK" ++ ofLe 4 acc) 8))

/-- The record key (R332). -/
def recordKey (egress : Key256) (acc ctr : Nat) : Key256 :=
  key256 ((hashBytes (Config.hmacSha384 (ofBe 32 egress.toNat) (ascii "BASAM RS" ++ ofLe 4 acc ++ ofLe 8 ctr))).take 32)

/-- The egress key and KEY_GEN under which sealing begins in a tick: in the tick that accepted a GALLERY_REKEY still the old ones (R143). -/
def Gallery.egressAt (gal : Gallery) (now : W64) : Key256 × W16 :=
  match gal.oldEgress with
  | some (t, k, n) => if t = now then (k, n) else (gal.keys.egress, gal.keyGen)
  | none => (gal.keys.egress, gal.keyGen)

/-- Sealed reply data (R331, R333): KEY_GEN, SIDE, the ciphertext and the tag. -/
def sealReply (g : Nat) (gal : Gallery) (now : W64) (side ctr : Nat) (nonce pt : List Byte) : List Byte :=
  let kg := if g = 0 then 0 else (gal.egressAt now).2.toNat
  let head := ofLe 2 kg ++ ofLe 1 side ++ ofLe 1 0
  if g = 0 then head ++ pt ++ List.replicate 16 0
  else
    let n := ofLe 1 3 ++ ofLe 1 side ++ ofLe 2 0 ++ ofLe 8 ctr
    let r := gcmSeal (gal.egressAt now).1 n (head ++ nonce) pt
    head ++ r.1 ++ r.2

/-- The shape fingerprint of an entry (R189). -/
def fingerprint (raw : List Byte) : W64 := BitVec.ofNat 64 (le ((hashBytes (Config.sha384 raw)).take 8))

/-- The catalogue digest of a wing's entries (R186). -/
def catalogueDigest (w : Nat) (es : List CatEntry) : Hash384 :=
  Config.sha384 (ofLe 1 w ++ ofLe 4 es.length ++ es.flatMap (·.raw))

end Sys2Proof.Machine
end

