-- ==== Sys2Proof/Machine/Frames.lean ====
section
/-! DEFINITION. The data frames of the pair as bytes: payloads, header, seal and CRC (16 R346, R349 to R351, R354; 15 R328). Nothing but a sealed frame carries a key out. -/

namespace Sys2Proof.Machine

open Sys2Proof.Bytes

/-! ## Payloads -/

/-- Ones of a wing mask. -/
def wingCount (m : Nat) : Nat := ((List.range 4).filter fun w => bit m w).length

/-- The eight capability words, IDN_CAP_WING to IDN_CAP_METHODS in offset order. -/
def capWords (c : Caps) : List Nat :=
  [c.rows * 2 ^ 16 + c.wingMask * 2 ^ 4 + wingCount c.wingMask,
   c.records,
   c.trees * 2 ^ 16 + c.lanes * 2 ^ 8 + c.galleries,
   c.largestK * 2 ^ 16 + c.vreg,
   c.catEntries,
   c.sramKib,
   c.maxShards * 2 ^ 24 + c.specWidth * 2 ^ 20 + c.stopSeqs * 2 ^ 16 + c.tokenBits * 2 ^ 5 + c.logprobs,
   c.methods]

/-- An adjustment area's bytes (R220). -/
def adjustArea (r : Req) : List Byte :=
  ofLe 2 r.bias.length ++ ofLe 2 0 ++ ofLe 4 (twos 32 r.presence) ++ ofLe 4 (twos 32 r.frequency) ++ ofLe 52 0
    ++ r.bias.flatMap fun b => ofLe 4 (twos 32 b.2) ++ ofLe 4 b.1

/-- A request's stop area (R271). -/
def stopArea (r : Req) : List Byte := r.stopSeqs.flatMap fun q => slice (q.flatMap fun t => ofLe 4 (2 ^ 31 + t)) 0 64

/-- The bytes of a HELLO payload before its signature (R351). -/
def helloBody (h : Hello) : List Byte :=
  ofLe 1 h.side ++ ofLe 2 h.behaviour ++ (capWords h.caps).flatMap (ofLe 4) ++ pubBytes h.idKey ++ pubBytes h.share
    ++ h.digests.flatMap (fun d => (d.map hashBytes).getD []) ++ Config.helloTail h.pages h.policies h.galleries

/-- The digest that a HELLO's signature signs (R351). -/
def helloHash (h : Hello) : Hash384 := Config.sha384 (ascii "BASAM PJ" ++ helloBody h)

/-- Codes of mirror record operations (R354). -/
def mirrorOpCode : MirrorOp → Nat
  | .accession => 1
  | .prompt => 2
  | .commit => 3
  | .change => 4
  | .watermark => 5
  | .freed => 6

/-- Bytes padded with zeros to a multiple of 64. -/
def pad64 (bs : List Byte) : List Byte := slice bs 0 (64 * ceilDiv bs.length 64)

/-- Prompt entries that one prompt continuation carries, at most 16,384 (R354). -/
def promptPart (r : Req) (part : Nat) : List Nat := (r.prompt.drop (16384 * part)).take 16384

/-- What stands behind the record image ahead of the ring entries: history entries of a commit; of prompt continuations the prompt entries, the first with the stop area and adjustment half 0 behind them, where the spec gives no place (DESIGN CHOICE, log entry 57). -/
def recTail (m : MirrorRec) : List Byte :=
  match m.op with
  | .prompt => pad64 ((promptPart m.record m.part).flatMap (ofLe 4))
      ++ (if m.part = 0 then stopArea m.record ++ adjustArea m.record else [])
  | _ => pad64 (m.hist.flatMap (ofLe 4))

/-- A mirror record (REC payload of R354). -/
def recBytes (m : MirrorRec) : List Byte :=
  ofLe 4 m.record.acc ++ ofLe 1 (mirrorOpCode m.op) ++ ofLe 1 m.entries.length ++ ofLe 2 m.hist.length ++ ofLe 4 m.releasedSeq
    ++ ofLe 4 0 ++ slice (Config.recordImage m.record) 0 256 ++ recTail m ++ m.entries.flatMap (·.2)

/-- A list cut into pieces of `n`, as many as `k`. -/
def piecesOf {α : Type} (n : Nat) : Nat → List α → List (List α)
  | 0, _ => []
  | k + 1, xs => if xs.isEmpty then [] else xs.take n :: piecesOf n k (xs.drop n)

/-- The mirror records of a request's resynchronisation batch (R349, R352): accession, prompt continuations, the history that the page keeps nine entries at a time, then the sealed entries. -/
def bulkRecs (m : MirrorRec) : List MirrorRec :=
  let part : MirrorRec := { m with entries := [] }
  let kept := m.record.gen.drop (m.record.gen.length - 1024)
  [{ part with op := .accession }]
    ++ ((List.range (max 1 (ceilDiv m.record.prompt.length 16384))).map fun i => { part with op := .prompt, part := i })
    ++ ((piecesOf 9 kept.length kept).map fun h => { part with op := .commit, hist := h })
    ++ ((piecesOf 82 m.entries.length m.entries).map fun es => { part with op := .commit, entries := es })

/-- The payload of an IMAGE frame (R350). -/
def imagePayload : ImageFrame → List Byte
  | .request => ofLe 16 1
  | .chunk n total data _ => ofLe 4 n ++ ofLe 4 data.length ++ ofLe 4 total ++ ofLe 4 0 ++ data
  | .ack => []

/-- The payload of a data frame (R349). -/
def framePayload : FrameOut → List Byte
  | .hello h => helloBody h ++ ofBe 96 h.sig.toNat
  | .time own sent arrived => ofLe 8 own.toNat ++ ofLe 8 sent.toNat ++ ofLe 8 arrived.toNat
  | .rec_ m => recBytes m
  | .ack => []
  | .gallery g a => Config.galleryPayload g a
  | .catalogue c => Config.cataloguePayload c
  | .counter g c => Config.counterPayload g c
  | .bulk m => (bulkRecs m).flatMap recBytes
  | .handback r => ofLe 4 r.acc ++ slice (Config.recordImage r) 0 256
  | .leave => []
  | .image f => imagePayload f

/-- TYPE (R349). -/
def frameType : FrameOut → Nat
  | .hello _ => 0x01
  | .time _ _ _ => 0x02
  | .rec_ _ => 0x03
  | .ack => 0x04
  | .gallery _ _ => 0x05
  | .catalogue _ => 0x06
  | .counter _ _ => 0x07
  | .bulk _ => 0x08
  | .handback _ => 0x09
  | .leave => 0x0A
  | .image _ => 0x0B

/-- HELLO and IMAGE frames travel in clear with a zero TAG (R346, R350). -/
def frameClear : FrameOut → Bool
  | .hello _ => true
  | .image _ => true
  | _ => false

/-! ## The frame (R346) -/

/-- Beats of a frame with a payload of `n` bytes: header, payload, tag and CRC in whole beats. -/
def frameBeats (n : Nat) : Nat := ceilDiv (n + 52) 64

/-- Bytes 0 to 31. -/
def frameHead (p : FrameOut) (fseq acked : Nat) : List Byte :=
  ofLe 1 (frameType p) ++ ofLe 1 1 ++ ofLe 2 (frameBeats (framePayload p).length) ++ ofLe 4 0 ++ ofLe 8 fseq ++ ofLe 8 acked ++ ofLe 8 0

/-- The payload zero-padded so that the tag and CRC end the last beat. -/
def framePlain (p : FrameOut) : List Byte := slice (framePayload p) 0 (64 * frameBeats (framePayload p).length - 52)

/-- The nonce of a sender's frame. -/
def frameNonce (side fseq : Nat) : List Byte := ofLe 1 4 ++ ofLe 1 side ++ ofLe 2 0 ++ ofLe 8 fseq

/-- The payload as it travels: ciphertext under the sender's direction key, or in clear. -/
def frameText (key : Key256) (side : Nat) (p : FrameOut) (fseq : Nat) : List Byte :=
  if frameClear p then framePlain p else gcmXor key (frameNonce side fseq) (framePlain p)

/-- TAG: over the header as additional data and the ciphertext, zero in clear. -/
def frameTag (key : Key256) (side : Nat) (p : FrameOut) (fseq acked : Nat) : BitVec 128 :=
  if frameClear p then 0 else Config.gcmTag key (frameNonce side fseq) (frameHead p fseq acked) (frameText key side p fseq)

/-- CRC over every preceding byte, with a TAG. -/
def frameCrc (key : Key256) (side : Nat) (p : FrameOut) (fseq acked : Nat) (tag : BitVec 128) : W32 :=
  BitVec.ofNat 32 (crc32c (frameHead p fseq acked ++ frameText key side p fseq ++ ofBe 16 tag.toNat))

/-- The bytes of a frame. -/
def frameBytes (key : Key256) (side : Nat) (p : FrameOut) (fseq acked : Nat) : List Byte :=
  let tag := frameTag key side p fseq acked
  frameHead p fseq acked ++ frameText key side p fseq ++ ofBe 16 tag.toNat ++ ofLe 4 (frameCrc key side p fseq acked tag).toNat

/-- The direction key for frames sent by a side (R351). -/
def State.directionKey (s : State) (side : Nat) : Key256 :=
  match s.pair.directionKeys with
  | none => 0
  | some k => if side = 0 then k.1 else k.2

/-- A frame as this member transfers it. -/
def State.ownFrame (s : State) (p : FrameOut) (fseq acked : Nat) : List Byte := frameBytes (s.directionKey s.side) s.side p fseq acked

/-- What the link layer finds of a received frame: its CRC holds and, on a sealed frame, its tag under the partner's direction key (R347). -/
def State.intact (s : State) (hdr : FrameHdr) (p : FrameOut) : Bool :=
  let key := s.directionKey (1 - s.side)
  decide (hdr.crc = frameCrc key (1 - s.side) p hdr.fseq hdr.acked hdr.tag)
    && (frameClear p || decide (hdr.tag = frameTag key (1 - s.side) p hdr.fseq hdr.acked))

end Sys2Proof.Machine
end

