-- ==== Sys2Proof/Machine/Power.lean ====
section
/-! DEFINITION. Clock and power switches: wakes, handshakes, activation (03 R66; 02 R31, R33; 04 R73 to R79), and the rows FCLK_ACK_RISE, FCLK_ACK_FALL, PSW_ACK_RISE, PSW_ACK_FALL. -/

namespace Sys2Proof.Machine

open Sys2Proof.Bytes

/-! ## The pins that hold Basam in reset (R67, R68) -/

/-- A reset pin is low: every VALID, REQ and READY output is 0. -/
def State.resetLow (s : State) : Bool := s.kpr.porLow || s.kpr.fenceLow || s.kpr.blkLow

/-- Nothing of the fast domains moves: a reset pin is low, the part is halted at start-up or by a lockstep (R84), or by a hard halt (R414, R415). -/
def State.dead (s : State) : Bool := s.resetLow || s.kpr.halted || decide (s.kpr.haltCode ≠ 0)

/-- The reset in force: the first low pin in the order of R67. -/
def State.resetPin (s : State) : Option ResetPin :=
  if s.kpr.porLow then some .por else if s.kpr.fenceLow then some .fence
  else if s.kpr.blkLow then some .blk else none

/-- The state with a domain's switch changed. -/
def State.updDom (s : State) (d : Dom) (f : DomSt → DomSt) : State :=
  { s with power := s.power.setDom d (f (s.power.dom d)) }

/-! ## The fast clock (R66, R76) -/

/-- A start at a tick is warm: fewer than PLL_HOLD_US µs since FCLK_ACK last fell; 0xFFFF: the PLL never stops (R76, KPR_CLK_CFG). -/
def State.warmAt (s : State) (tick : Nat) : Bool :=
  match s.power.fclkFell with
  | none => false
  | some t => decide (s.kpr.pllHold = 0xFFFF) || decide (tick - t.toNat < s.kpr.pllHold.toNat * 100)

/-- A start now is warm. -/
def State.warmStart (s : State) : Bool := s.warmAt s.now

/-- FCLK_REQ raised, and the start counted. -/
def State.raiseFclk (s : State) : State :=
  let warm := s.warmStart
  ({ s with power := { s.power with
      fclkReq := true, fclkWaits := false, fclkRose := s.kpr.ktime, coldStart := !warm } }).count 0 (if warm then 12 else 11) 1

/-- FCLK asked for: raised at once, or after FCLK_ACK has fallen (R66). -/
def State.requestFclk (s : State) : State :=
  if s.power.fclkReq then s
  else if s.power.fclkAck then { s with power := { s.power with fclkWaits := true } }
  else s.raiseFclk

/-! ## Wakes (R31, R33, R73) -/

/-- One domain's switch asked for: nothing if it is requested already; after its ACK falls if it is powering down; one tick after RET_EN falls for the Registrar in retention. -/
def State.wakeSwitch (s : State) (d : Dom) : State :=
  let x := s.power.dom d
  if x.req || x.waiting then s
  else
    let later := x.ack || (d == .registrar && s.power.retEn)
    let s1 := if d == .registrar then { s with power := { s.power with retEn := false } } else s
    s1.updDom d fun y => if later then { y with waiting := true, wokenAt := s.kpr.ktime }
      else { y with req := true, wokenAt := s.kpr.ktime }

/-- A wake of domains: the fast clock, the Registrar with any other domain, and the targets (R31, R73). -/
def State.wake (s : State) (ds : List Dom) : State :=
  if s.resetLow || s.kpr.halted then s
  else ds.foldl State.wakeSwitch (s.requestFclk.wakeSwitch .registrar)

/-! ## Activation (R73) -/

/-- Every domain other than the Registrar is off. -/
def State.othersOff (s : State) : Bool :=
  otherDoms.all fun d => !(s.power.dom d).req && !(s.power.dom d).ack && !(s.power.dom d).waiting

/-- Every wakeable domain is off. -/
def State.allOff (s : State) : Bool :=
  s.othersOff && !s.power.registrar.req && !s.power.registrar.ack && !s.power.registrar.waiting

/-- Whether a domain becomes active in the next tick. -/
def State.mayActivate (s : State) (d : Dom) : Bool :=
  let x := s.power.dom d
  x.req && x.ack && !x.active && s.power.fclkAck && (d == .registrar || s.power.registrar.active)

/-- Domains that the WAKE event and the wake counters of one tick concern. -/
def State.activate (s : State) : State :=
  let ds := allDoms.filter s.mayActivate
  if ds.isEmpty then s
  else
    let s1 := ds.foldl (fun t d => (t.updDom d fun x => { x with active := true }).count 0 (6 + domBit d) 1) s
    let s2 := ds.foldl (fun t d => t.ledgerAdd (5 + domBit d) 1) s1
    let mask := sumOf (ds.map fun d => 2 ^ domBit d)
    let lat := maxOf (ds.map fun d => s.now - (s.power.dom d).wokenAt.toNat)
    s2.event 8 3 noWing mask lat

/-- Switches whose request waited for ACK to fall or for RET_EN (R33, R66, R73). -/
def State.raiseWaiting (s : State) : State :=
  allDoms.foldl (fun t d =>
    let x := t.power.dom d
    if x.waiting && !x.ack then t.updDom d fun y => { y with waiting := false, req := true } else t) s

/-- The fast clock in a new tick: a wake that waited for FCLK_ACK to fall raises FCLK_REQ, and FCLK_REQ falls in the tick after the last domain saw its PSW_ACK fall (R66, R78). -/
def State.clockTick (s : State) : State :=
  if s.power.fclkWaits && !s.power.fclkAck then s.raiseFclk
  else if s.power.fclkReq && s.allOff then { s with power := { s.power with fclkReq := false } }
  else s

/-- Bin of a latency among upper bounds; the last bin is open. -/
def binOf (bounds : List Nat) (v : Nat) : Nat := (bounds.filter fun b => decide (b < v)).length

/-! ## Rows -/

/-- FCLK_ACK_RISE (R73): the clock is stable; waiting domains become active in the next tick. -/
def execFclkAckRise (s : State) : Host.Outcome State Fault Refusal :=
  if s.power.fclkReq && !s.power.fclkAck && !s.resetLow then
    let lat := s.now - s.power.fclkRose.toNat
    let s1 := { s with power := { s.power with fclkAck := true } }
    .next (if s.power.coldStart then s1.ledgerAdd (238 + binOf [500, 1000, 2000, 3500, 7000] lat) 1
      else s1.ledgerAdd (232 + binOf [30, 60, 90, 120, 240] lat) 1)
  else .next s

/-- FCLK_ACK_FALL (R66, R76): the clock is gated; the PLL hold time runs, and a waiting wake raises FCLK_REQ in the next tick. -/
def execFclkAckFall (s : State) : Host.Outcome State Fault Refusal :=
  if s.power.fclkAck && !s.power.fclkReq then
    .next { s with power := { s.power with fclkAck := false, fclkFell := some s.kpr.ktime } }
  else .next s

/-- PSW_ACK_RISE (R73): the switch acknowledges; the domain becomes active in the tick after the latest of the three conditions. -/
def execPswAckRise (dom : Dom) (s : State) : Host.Outcome State Fault Refusal :=
  let x := s.power.dom dom
  if x.req && !x.ack && !s.resetLow then .next (s.updDom dom fun y => { y with ack := true })
  else .next s

/-- PSW_ACK_FALL (R66, R78): the domain is off; after the Registrar's fall RET_EN rises, and a postponed wake goes on in the next tick. -/
def execPswAckFall (dom : Dom) (s : State) : Host.Outcome State Fault Refusal :=
  let x := s.power.dom dom
  if x.ack && !x.req then
    let s1 := s.updDom dom fun y => { y with ack := false }
    .next (if dom == .registrar && !x.waiting && !s.resetLow then { s1 with power := { s1.power with retEn := true } } else s1)
  else .next s

end Sys2Proof.Machine
end

