-- ==== Sys2Proof/Machine/Mailbox.lean ====
section
/-! DEFINITION. Mailbox channels, epochs and lock registers as the Keeper holds them (06 R117 to R136). -/

namespace Sys2Proof.Machine

open Sys2Proof.Bytes

/-! ## Identities (R117, R128) -/

/-- Whether a MID is one of an identity's; 0x01 stands for every host MID. -/
def identityHas (b : Nat) (mid : Nat) : Bool :=
  if b = 1 then decide (1 ≤ mid) && decide (mid ≤ 0x1F) else decide (mid = b)

/-- Index of the MBX_EPOCH register of an external MID. -/
def epochIndex (mid : Nat) : Option Nat :=
  if 1 ≤ mid ∧ mid ≤ 0x1F then some 0
  else if 0x20 ≤ mid ∧ mid ≤ 0x23 then some (mid - 0x20 + 1)
  else if mid = 0x28 then some 5
  else if mid = 0x30 then some 6
  else none

/-- The current epoch of an identity (R128). -/
def State.epochOf (s : State) (mid : Nat) : W16 :=
  match epochIndex mid with
  | some i => SMap.getD s.mbx.epochs i 0
  | none => if mid = 0x40 ∨ mid = 0x41 then s.kpr.controlCount else 0

/-- ACK_STALE of a channel (R130). -/
def State.ackStale (s : State) (c : Chan) : Bool := decide (c.ackTx ≠ s.epochOf c.sender.toNat)

/-- The channel is bound and a MID is its sender. -/
def Chan.sentBy (c : Chan) (mid : Nat) : Bool := c.bound && identityHas c.sender.toNat mid

/-- The channel is bound and a MID is its receiver. -/
def Chan.receivedBy (c : Chan) (mid : Nat) : Bool := c.bound && identityHas c.receiver.toNat mid

/-! ## Posting and acknowledging (R122 to R126) -/

/-- A staged word written (words 0 to 6). -/
def State.stageWord (s : State) (n k : Nat) (w : W32) : State :=
  s.updChan n fun c => { c with staging := setNth c.staging k w }

/-- The notice a post raises to the receiver (R124). A binding may name the host or one host MID (R117); the Keeper acts in the tick of the post, see `State.keeperMail`. -/
def State.postNotice (s : State) (n : Nat) : State :=
  let r := (s.chanAt n).receiver.toNat
  if r = 0x40 ∨ r = 0x41 then s.wake [.control]
  else if 1 ≤ r ∧ r ≤ 0x1F then s.keeperCause 2
  else s

/-- A channel with the message of its staged words and word 7, its stamps, and its state before the first post of the tick kept (R122, R126). -/
def Chan.posted (c : Chan) (now : W64) (mid : Byte) (w : W32) (tx rx : W16) : Chan :=
  let before : ChanPrior := { tick := now, mid := mid, slot := c.slot, full := c.full, collision := c.collision, msgTx := c.msgTx, msgRx := c.msgRx }
  match c.prior.filter fun p => p.tick = now with
  | none => { c with
      slot := c.staging ++ [w], full := true, collision := c.collision || c.full, msgTx := tx, msgRx := rx, prior := some before }
  | some p =>
    if mid.toNat < p.mid.toNat then { c with collision := true }
    else { c with slot := c.staging ++ [w], full := true, collision := true, msgTx := tx, msgRx := rx, prior := some { p with mid := mid } }

/-- A post by a MID: word 7 with the staged words becomes the message, with the epochs' stamps (R122, R123). Of two host MIDs that post in one tick the higher one's message stands, whichever comes first in the queue (R126). The order of one tick's accesses is log entry 113. -/
def State.postMessage (s : State) (n : Nat) (mid : Byte) (w : W32) : State :=
  let c := s.chanAt n
  let x := c.posted s.kpr.ktime mid w (s.epochOf c.sender.toNat) (s.epochOf c.receiver.toNat)
  let s1 := s.updChan n fun _ => x
  (if x.collision then s1.mark (64 + n) else s1).postNotice n

/-- SEQ of the message in a channel's slot (R120). -/
def Chan.seq (c : Chan) : W16 := BitVec.ofNat 16 ((nth c.slot 0 0).toNat / 0x10000)

/-- The acknowledgement of a receiver that writes MBX_ACK (R125): nothing while FULL is 0. Behind a post of the same tick it applies to the message that stood before that post, and the post stands (R126). -/
def Chan.acked (c : Chan) (now : W64) (code : W16) : Chan :=
  match c.prior.filter fun p => p.tick = now with
  | none =>
    if c.full then { c with
      full := false, ackValid := true, ackSeq := c.seq, ackCode := code, ackTx := c.msgTx, ackRx := c.msgRx }
    else c
  | some p =>
    if p.full then { c with
      collision := p.collision, ackValid := true, ackSeq := BitVec.ofNat 16 ((nth p.slot 0 0).toNat / 0x10000), ackCode := code
      ackTx := p.msgTx, ackRx := p.msgRx, prior := some { p with full := false } }
    else c

/-- MBX_ACK written by the receiver. -/
def State.writeAckReg (s : State) (n : Nat) (code : W16) : State :=
  let c := (s.chanAt n).acked s.kpr.ktime code
  let s1 := s.updChan n fun _ => c
  if c.ackValid then s1.mark (96 + n) else s1

/-- The acknowledgement of a receiver inside Basam (R125, R127): nothing while FULL is 0. -/
def State.ackMessage (s : State) (n : Nat) (code : W16) : State :=
  if (s.chanAt n).full then
    (s.updChan n fun c => { c with
      full := false, ackValid := true, ackSeq := c.seq, ackCode := code, ackTx := c.msgTx, ackRx := c.msgRx }).mark (96 + n)
  else s

/-- A message Basam itself posts as Control pair A (channel 2, R118): TYPE, sequence number and word 0 of the body. The receiver polls and gets no notice (R124). The spec numbers none of Basam's own messages: SEQ is one above that of the message in the slot (DESIGN CHOICE, log entry 92). -/
def State.controlPost (s : State) (n type word0 : Nat) : State :=
  let c := s.chanAt n
  let seq := (c.seq.toNat + 1) % 2 ^ 16
  let body := ofLe 1 type ++ ofLe 1 0 ++ ofLe 2 seq ++ ofLe 4 word0 ++ List.replicate 22 0
  let ws := words32 (body ++ ofLe 2 (crc16 body))
  ((s.updChan n fun c => { c with staging := ws.take 7 }).postMessage n 0x40 (nth ws 7 0))

/-! ## Reading a message inside Basam (R121, R127, R129) -/

/-- The bytes of the message in a slot. -/
def Chan.bytes (c : Chan) : List Byte := c.slot.flatMap fun w => ofLe 4 w.toNat

/-- What a receiver inside Basam finds in a channel. -/
inductive Mail where
  /-- No message. -/
  | empty
  /-- A message to be acknowledged with a common code and not acted on. -/
  | refuse (code : W16)
  /-- A message of a defined type: TYPE and body words. -/
  | message (type : Nat) (words : List Nat)
deriving DecidableEq, Repr

/-- The message in channel n, checked: CRC first, then TYPE, then the reserved bytes and bits. `types` lists the defined types with the reserved bits of each body word as (words used, mask of the last used word). The order behind the CRC, and RESERVED_SET for words the TYPE does not use, are DESIGN CHOICE, log entry 110. -/
def State.mail (s : State) (n : Nat) (types : List (Nat × Nat × Nat)) : Mail :=
  let c := s.chanAt n
  let bs := c.bytes
  if !c.full then .empty
  else if crc16 (bs.take 30) ≠ field bs 30 2 then .refuse 0x8011
  else match types.find? fun t => t.1 = field bs 0 1 with
    | none => .refuse 0x8010
    | some (ty, used, mask) =>
      let words := (List.range used).map fun i => field bs (4 + 4 * i) 4
      if field bs 1 1 ≠ 0 ∨ !allZero (slice bs (4 + 4 * used) (26 - 4 * used)) ∨ Nat.land (nth words (used - 1) 0) mask ≠ 0 then .refuse 0x8012
      else .message ty words

/-! ## Epochs, locks, latches (R128, R132 to R135, R430) -/

/-- Locks whose owner fails a test released. -/
def State.releaseLocks (s : State) (p : Nat → Bool) : State :=
  { s with mbx := { s.mbx with locks := s.mbx.locks.filter fun e => !p e.2.toNat } }

/-- A write of an external identity's epoch: its locks and high-word latches go with it. -/
def State.writeEpoch (s : State) (i : Nat) (v : W16) : State :=
  let mine := fun mid => decide (epochIndex mid = some i)
  let s1 := { s with mbx := { s.mbx with
    epochs := SMap.put s.mbx.epochs i v
    latches := s.mbx.latches.filter fun e => !mine e.1 } }
  s1.releaseLocks mine

/-- The word a lock read returns: STATE in [31:30], OWNER in [7:0] (R132). -/
def State.lockWord (s : State) (n : Nat) (mid : Byte) : Nat :=
  match SMap.find s.mbx.locks n with
  | none => mid.toNat
  | some o => if o = mid then 2 ^ 30 + mid.toNat else 2 ^ 31 + o.toNat

/-- The reads of lock n in this tick. -/
def State.readsNow (s : State) (n : Nat) : LockReads :=
  match (SMap.find s.mbx.lockReads n).filter fun r => r.tick = s.kpr.ktime with
  | some r => r
  | none => { tick := s.kpr.ktime, fresh := (SMap.find s.mbx.locks n).isNone }

/-- The response k of the tick's accesses, counted from the oldest, with another word. -/
def State.amendResponse (s : State) (k : Nat) (word : Nat) : State :=
  let i := s.rings.out.length - 1 - k
  match s.rings.out[i]? with
  | none => s
  | some r => { s with rings := { s.rings with out := setNth s.rings.out i { r with data := ofLe 4 word } } }

/-- The lowest MID among the readers of a tick. -/
def lowestReader (rs : List (Byte × Nat)) : Option Byte :=
  rs.foldl (fun acc r => match acc with
    | none => some r.1
    | some m => if r.1.toNat < m.toNat then some r.1 else some m) none

/-- The words that the readers of a lock get when a MID acquires it in the tick of their reads (R134). -/
def State.settleReaders (s : State) (n : Nat) (owner : Byte) (rs : List (Byte × Nat)) : State :=
  let s1 := { s with mbx := { s.mbx with locks := SMap.put s.mbx.locks n owner } }
  rs.foldl (fun t r => t.amendResponse r.2 (if r.1 = owner then owner.toNat else 2 ^ 31 + owner.toNat)) s1

/-- A read of a lock: the reader owns it if it was free (R132). Among reads of one tick the lowest MID acquires, whichever comes first in the queue; the words of the others are amended (R134). The reader's own response follows this act. The order of one tick's accesses is log entry 113. -/
def State.acquire (s : State) (n : Nat) (mid : Byte) : State :=
  let reads := s.readsNow n
  let all := reads.readers ++ [(mid, s.rings.out.length)]
  let s1 := { s with mbx := { s.mbx with lockReads := SMap.put s.mbx.lockReads n { reads with readers := all } } }
  match SMap.find s.mbx.locks n with
  | none => { s1 with mbx := { s1.mbx with locks := SMap.put s1.mbx.locks n mid } }
  | some o => if reads.fresh && decide (mid.toNat < o.toNat) then s1.settleReaders n mid reads.readers else s1

/-- The word that a read of lock n by a MID returns in this tick: as `State.lockWord`, and ACQUIRED where the read takes the lock from a higher MID of the same tick (R134). -/
def State.lockRead (s : State) (n : Nat) (mid : Byte) : Nat :=
  match SMap.find s.mbx.locks n with
  | none => mid.toNat
  | some o => if (s.readsNow n).fresh && decide (mid.toNat < o.toNat) then mid.toNat else s.lockWord n mid

/-- A write to a lock: released if the writer owns it, else ignored (R133). A release goes before the reads of other masters in its tick: the lowest of them acquires the lock (R134). -/
def State.release (s : State) (n : Nat) (mid : Byte) : State :=
  if SMap.find s.mbx.locks n = some mid then
    let s1 := { s with mbx := { s.mbx with locks := SMap.drop s.mbx.locks n } }
    let reads := s.readsNow n
    let others := reads.readers.filter fun r => decide (r.1 ≠ mid)
    if reads.fresh then s1
    else match lowestReader others with
      | none => s1
      | some m => ({ s1 with mbx := { s1.mbx with lockReads := SMap.put s1.mbx.lockReads n { reads with fresh := true } } }).settleReaders n m others
  else s

end Sys2Proof.Machine
end

