-- ==== Sys2Proof/Machine/Packets.lean ====
section
/-! DEFINITION. The front end of every command: taking a packet from a ring, chains, checks 1 to 8, the apply sequence, and the reply (05 R89 to R108). -/

namespace Sys2Proof.Machine

open Sys2Proof.Bytes

/-! ## Status codes (R108) -/

abbrev stOk : Nat := 0x00
abbrev stPending : Nat := 0x01
abbrev stBadOpcode : Nat := 0x10
abbrev stBadCrc : Nat := 0x11
abbrev stReservedSet : Nat := 0x12
abbrev stBadLength : Nat := 0x13
abbrev stBadParam : Nat := 0x14
abbrev stChainBroken : Nat := 0x15
abbrev stNoGallery : Nat := 0x16
abbrev stNoRequest : Nat := 0x17
abbrev stNotAuthorised : Nat := 0x20
abbrev stSealFail : Nat := 0x21
abbrev stReplayed : Nat := 0x22
abbrev stGalleryState : Nat := 0x23
abbrev stBadKey : Nat := 0x24
abbrev stBadSignature : Nat := 0x25
abbrev stInfeasible : Nat := 0x30
abbrev stBusy : Nat := 0x31
abbrev stNoRecord : Nat := 0x32
abbrev stOverBudget : Nat := 0x33
abbrev stMethodUnsupported : Nat := 0x34
abbrev stNoSpare : Nat := 0x35
abbrev stNotReady : Nat := 0x36
abbrev stFrozen : Nat := 0x37
abbrev stNotPaired : Nat := 0x40
abbrev stPairMismatch : Nat := 0x41
abbrev stPairDegraded : Nat := 0x42
abbrev stFencePending : Nat := 0x43

/-! ## Headers and ring memory (R89, R96) -/

/-- Offset of a byte of command ring i, wrapped at its end (R98). -/
def cmdAddr (i off : Nat) : Nat := 0x100000 + i * 0x10000 + off % 0x10000

/-- Offset of a byte of reply ring i. -/
def rplAddr (i off : Nat) : Nat := 0x180000 + i * 0x10000 + off % 0x10000

/-- `n` bytes of command ring i from a byte offset on. -/
def State.cmdBytes (s : State) (i off : Nat) : Nat → List Byte
  | 0 => []
  | n + 1 => Memory.read s.mem (cmdAddr i off) :: State.cmdBytes s i (off + 1) n

/-- Bytes written to reply ring i from a byte offset on. -/
def writeRpl (m : Memory) (i off : Nat) : List Byte → Memory
  | [] => m
  | b :: bs => writeRpl (Memory.write m (rplAddr i off) b) i (off + 1) bs

/-- A packet header (R96). -/
structure Header where
  op : Nat := 0
  flags : Nat := 0
  length : Nat := 0
  tag : Nat := 0
  gallery : Nat := 0
  status : Nat := 0
  reserved : Nat := 0
  crc : Nat := 0
deriving DecidableEq, Repr

/-- The header that 16 bytes hold. -/
def parseHeader (bs : List Byte) : Header :=
  { op := field bs 0 1, flags := field bs 1 1, length := field bs 2 2, tag := field bs 4 4
    gallery := field bs 8 1, status := field bs 9 1, reserved := field bs 10 2, crc := field bs 12 4 }

/-- The header at the consumer index of ring i. -/
def State.headerAt (s : State) (i : Nat) : Header :=
  parseHeader (s.cmdBytes i ((s.pairAt i).cmdCi.toNat % 4096 * 16) 16)

/-- LENGTH in range (R98). -/
def Header.lengthOk (h : Header) : Bool := decide (1 ≤ h.length) && decide (h.length ≤ 2048)

/-- MORE and BARRIER (R96). -/
def Header.more (h : Header) : Bool := bit h.flags 0
def Header.barrier (h : Header) : Bool := bit h.flags 1

/-- The packet's bytes at the consumer index of ring i. -/
def State.packetBytes (s : State) (i : Nat) : List Byte :=
  s.cmdBytes i ((s.pairAt i).cmdCi.toNat % 4096 * 16) ((s.headerAt i).length * 16)

/-- CRC-32C over a packet with bytes 12 to 15 taken as zero (R97). -/
def packetCrc (bs : List Byte) : Nat := crc32c (bs.take 12 ++ List.replicate 4 0 ++ bs.drop 16)

/-! ## Opcodes (R109) -/

/-- The defined opcodes. -/
def opcodes : List Nat :=
  [0x00, 0x01, 0x02, 0x03, 0x10, 0x11, 0x12, 0x13, 0x14, 0x15, 0x16, 0x20, 0x21, 0x22, 0x23, 0x24,
   0x30, 0x31, 0x32, 0x33, 0x34, 0x35, 0x40, 0x41, 0x42, 0x43, 0x44, 0x50, 0x51, 0x52, 0x53, 0x54, 0x55, 0x56,
   0x60, 0x61, 0x62, 0x63, 0x64, 0x70, 0x71, 0x72, 0x73]

/-- Opcodes that name a gallery (R96). -/
def namesGallery (op : Nat) : Bool := decide (op = 0x03) || decide (op / 16 = 1) || decide (op / 16 = 2)

/-- Opcodes whose payload is sealed (R105, R112). -/
def isSealed (op : Nat) : Bool := [0x13, 0x14, 0x15, 0x20, 0x22, 0x24].contains op

/-- Opcodes taken while a boundary freeze holds (R109). -/
def frozenOk (op : Nat) : Bool := decide (op / 16 = 0) || decide (op / 16 = 6) || decide (op = 0x50)

/-- COUNT of GET_CERTIFICATE and LEDGER_READ as the reply's data can carry it: a multiple of 16 up to a limit; any other is refused with no data. -/
def countData (n limit : Nat) : Nat := if n % 16 = 0 ∧ n ≤ limit then 16 + n else 0

/-- Longest reply data of an opcode in bytes, from its clear parameters (R93, R109). `pl` is the payload. -/
def longestData (op : Nat) (pl : List Byte) : Nat :=
  match op with
  | 0x01 => 32
  | 0x02 => countData (field pl 4 4) 32704
  | 0x03 => 848
  | 0x10 => 288
  | 0x11 => 16
  | 0x13 => 132
  | 0x14 => 16
  | 0x15 => 308
  | 0x16 => 48
  | 0x20 => 32
  | 0x21 => 16
  | 0x23 => 32
  | 0x56 => countData (field pl 4 4) 32720
  | 0x60 => 16
  | 0x70 => 48
  | 0x00 | 0x12 | 0x22 | 0x24 | 0x34 | 0x33 | 0x41 | 0x44 | 0x61 | 0x62 | 0x63 | 0x64 | 0x71 | 0x72 => 0
  | _ => 16

/-- Units of the longest reply a packet can receive (R93). -/
def longestUnits (h : Header) (pl : List Byte) : Nat :=
  if opcodes.contains h.op && h.lengthOk then 2 + ceilDiv (longestData h.op pl) 16 else 2

/-- Opcodes that ask the crypto engine for something (15): opening a sealed payload of a tenant gallery, signing, verifying, key agreement. -/
def usesCrypto (op gallery : Nat) : Bool :=
  (isSealed op && decide (gallery ≠ 0)) || [0x03, 0x10, 0x31, 0x54, 0x71, 0x73].contains op

/-- A request to the crypto engine powers up the Docent domain (02, units of the block). -/
def State.cryptoWake (s : State) (op gallery : Nat) : State := if usesCrypto op gallery then s.wake [.docent] else s

/-! ## Taking (R85, R91 to R93, R101, R102) -/

/-- A freeze holds for wing w. -/
def State.frozen (s : State) (w : Nat) : Bool := s.cnt.holding.getLsbD w

/-- A yielded member composes for no paired wing and withholds its releases (R363). -/
def State.withheld (s : State) (w : Nat) : Bool := s.pair.state == .yielded && (s.wingAt w).paired

/-- Composition may take place on wing w: READY, Curator active, no freeze, no halt, issue not ended by R381. -/
def State.mayCompose (s : State) (w : Nat) : Bool :=
  s.kpr.ready && s.active .curator && !s.kpr.halted && !s.resetLow && s.served w && !s.frozen w && !(s.wingAt w).stopped && !s.withheld w
    && (s.wingAt w).pending.isNone && (s.wingAt w).composed.isNone && (s.wingAt w).replayOf.isNone

/-- A timer's tick is reached: the target less its lead, and not in the tick in which the timer was armed (R71). -/
def Wing.fires (x : Wing) (now lead : Nat) (target : Nat) : Bool := decide (target ≤ now + lead) && decide (x.armedAt.toNat < now)

/-- A compose point of the wing has been reached and is still to act. -/
def State.composeDue (s : State) (w : Nat) : Bool :=
  let x := s.wingAt w
  match x.composeAt, x.running with
  | some t, some run => x.fires s.now 0 t.toNat && s.mayCompose w && decide (run.discarded = 0)
  | _, _ => false

/-- Commands are taken: READY, Control active, no halt (R84, R85, R415). In the tick of a compose point they follow it: composition reads the state as it stood when the compose point began (R30, R101). DEDUCED, log entry 114. -/
def State.takesCommands (s : State) : Bool :=
  s.kpr.ready && s.active .control && !s.kpr.halted && decide (s.kpr.haltCode = 0) && !s.servedWings.any s.composeDue

/-- Activities started by a command still run: any of them has a lower apply sequence than a command not yet taken (R102). -/
def State.commandActivity (s : State) : Bool := s.maint.running.any fun a => a.seq.isSome

/-- The packet continues the chain (R99). -/
def Chain.continues (ch : Chain) (h : Header) : Bool :=
  decide (ch.op = h.op) && decide (ch.tag = h.tag) && decide (ch.gallery = h.gallery)

/-- Units of the replies that taking the packet at the front of ring i may bring: the CHAIN_BROKEN of a chain it ends (R99), and its own (R93). A chain's parameters stand in its first packet. -/
def State.replyRoom (s : State) (i : Nat) : Nat :=
  let p := s.pairAt i
  let h := s.headerAt i
  let pl := s.cmdBytes i (p.cmdCi.toNat % 4096 * 16 + 16) 16
  match p.chain with
  | none => longestUnits h pl
  | some ch => if ch.continues h then longestUnits h (ch.payload ++ pl) else 2 + longestUnits h pl

/-- Ring i holds a complete packet that may be taken now. -/
def State.canTake (s : State) (i : Nat) : Bool :=
  let p := s.pairAt i
  let h := s.headerAt i
  let occ := occupancy p.cmdPi p.cmdCi
  s.takesCommands && !p.stopped && !p.resetBusy && decide (1 ≤ occ)
    && (!h.lengthOk || decide (h.length ≤ occ))
    && !(s.rings.replies.any fun r => decide (r.ring = i))
    && decide (occupancy p.rplPi p.rplCi + s.replyRoom i ≤ 4096)
    && !(h.lengthOk && h.barrier && s.commandActivity)

/-- The ring served next: the first that can be taken, ascending from the ring after the one served last (R92). -/
def State.nextRing (s : State) : Option Nat :=
  ((List.range 8).map fun k => (s.rings.lastRing + 1 + k) % 8).find? s.canTake

/-- A command taken whole: its header's fields and its payload (R96, R99). -/
structure Cmd where
  ring : Nat := 0
  op : Nat := 0
  tag : Nat := 0
  gallery : Nat := 0
  payload : List Byte := []
  /-- A reserved header bit was set in one of its packets. -/
  reserved : Bool := false
  /-- Units of its packets. -/
  units : Nat := 0
deriving DecidableEq, Repr

/-- What taking the packet at the consumer index of a ring gives. -/
inductive Taken where
  /-- No packet of this ring is the next to be taken. -/
  | nothing
  /-- LENGTH out of range: the ring stops (R98). -/
  | badLength (h : Header)
  /-- A CRC that fails (R98). -/
  | badCrc (c : Cmd) (s : State)
  /-- A packet of a chain that is not its last. -/
  | part (s : State)
  /-- A 129th packet (R99). -/
  | tooLong (c : Cmd) (s : State)
  /-- The last packet of a command: the state with the packet taken. -/
  | whole (c : Cmd) (s : State)

/-! ## Replies (R94, R97, R104) -/

/-- The bytes of a reply packet, CRC included. -/
def replyBytes (op gallery tag status : Nat) (phase : Bool) (seq ktime : Nat) (data : List Byte) : List Byte :=
  let units := 2 + ceilDiv data.length 16
  let body := ofLe 4 seq ++ ofLe 4 0 ++ ofLe 8 ktime ++ slice data 0 ((units - 2) * 16)
  let head := ofLe 1 op ++ ofLe 1 (b2n phase * 128) ++ ofLe 2 units ++ ofLe 4 tag ++ ofLe 1 gallery
    ++ ofLe 1 status ++ ofLe 2 0
  let crc := crc32c (head ++ ofLe 4 0 ++ body)
  head ++ ofLe 4 crc ++ body

/-- A reply written to reply ring i: units, producer index, vector, COMMAND event (R94, R407). -/
def State.writeReply (s : State) (i op gallery tag status : Nat) (seq : W32) (ktime : W64) (data : List Byte) : State :=
  let p := s.pairAt i
  let phase := !p.rplPi.getLsbD 12
  let bs := replyBytes op gallery tag status phase seq.toNat ktime.toNat data
  let s1 := { s with mem := writeRpl s.mem i (p.rplPi.toNat % 4096 * 16) bs, sec := s.sec.wrote 3 }
  let s2 := s1.updPair i fun q => { q with rplPi := q.rplPi + BitVec.ofNat 13 (bs.length / 16) }
  (s2.raiseVec (8 + i / 2)).event 10 0x10 noWing (op + status * 256) seq.toNat

/-- The next value of the apply sequence taken (R101). -/
def State.applied (s : State) : State := { s with rings := { s.rings with applySeq := s.rings.applySeq + 1, appliedAt := some s.kpr.ktime } }

/-- A command answered at once: it takes the next apply sequence value and its reply is written (R101, R104). -/
def State.answer (s : State) (c : Cmd) (status : Nat) (data : List Byte) : State :=
  let s1 := s.applied
  s1.writeReply c.ring c.op c.gallery c.tag status s1.rings.applySeq s1.kpr.ktime data

/-- The packet at the front of ring i taken: copied, and the consumer index advanced past it (R91). -/
def State.advance (s : State) (i units : Nat) : State :=
  let s1 := s.updPair i fun p => { p with cmdCi := p.cmdCi + BitVec.ofNat 13 units }
  { s1 with rings := { s1.rings with lastRing := i } }

/-- A chain that an interrupting packet ends is answered once with CHAIN_BROKEN and discarded (R99). -/
def State.breakChain (s : State) (i : Nat) (h : Header) : State :=
  match (s.pairAt i).chain with
  | none => s
  | some ch =>
    if ch.continues h then s
    else
      let s1 := s.updPair i fun p => { p with chain := none }
      s1.answer { ring := i, op := ch.op, tag := ch.tag, gallery := ch.gallery } stChainBroken []

/-- Reserved bits of a command header (R96): PHASE, [6:2], STATUS, [95:80]. -/
def Header.reservedSet (h : Header) : Bool :=
  decide (bits h.flags 7 2 ≠ 0) || decide (h.status ≠ 0) || decide (h.reserved ≠ 0)

/-- Taking the packet at the front of ring i if it is the next to be served (R91, R92, R98, R99). -/
def State.take (s : State) (i : Nat) : Taken :=
  if s.nextRing = some i then
    let h := s.headerAt i
    if !h.lengthOk then .badLength h
    else
      let bs := s.packetBytes i
      let s0 := (s.breakChain i h).advance i h.length
      let ch : Chain := ((s0.pairAt i).chain).getD { op := h.op, tag := h.tag, gallery := h.gallery }
      let c : Cmd := { ring := i, op := h.op, tag := h.tag, gallery := h.gallery
                       payload := ch.payload ++ bs.drop 16, reserved := ch.broken || h.reservedSet
                       units := ch.packets + ch.payload.length / 16 + h.length }
      let s1 := s0.updPair i fun p => { p with chain := none }
      if decide (packetCrc bs ≠ h.crc) then .badCrc c s1
      else if decide (ch.packets + 1 > 128) then .tooLong c s1
      else if h.more then
        let ch' : Chain := { ch with packets := ch.packets + 1, broken := c.reserved, payload := c.payload }
        .part (s1.updPair i fun p => { p with chain := some ch' })
      else .whole c s1
  else .nothing

/-! ## What a command's own part answers -/

/-- What a command waits for before its reply is written (R140, R340, R354). -/
structure Waits where
  kyb : List Nat := []
  fence : Nat := 0
  cover : Option Nat := none
  /-- The request the command accessioned. -/
  acc : Option Nat := none
deriving DecidableEq, Repr

/-- The outcome of a command's own checks and effect: the state, the status, the reply data, and what the reply waits for. -/
structure Done where
  state : State
  status : Nat := stOk
  data : List Byte := []
  waits : Option Waits := none

/-- A refusal: the state unchanged, the status, no reply data. -/
def Done.refuse (s : State) (status : Nat) : Done := { state := s, status := status }

/-- A refusal by the maintenance arbiter: BUSY and the running activity (R103). -/
def Done.busy (s : State) (code : Nat) : Done := { state := s, status := stBusy, data := ofLe 16 code }

/-- The reply to a command whose effect is made: written at once, or kept until what it waits for is complete, with what a soft reset of Control takes back. The apply sequence value was taken before the effect; `old` is its gallery's entry before the command. -/
def finish (c : Cmd) (old : Gallery) (seq : W32) (ktime : W64) (d : Done) : State :=
  match d.waits with
  | none => d.state.writeReply c.ring c.op c.gallery c.tag d.status seq ktime d.data
  | some w =>
    { d.state with rings := { d.state.rings with replies := d.state.rings.replies ++
      [{ ring := c.ring, op := c.op, gallery := c.gallery, tag := c.tag, status := d.status, data := d.data
         applySeq := seq, applyKtime := ktime, waitKyb := w.kyb, waitFence := w.fence, waitCover := w.cover
         units := c.units, before := old, ctr := (d.state.galAt c.gallery).lastCtr, acc := w.acc }] } }

/-- Whether a kept reply may be written. -/
def PendingReply.ready (r : PendingReply) (s : State) : Bool :=
  let stranded := s.pair.state == .degraded || s.pair.state == .takeover || s.pair.state == .survivor
    || s.pair.state == .alone || s.pair.state == .unpaired || s.pair.state == .yielded
  let fenced := decide (r.waitFence ≤ s.pair.acked) || stranded
  let covered := match r.waitCover with
    | none => true
    | some a => stranded || ((s.req? a).map fun r =>
        r.mirrorCovered || r.degraded || (s.pair.session && !(s.wingAt r.wing).paired)).getD true
  r.waitKyb.isEmpty && fenced && covered

/-- Every kept reply whose waits are over is written, in the order of the commands (R102, R371). -/
def State.flushReplies (s : State) : State :=
  let rs := s.rings.replies
  let s0 := { s with rings := { s.rings with replies := [] } }
  rs.foldl (fun t r =>
    if r.ready s then t.writeReply r.ring r.op r.gallery r.tag r.status r.applySeq r.applyKtime r.data
    else { t with rings := { t.rings with replies := t.rings.replies ++ [r] } }) s0

/-! ## Checks 3 to 6 (R100) -/

/-- What the layout of an opcode's clear payload asks: which payload lengths suit it, which reserved fields it has, which parameters are in range. -/
structure Layout where
  lenOk : List Byte → Bool := fun _ => true
  /-- (offset, bytes) of reserved fields. -/
  reserved : List (Nat × Nat) := []
  /-- (offset, mask) of bytes with reserved bits. -/
  masks : List (Nat × Nat) := []
  /-- Padding outside the layout is zero (R112). -/
  padOk : List Byte → Bool := fun _ => true
  params : State → List Byte → Option (Nat × List Byte) := fun _ _ => none

/-- GALLERY exists and its state suits the opcode (R26, R137); none when it does. -/
def State.galleryCheck (s : State) (op g : Nat) : Option Nat :=
  if !namesGallery op then none
  else if g ≥ s.kpr.caps.galleries then some stNoGallery
  else if op = 0x03 then none
  else
    let st := (s.galAt g).state
    if op = 0x12 || op = 0x16 then none
    else if op = 0x10 then (if st = 0 then none else some stGalleryState)
    else if st = 1 then none else some stGalleryState

/-- Whether the issuer may use the opcode: GALLERY_OPEN is not authorised during a service unlock (R115). -/
def State.issuerOk (s : State) (op : Nat) : Bool := !(decide (op = 0x10) && s.sec.unlocked)

/-- Checks 3 to 6 of a clear command; none when all pass. Reserved fields and padding are tested where they lie in the payload, whatever its length (R100). -/
def State.checks (s : State) (c : Cmd) (l : Layout) : Option (Nat × List Byte) :=
  if c.reserved || (!namesGallery c.op && decide (c.gallery ≠ 0))
      || (l.reserved.any fun r => !allZero (slice c.payload r.1 r.2))
      || !l.padOk c.payload || (l.masks.any fun m => decide (Nat.land (field c.payload m.1 1) m.2 ≠ 0)) then some (stReservedSet, [])
  else if !s.issuerOk c.op then some (stNotAuthorised, [])
  else if decide (s.cnt.holding ≠ 0) && !frozenOk c.op then some (stFrozen, [])
  else match s.galleryCheck c.op c.gallery with
    | some st => some (st, [])
    | none =>
      if !l.lenOk c.payload then some (stBadLength, [])
      else l.params s c.payload

/-- A clear command of an opcode: the packet is taken and checked, then the command's own tests and effect are made in one act with its reply (R81, R100, R101). A packet that is not next, or of another opcode, leaves the state as it is (log entry 1). -/
def clearCommand (op : Nat) (l : Layout) (body : Cmd → State → Done) (ring : Fin 8) (s : State) : State :=
  if (s.headerAt ring.val).op ≠ op then s
  else match s.take ring.val with
    | .nothing => s
    | .badLength _ => s
    | .badCrc c s1 => s1.answer c stBadCrc []
    | .part s1 => s1
    | .tooLong c s1 => s1.answer c stBadLength []
    | .whole c s1 =>
      match s1.checks c l with
      | some (st, data) => s1.answer c st data
      | none =>
        let s2 := (s1.cryptoWake c.op c.gallery).applied
        finish c (s1.galAt c.gallery) s2.rings.applySeq s2.kpr.ktime (body c s2)

/-! ## Sealed commands (R105 to R107, R329) -/

/-- A sealed command opened: its ingress counter, NONCE, TARGET and plaintext. -/
structure Opened where
  ctr : Nat := 0
  nonce : List Byte := []
  target : Nat := 0
  plain : List Byte := []
deriving DecidableEq, Repr

/-- The first four NONCE bytes are 0x01, 0, 0, 0 (R105). -/
def nonceOk (nonce : List Byte) : Bool := decide (field nonce 0 4 = 1)

/-- Check 7: the plaintext of a sealed field, in clear in gallery 0 (R106). -/
def State.unseal (s : State) (g : Nat) (nonce aad ct tag : List Byte) : Except Nat (List Byte) :=
  if g = 0 then (if allZero tag then .ok ct else .error stReservedSet)
  else match gcmOpen (s.galAt g).keys.ingress nonce aad ct tag with
    | some pt => .ok pt
    | none => .error stSealFail

/-- Check 7 of a command other than SUBMIT: the ciphertext is as long as the LENGTH declares that its first four bytes spell, and zeros fill the field behind it (R105); a tenant may also seal the padding with the rest (R329; DESIGN CHOICE, log entry 99). -/
def State.unsealField (s : State) (g : Nat) (nonce aad ct tag : List Byte) : Except Nat (List Byte) :=
  let k := (s.galAt g).keys.ingress
  let n := field (gcmXor k nonce (ct.take 4)) 0 4
  match (if g ≠ 0 ∧ 4 ≤ n ∧ n < ct.length ∧ allZero (ct.drop n) then gcmOpen k nonce aad (ct.take n) tag else none) with
  | some pt => .ok pt
  | none => s.unseal g nonce aad ct tag

/-- The event of a tag that does not verify (R407). -/
def State.tagFail (s : State) (g ctr st : Nat) : State :=
  if st = stSealFail then s.event 12 0x70 noWing g ctr else s

/-- The last accepted ingress counter raised (R100, R340). -/
def State.acceptCtr (s : State) (g ctr : Nat) : State :=
  s.updGal g fun x => { x with lastCtr := BitVec.ofNat 64 ctr }

/-- The clear fields of a sealed command's payload: NONCE, additional data, ciphertext, tag, TARGET. -/
structure Envelope where
  nonce : List Byte := []
  aad : List Byte := []
  ct : List Byte := []
  tag : List Byte := []
  target : Nat := 0
  /-- The plaintext declares where the ciphertext ends (R105). -/
  declared : Bool := false
deriving DecidableEq, Repr

/-- The envelope of an S command other than SUBMIT (R105). -/
def plainEnvelope (pl : List Byte) : Envelope :=
  { nonce := slice pl 0 12, aad := slice pl 0 16, ct := (pl.drop 16).take (pl.length - 32)
    tag := slice pl (pl.length - 16) 16, target := field pl 12 4, declared := true }

/-- Check 7 of an envelope. -/
def State.opened (s : State) (g : Nat) (e : Envelope) : Except Nat (List Byte) :=
  if e.declared then s.unsealField g e.nonce e.aad e.ct e.tag else s.unseal g e.nonce e.aad e.ct e.tag

/-- LENGTH of a sealed plaintext is inside it and its padding is zero; the bytes that carry meaning (R329). -/
def openBody (pt : List Byte) : Option (List Byte) :=
  let n := field pt 0 4
  if decide (n ≤ pt.length) && decide (4 ≤ n) && allZero (pt.drop n) then some (pt.take n) else none

/-- Layout of the clear part of a sealed payload: room for NONCE, TARGET and tag. -/
def sealedLayout : Layout :=
  { lenOk := fun pl => decide (pl.length ≥ 32)
    params := fun _ pl => if nonceOk (slice pl 0 12) then none else some (stBadParam, []) }

/-- The same where TARGET must be zero (R109). -/
def sealedLayout0 : Layout :=
  { lenOk := fun pl => decide (pl.length ≥ 32)
    params := fun _ pl => if nonceOk (slice pl 0 12) && decide (field pl 12 4 = 0) then none else some (stBadParam, []) }

/-- A sealed command whose packet is taken: checks 3 to 8, then its own part. `accepts` says whether the opened plaintext belongs to this row; where it does not, the state stays as it was before the packet was taken. `env` reads the envelope from the payload. -/
def sealedCommand (op : Nat) (l : Layout) (env : List Byte → Envelope) (accepts : List Byte → Bool)
    (body : Cmd → Opened → State → Done) (ring : Fin 8) (s : State) : State :=
  if (s.headerAt ring.val).op ≠ op then s
  else match s.take ring.val with
    | .nothing => s
    | .badLength _ => s
    | .badCrc c s1 => s1.answer c stBadCrc []
    | .part s1 => s1
    | .tooLong c s1 => s1.answer c stBadLength []
    | .whole c s1 =>
      match s1.checks c l with
      | some (st, data) => s1.answer c st data
      | none =>
        let e := env c.payload
        let ctr := field e.nonce 4 8
        match s1.opened c.gallery e with
        | .error st => (s1.tagFail c.gallery ctr st).answer c st []
        | .ok pt =>
          if !accepts pt then s
          else if ctr ≤ (s1.galAt c.gallery).lastCtr.toNat then s1.answer c stReplayed []
          else
            let s2 := ((s1.cryptoWake c.op c.gallery).acceptCtr c.gallery ctr).applied
            finish c (s1.galAt c.gallery) s2.rings.applySeq s2.kpr.ktime (body c { ctr := ctr, nonce := e.nonce, target := e.target, plain := pt } s2)

/-- Row BAD_OPCODE (R98, R100): an undefined opcode, or LENGTH out of range, which stops the ring. A chain that such a packet continues ends with it, in one reply (R99). -/
def badOpcodeCommand (ring : Fin 8) (s : State) : State :=
  let h := s.headerAt ring.val
  if h.lengthOk && opcodes.contains h.op then s
  else match s.take ring.val with
    | .nothing => s
    | .badLength h =>
      let s1 := s.breakChain ring.val h
      let s2 := s1.updPair ring.val fun p => { p with stopped := true, chain := none }
      { s2 with rings := { s2.rings with lastRing := ring.val } }.answer
        { ring := ring.val, op := h.op, tag := h.tag, gallery := h.gallery } stBadLength []
    | .badCrc c s1 => s1.answer c stBadCrc []
    | .part s1 => s1
    | .tooLong c s1 => s1.answer c stBadLength []
    | .whole c s1 => s1.answer c stBadOpcode []

end Sys2Proof.Machine
end

