-- ==== Sys2Proof/Machine/PairOps.lean ====
section
/-! DEFINITION. The ports to stack memory, key slots and the partner, and the pair's shared operations (03 SMP, KYB; 16 R340 to R368). -/

namespace Sys2Proof.Machine

open Sys2Proof.Bytes

/-! ## KYB (R61) -/

/-- A KYB operation issued. -/
def State.kybSend (s : State) (o : KybOp) : State :=
  let p := { o with frame := s.pair.applying }
  (({ s with path := { s.path with kyb := s.path.kyb ++ [p] } }.wake [.curator]).emit (.kyb p)).count 9 7 1

/-- The least significant first 8-byte beats of a 32-byte stack key are its bytes (KYB_DATA). -/
def keyBytes (k : Key256) : List Byte := ofBe 32 k.toNat

/-! ## SMP (R56 to R59) -/

/-- The lowest free tag, if one of the 256 is free. -/
def State.freeTag (s : State) : Option Nat :=
  (List.range 256).find? fun t => !(s.path.smp.any fun r => decide (r.tag = t))

/-- Whether the LOAD of a request's key slot is acknowledged on its wing (R61). -/
def State.slotLoaded (s : State) (r : SmpReq) : Bool :=
  if r.keySlot = 64 then s.path.ctlLoaded.contains r.wing else (s.galAt r.keySlot).loaded.contains r.wing

/-- A request put on SMP under a tag. -/
def State.smpIssue (s : State) (r : SmpReq) (t : Nat) : State :=
  let q := { r with tag := t, issued := s.kpr.ktime }
  (({ s with path := { s.path with smp := s.path.smp ++ [q] } }).emit (.smp q)).count 9 4 1

/-- A request issued if a tag is free and its key slot is loaded, else kept. -/
def State.smpPut (s : State) (r : SmpReq) : State :=
  match s.freeTag with
  | some t => if s.slotLoaded r then s.smpIssue r t else { s with path := { s.path with smpWait := s.path.smpWait ++ [r] } }
  | none => { s with path := { s.path with smpWait := s.path.smpWait ++ [r] } }

/-- A request made, marked with the partner's frame that causes it. -/
def State.smpSend (s : State) (r : SmpReq) : State := s.smpPut { r with frame := s.pair.applying }

/-- Requests that waited, issued in order as far as tags and key slots allow. -/
def State.smpFlush (s : State) : State :=
  let ws := s.path.smpWait
  ws.foldl (fun t r => t.smpPut r) { s with path := { s.path with smpWait := [] } }

/-! ## Pair states (R341) -/

/-- State codes of PAIR_STATUS. -/
def pairCode : PairState → Nat
  | .unpaired => 0
  | .alone => 1
  | .joining => 2
  | .paired => 3
  | .fencing => 4
  | .degraded => 5
  | .takeover => 6
  | .survivor => 7
  | .yielded => 8

/-- The pair state changed: event and vector 13 (R63, R407). -/
def State.setPair (s : State) (n : PairState) : State :=
  if s.pair.state = n then s
  else
    let old := pairCode s.pair.state
    (({ s with pair := { s.pair with state := n } }).event 11 0x68 noWing (pairCode n) old).raiseVec 13

/-- Data frames pass: a session exists and the state mirrors (R341, R346). -/
def State.mirroring (s : State) : Bool :=
  s.pair.session && (s.pair.state == .joining || s.pair.state == .paired || s.pair.state == .fencing)

/-- A pair act is refused in these states (R340). -/
def State.pairBroken (s : State) : Bool :=
  s.pair.state == .degraded || s.pair.state == .fencing || s.pair.state == .takeover

/-- The part is paired: it has joined its partner, and no fence has ended the pair (R39, R341). -/
def State.pairKnown (s : State) : Bool :=
  s.pair.state == .joining || s.pair.state == .paired || s.pair.state == .fencing || s.pair.state == .degraded

/-- A pair act goes to the partner now (R340). -/
def State.pairActs (s : State) : Bool := s.pair.session && (s.pair.state == .paired || s.pair.state == .joining)

/-! ## Data frames (R346 to R348) -/

/-- The ACKED value: the last frame taken, or the one before the oldest whose writes and key loads are not complete (R347). -/
def State.ackValue (s : State) : Nat :=
  let open_ := ((s.path.smp ++ s.path.smpWait).map (·.frame) ++ s.path.kyb.map (·.frame)).filter (· != 0)
  match minOf open_ with
  | none => s.pair.applied
  | some f => f - 1

/-- A data frame sent: it takes the next FSEQ, carries ACKED, and is kept until ACKED covers it; its bytes go out. -/
def State.sendFrame (s : State) (p : FrameOut) : State :=
  let f := s.pair.fseqNext
  (({ s with pair := { s.pair with
      fseqNext := f + 1, kept := s.pair.kept ++ [(KeptFrame.mk f p)]
      ackSent := s.ackValue, ackSentAt := s.kpr.ktime
      ackMovedAt := if s.pair.kept.isEmpty then s.kpr.ktime else s.pair.ackMovedAt } }).emit
    (.frame (s.ownFrame p f s.ackValue))).count 8 1 1

/-- A frame of the recovery session sent (R350): its own FSEQ and ACKED, kept until ACKED covers it. DESIGN CHOICE, log entry 105. -/
def State.sendRecovery (s : State) (f : ImageFrame) : State :=
  let r := s.pair.recov
  { s with pair := { s.pair with recov := { r with
      fseqNext := r.fseqNext + 1, kept := r.kept ++ [(KeptFrame.mk r.fseqNext (.image f))], ackSent := r.applied, ackSentAt := s.kpr.ktime
      ackMovedAt := if r.kept.isEmpty then s.kpr.ktime else r.ackMovedAt } } }.emit
    (.frame (s.ownFrame (.image f) r.fseqNext r.applied))

/-- FSEQ of the last frame sent: what a mirror fence made now waits for (R348). -/
def State.fenceNow (s : State) : Nat := s.pair.fseqNext - 1

/-- A COUNTER frame when the last accepted ingress counter of a gallery has risen since an earlier state (R340, R349). -/
def State.tellCounter (s old : State) (g : Nat) : State :=
  let ctr := (s.galAt g).lastCtr.toNat
  if s.pair.session && decide ((old.galAt g).lastCtr.toNat < ctr) then s.sendFrame (.counter g ctr) else s

/-! ## Mirroring of a request (R19, R352, R354) -/

/-- The side a request's accession number names (R15). -/
def homeSide (acc : Nat) : Nat := bits acc 31 31

/-- Registrar slot and generation of an accession number (R15). -/
def slotOf (acc : Nat) : Nat := bits acc 15 0
def genOf (acc : Nat) : Nat := bits acc 30 16

/-- Records of the own half (R27). -/
def State.ownHalf (s : State) : Nat := s.kpr.caps.records / 2

/-- Slots that accession may assign (R15, R450). -/
def State.ownLimit (s : State) : Nat :=
  match s.partner? with
  | none => s.ownHalf
  | some p => min s.ownHalf (p.records / 2)

/-- REC frames are sent for a request's events (R354, R368). -/
def State.mirrored (s : State) (r : Req) : Bool :=
  s.mirroring && (s.wingAt r.wing).paired && !r.degraded

/-- Release of a request's records waits for the partner's acknowledgement (R19, R341, R352). -/
def State.awaitsAck (s : State) (r : Req) : Bool :=
  (s.wingAt r.wing).paired && !r.degraded &&
    match s.pair.state with
    | .paired => true
    | .fencing => true
    | .joining => r.mirrorCovered
    | _ => false

/-- round(θ / 100), in µs (R364). -/
def State.thetaUs (s : State) : Int := (s.pair.theta + 100) / 200

/-- Every deadline of a record changed. -/
def mapDeadlines (r : Req) (f : Nat → Nat) : Req :=
  { r with ttft := r.ttft.map f, completion := r.completion.map f, itlNext := r.itlNext.map f }

/-- The record image that frames carry: deadlines in the home member's Basam time, which for an adopted request is the partner's (R354). -/
def State.homeImage (s : State) (r : Req) : Req :=
  if r.adopted then mapDeadlines r fun d => twos 40 ((d : Int) + s.thetaUs) else r

/-- A REC frame sent for a request that is mirrored. -/
def State.sendRec (s : State) (r : Req) (m : MirrorRec) : State :=
  if s.mirrored r then
    let s1 := s.sendFrame (.rec_ { m with record := s.homeImage r })
    match SMap.find s1.pair.bulkFseq r.acc with
    | some _ => s1
    | none => { s1 with pair := { s1.pair with bulkFseq := SMap.put s1.pair.bulkFseq r.acc s1.fenceNow } }
  else s

/-- The next SEQ of a request not yet written to its result ring (R354): the lowest SEQ of its records on their way, else its NEXT_SEQ. -/
def State.releasedSeq (s : State) (r : Req) : Nat :=
  (((s.path.records.filter fun o => decide (o.acc = r.acc)).map (·.seq)).foldl min r.nextSeq)

/-- A REC frame of a request's event, by accession number. -/
def State.mirrorEvent (s : State) (acc : Nat) (op : MirrorOp) : State :=
  match s.req? acc with
  | none => s
  | some r => s.sendRec r { op := op, releasedSeq := s.releasedSeq r }

/-- The frames of an accession: the record, then its prompt copy and areas in prompt continuations (R354). -/
def State.mirrorAccession (s : State) (acc : Nat) : State :=
  match s.req? acc with
  | none => s
  | some r => (List.range (max 1 (ceilDiv r.prompt.length 16384))).foldl
      (fun t i => t.sendRec r { op := .prompt, releasedSeq := t.releasedSeq r, part := i })
      (s.sendRec r { op := .accession, releasedSeq := s.releasedSeq r })

/-! ## Conditions and reports of the pair -/

/-- FENCE_REQ lowered (R362). -/
def State.lowerFence (s : State) : State := { s with kpr := { s.kpr with fenceReq := false } }

/-- The takeover journal discarded (R88). -/
def State.dropJournal (s : State) : State := { s with pair := { s.pair with journal := none, journalAsked := none } }

/-- The data session ended: frames kept, direction keys and coverage go. -/
def State.endSession (s : State) : State :=
  { s with
    path := { s.path with
      records := s.path.records.map fun o => { o with fseq := 0, mirrorDue := false }
      smp := s.path.smp.map fun (q : SmpReq) => { q with frame := 0 }, smpWait := s.path.smpWait.map fun (q : SmpReq) => { q with frame := 0 }
      kyb := s.path.kyb.map fun (o : KybOp) => { o with frame := 0 } }
    pair := { s.pair with
      session := false, kept := [], directionKeys := none, ephemeral := none, helloSent := none
      fseqNext := 1, applied := 0, acked := 0, ackSent := 0, bulkFseq := [], imaged := [], copying := [], handbacks := []
      helloIn := none } }

/-- Live requests of paired wings. -/
def State.pairedReqs (s : State) : List Req :=
  s.allReqs.filter fun r => (s.wingAt r.wing).paired && !r.gone

/-- Every live request changed. -/
def State.mapReqs (s : State) (f : Req → Req) : State :=
  { s with reg := { s.reg with reqs := s.reg.reqs.map fun e => (e.1, f e.2) } }

/-- VALID cleared in the whole mirror map (R368): the map's entries go, each by a WRITE_MASKED of zero. -/
def State.clearMirrorMap (s : State) : State :=
  let s1 := s.pair.mirrorMap.foldl (fun t e =>
    let w := e.1 / 2 ^ 32
    let p := e.1 % 2 ^ 32
    let at_ := (s.site w).mirrorMap + 4 * p
    t.smpSend { wing := w, op := 2, addr := at_ / 64 * 64, keySlot := 64
                ben := BitVec.ofNat 64 (15 * 2 ^ (at_ % 64)), data := List.replicate 64 0, use := .mirrorStatus 4 }) s
  { s1 with pair := { s1.pair with mirrorMap := [], copying := [] } }

/-- Entry into DEGRADED (R368): requests of the paired wings are marked, the map is cleared, the report written, waiting replies written (R371). FENCE_REQ stays until an answer or FENCE_WITHDRAW (R65). -/
def State.enterDegraded (s : State) : State :=
  let n := (s.pairedReqs.filter fun r => !r.adopted).length
  let s1 := s.mapReqs fun r => if (s.wingAt r.wing).paired then { r with degraded := true, mirrorCovered := false } else r
  let s2 := s1.clearMirrorMap.setPair .degraded
  let s3 := (s2.report 0x000A 2 0x0B 255 255 [n]).ledgerAdd 17 1
  (s3.dropJournal.endSession).flushReplies

/-- Failure of the partner detected (R361): FENCING, the journal at phase 1, FENCE_REQ, vector 13. -/
def State.detectFailure (s : State) : State :=
  if s.pair.state == .paired || s.pair.state == .joining then
    let s1 := { s with
      pair := { s.pair with before := s.pair.state, detectedAt := s.kpr.ktime, journal := some (1, s.kpr.ktime) }
      kpr := { s.kpr with fenceReq := true } }
    ((s1.setPair .fencing).count 8 5 1).ledgerAdd 16 1
  else s

/-- Valid frames arrive again before any answer (R362): the fence is withdrawn and the member returns to its earlier state. A member that the 5,000 µs have made DEGRADED stays so, since R341 gives no way back (DEDUCED, log entry 97). -/
def State.withdrawFence (s : State) : State :=
  if s.kpr.fenceReq then
    let s1 := (s.lowerFence.dropJournal).controlPost 2 0x21 (1 - s.side)
    if s.pair.state == .fencing then s1.setPair s.pair.before else s1
  else s

/-- What a tick's frames and the end of the 5,000 µs bring behind the tick: a confirmation of the same tick has gone before them (R371). DEDUCED, log entry 108. -/
def State.fenceTick (s : State) : State :=
  let s1 := { s with pair := { s.pair with withdrawDue := false, expireDue := false } }
  if s.pair.withdrawDue then s1.withdrawFence
  else if s.pair.expireDue && s.pair.state == .fencing then s1.enterDegraded
  else s1

/-! ## Pair acts (R340) -/

/-- An aid of a gallery marked: whether the partner holds what has been loaded of it. -/
def State.markTold (s : State) (g n : Nat) (told : Bool) : State :=
  s.updGal g fun x => { x with aids := SMap.adjust x.aids n fun a => { a with told := told } }

/-- A pair act on a gallery sent to the partner: the state, and the FSEQ its reply waits for, 0 where the act is local. -/
def State.pairGallery (s : State) (g : Nat) (a : GalleryAct) : State × Nat :=
  if s.pairActs then
    let s1 := s.sendFrame (.gallery g a)
    (s1, s1.fenceNow)
  else (s, 0)

/-- GALLERIES of the pair: the smaller figure while a partner is known (R451). -/
def State.pairGalleries (s : State) : Nat :=
  match s.pair.partner with
  | some h => if s.pairActs then min s.kpr.caps.galleries h.caps.galleries else s.kpr.caps.galleries
  | none => s.kpr.caps.galleries

end Sys2Proof.Machine
end

