-- ==== Sys2Proof/Machine/ReqOps.lean ====
section
/-! DEFINITION. Shared operations on requests: loans, rows held, deadlines, deaccession, freeing (01 R16 to R23; 08 R170 to R179; 14 R310). -/

namespace Sys2Proof.Machine

open Sys2Proof.Bytes

/-! ## Counts (R147, R148) -/

/-- Distinct page numbers that requests hold. -/
def pagesOf (rs : List Req) : List Nat := (rs.flatMap fun r => r.pages.map (·.1)).eraseDups

/-- Pages held on a wing, own and mirror pool. -/
def State.heldPages (s : State) (w : Nat) : List Nat := pagesOf (s.allReqs.filter fun r => decide (r.wing = w))

/-- LOANS of a gallery: its distinct pages on each wing, the mirror pool left out (R148). -/
def State.loans (s : State) (g : Nat) : Nat :=
  sumOf ((List.range 4).map fun w =>
    ((pagesOf (s.allReqs.filter fun r => decide (r.wing = w) && decide (r.gallery = g))).filter
      fun p => decide (p < (s.site w).pages)).length)

/-- Pages a request holds. -/
def reqLoans (r : Req) : Nat := r.pages.length

/-- LIVE of a gallery (R147). -/
def State.liveOf (s : State) (g : Nat) : Nat := (s.liveReqs.filter fun r => decide (r.gallery = g)).length

/-- Held count of a request (R310). -/
def State.heldCount (s : State) (acc : Nat) : Nat :=
  (s.path.records.filter fun o => decide (o.acc = acc) && o.held).length

/-! ## Steps that hold a request -/

/-- The row carries a request and is not void. -/
def RowAsg.of (r : RowAsg) (acc : Nat) : Bool := decide (r.type ≠ 0) && decide (r.acc = acc)

/-- The step has a row of the request. -/
def Step.hasRow (t : Step) (acc : Nat) : Bool := t.rows.any fun r => r.of acc

/-- The step has a row or a chunk of the request. -/
def Step.hasWork (t : Step) (acc : Nat) : Bool := t.hasRow acc || t.chunks.any fun c => decide (c.acc = acc)

/-- Steps of a wing that run, are pending, composed, or wait for their replay. -/
def Wing.openSteps (x : Wing) : List Step :=
  x.running.toList ++ x.pending.toList ++ x.composed.toList ++ x.replayOf.toList

/-- The request has work in a step not yet ended. -/
def State.inStep (s : State) (r : Req) : Bool := (s.wingAt r.wing).openSteps.any fun t => t.hasWork r.acc

/-- The request holds a row, void or not, in a step running or composed, or in an ended step that has yet to commit it (R23, R171; a chunk is no row: DEDUCED, log entry 12). -/
def State.holdsRow (s : State) (r : Req) : Bool :=
  (s.wingAt r.wing).openSteps.any (fun t => t.hasRow r.acc)
    || (s.wingAt r.wing).tails.any fun t => t.rows.any fun a => a.of r.acc && !t.committed.contains a.row
    || s.path.jobs.any fun j => decide (j.acc = r.acc)

/-- The request holds a void row in a step already composed (R176). -/
def State.holdsVoid (s : State) (r : Req) : Bool :=
  (s.wingAt r.wing).openSteps.any fun t => t.rows.any fun a => a.of r.acc && a.void

/-- A step with the request's rows void (R11). -/
def Step.voidRows (t : Step) (acc : Nat) : Step :=
  { t with rows := t.rows.map fun r => if r.of acc then { r with void := true } else r }

/-- A wing with the request's rows void in every step not yet committed. -/
def Wing.voidRows (x : Wing) (acc : Nat) : Wing :=
  { x with
    running := x.running.map (·.voidRows acc), pending := x.pending.map (·.voidRows acc)
    composed := x.composed.map (·.voidRows acc), replayOf := x.replayOf.map (·.voidRows acc)
    tails := x.tails.map (·.voidRows acc) }

/-- Rows of a request in steps not yet ended that are not void yet. -/
def Wing.freshRows (x : Wing) (acc : Nat) : Nat :=
  sumOf (x.openSteps.map fun t => (t.rows.filter fun r => r.of acc && !r.void).length)

/-- Every row of the request voided, and counted (R11, VOID_ROWS of R399). -/
def State.voidRows (s : State) (r : Req) : State :=
  let n := (s.wingAt r.wing).freshRows r.acc
  let s1 := s.updWing r.wing fun x => x.voidRows r.acc
  if n = 0 then s1 else s1.count (1 + r.wing) 5 n

/-! ## Deadlines (R72, R170) -/

/-- A request's armed deadlines: kind and Basam time. -/
def reqDeadlines (r : Req) : List (Nat × Nat) :=
  (if r.firstDone then [] else r.ttft.toList.map fun d => (0, d))
    ++ r.itlNext.toList.map (fun d => (1, d)) ++ r.completion.toList.map fun d => (2, d)

/-- The governing deadline nearest ahead or longest past, as µs from a Basam time; none for no deadline. -/
def reqNearest (r : Req) (now : Nat) : Option (Nat × Nat) :=
  let ds := (reqDeadlines r).filter fun d => !passed now d.2
  (sortBy (fun a b => decide (ahead now a.2 < ahead now b.2)) ds).head?

/-- The wheel's entry of a slot set from its request: the earliest deadline that has not passed; entries more than 4,095 µs ahead go to the far list (R72). -/
def State.armWheel (s : State) (acc : Nat) : State :=
  match s.req? acc with
  | none => s
  | some r =>
    let put := fun (w : SMap WheelEntry) => { s with reg := { s.reg with wheel := w } }
    if r.adopted || r.state == .deaccessioned then put (SMap.drop s.reg.wheel (slotOf acc))
    else match reqNearest r s.nowUs with
      | none => put (SMap.drop s.reg.wheel (slotOf acc))
      | some (k, d) => put (SMap.put s.reg.wheel (slotOf acc) { kind := k, deadline := d, far := decide (4095 < ahead s.nowUs d) })

/-! ## Mirror map and pages (R357) -/

/-- A mirror map entry written with WRITE_MASKED under key slot 64. -/
def State.mapWrite (s : State) (w p v : Nat) : State :=
  let at_ := (s.site w).mirrorMap + 4 * p
  let s1 := s.smpSend { wing := w, op := 2, addr := at_ / 64 * 64, keySlot := 64
                        ben := BitVec.ofNat 64 (15 * 2 ^ (at_ % 64))
                        data := slice (List.replicate (at_ % 64) 0 ++ ofLe 4 v) 0 64, use := .mirrorStatus 4 }
  let key := w * 2 ^ 32 + p
  { s1 with pair := { s1.pair with
    mirrorMap := if v = 0 then SMap.drop s1.pair.mirrorMap key else SMap.put s1.pair.mirrorMap key v } }

/-- The target of a page of the page space (R357). -/
def State.mapTarget (s : State) (w p : Nat) : Nat :=
  if p < (s.site w).pages then (s.site w).pages + p else p - (s.site w).pages

/-- A valid entry for a page, with COPY where the page's contents must be copied. -/
def State.mapPage (s : State) (w p : Nat) (copy : Bool) : State :=
  let s1 := s.mapWrite w p (2 ^ 31 + b2n copy * 2 ^ 30 + s.mapTarget w p)
  let key := w * 2 ^ 32 + p
  if copy then { s1 with pair := { s1.pair with copying := key :: s1.pair.copying.filter (· != key) } } else s1

/-- A wing whose pages have valid entries now (R357). -/
def State.mapsPages (s : State) (w : Nat) : Bool :=
  (s.wingAt w).paired && (s.pair.state == .paired || s.pair.state == .joining)

/-- Pages that lose their last holder, their map entries cleared (R357). -/
def State.unmapFreed (s : State) (w : Nat) (ps : List Nat) : State :=
  let held := s.heldPages w
  (ps.filter fun p => !held.contains p && (SMap.find s.pair.mirrorMap (w * 2 ^ 32 + p)).isSome).foldl (fun t p => t.mapWrite w p 0) s

/-- A request's loans freed; a request whose slot is already free goes with them (R21). -/
def State.freePages (s : State) (acc : Nat) : State :=
  match SMap.find s.reg.reqs acc with
  | none => s
  | some r =>
    let reqs : SMap Req := if r.gone then SMap.drop s.reg.reqs acc
      else SMap.adjust s.reg.reqs acc fun x => { x with pages := [], freeLoans := false }
    ({ s with reg := { s.reg with reqs := reqs } }).unmapFreed r.wing (r.pages.map Prod.fst)

/-- Loans that a boundary of a wing frees: those of requests that left or were recalled and have no work in a step not yet ended (R21, R23, R177). A chunk under way holds them too (DEDUCED, log entry 116). -/
def State.boundaryFrees (s : State) (w : Nat) : State :=
  let rs := s.allReqs.filter fun r => decide (r.wing = w) && (r.freeLoans || r.gone || decide (r.pendingReason ≠ 0)) && !s.inStep r
  rs.foldl (fun t r => t.freePages r.acc) s

/-! ## Deaccession (R20 to R23, R178, R179) -/

/-- The state change of a deaccession: reason recorded, rows void, drafts dropped, counters (R11, R178, R399). -/
def State.markDeaccessioned (s : State) (acc reason : Nat) : State :=
  match s.req? acc with
  | none => s
  | some r =>
    if r.state == .deaccessioned then s
    else
      let s1 := (s.voidRows r).updReq acc fun x => { x with
        state := .deaccessioned, reason := reason, pendingReason := 0, drafts := [], freeLoans := true }
      let s2 := (s1.armWheel acc).count 5 (5 + reason) 1
      s2.updGal r.gallery fun g => { g with counts := { g.counts with
        deaccessions := SMap.modify g.counts.deaccessions reason 0 (· + 1) } }

/-- A tokenless final record of a request (R179), put behind its other records. -/
def State.tokenlessFinal (s : State) (acc reason : Nat) : State :=
  match s.req? acc with
  | none => s
  | some r =>
    let o : OutRec := { acc := acc, gallery := r.gallery, wing := r.wing, slot := slotOf acc, seq := r.nextSeq
                        firstPos := r.prompt.length + r.gen.length, reason := reason, final := true, madeAt := s.kpr.ktime }
    let s1 := { s with path := { s.path with records := s.path.records ++ [o] } }
    s1.updReq acc fun x => { x with nextSeq := x.nextSeq + 1 }

/-- A deaccession that coincides with no commit: marked, and ended with a tokenless final record. -/
def State.deaccession (s : State) (acc reason : Nat) : State :=
  match s.req? acc with
  | none => s
  | some r =>
    if r.state == .deaccessioned then s
    else (s.markDeaccessioned acc reason).tokenlessFinal acc reason

/-- DATA_LOST (R391): the report, the deaccession, the final record. -/
def State.dataLost (s : State) (acc region : Nat) : State :=
  match s.req? acc with
  | none => s
  | some r =>
    if r.state == .deaccessioned then s
    else (s.report 0x0022 1 0x02 r.wing r.gallery [acc, region]).deaccession acc 9

/-- A request's slot freed (R21): its wheel entry, slot tag and mirror go; its loans go with it unless a step not yet ended holds work of it. -/
def State.freeSlot (s : State) (acc : Nat) : State :=
  match s.req? acc with
  | none => s
  | some r =>
    let s1 := s.mirrorEvent acc .freed
    let s2 := { s1 with reg := { s1.reg with
      reqs := SMap.adjust s1.reg.reqs acc fun x => { x with gone := true }
      wheel := if r.adopted then s1.reg.wheel else SMap.drop s1.reg.wheel (slotOf acc)
      tags := if r.adopted then s1.reg.tags else SMap.drop s1.reg.tags (slotOf acc) } }
    if s2.inStep r then s2 else s2.freePages acc

/-- Rank of a deaccession reason when causes meet in one step (R22). -/
def reasonRank (reason : Nat) : Nat := (([9, 8, 7, 2, 3, 1, 4, 6, 5, 10].zipIdx.find? fun p => p.1 = reason).map (·.2)).getD 10

/-- The reason that stands of two; 0 is none. -/
def firstReason (a b : Nat) : Nat := if reasonRank a ≤ reasonRank b then a else b

/-- A deaccession asked for from outside the step (R23, R171): now where the request holds no row, else at the commit or boundary of the step that holds one; the first cause in the order of R22 stands. -/
def State.askDeaccession (s : State) (acc reason : Nat) : State :=
  match s.req? acc with
  | none => s
  | some r =>
    if r.state == .deaccessioned then s
    else if s.holdsRow r then
      s.updReq acc fun x => { x with pendingReason := firstReason x.pendingReason reason, pendingAt := if x.pendingReason = 0 then s.kpr.ktime else x.pendingAt }
    else s.deaccession acc reason

/-- Requests dropped with nothing released (R145): rows void, records discarded, slots freed. -/
def State.discardRequest (s : State) (acc : Nat) : State :=
  let s1 := (s.markDeaccessioned acc 4).mirrorEvent acc .change
  let s2 := { s1 with path := { s1.path with
    records := s1.path.records.filter fun o => decide (o.acc ≠ acc)
    jobs := s1.path.jobs.filter fun j => decide (j.acc ≠ acc) } }
  s2.freeSlot acc

/-- A request whose accession is taken back: its steps hold nothing of it that commits, and its slot is free (R81). -/
def State.withdrawRequest (s : State) (acc : Nat) : State :=
  match s.req? acc with
  | none => s
  | some r =>
    let s1 := s.voidRows r
    { s1 with path := { s1.path with
      records := s1.path.records.filter fun o => decide (o.acc ≠ acc)
      jobs := s1.path.jobs.filter fun j => decide (j.acc ≠ acc) } }.freeSlot acc

/-! ## HELD (R20, R310) -/

/-- Entry into and exit from HELD by the held count. -/
def State.checkHeld (s : State) (acc : Nat) : State :=
  match s.req? acc with
  | none => s
  | some r =>
    let n := s.heldCount acc
    if r.state == .running && decide (64 ≤ n) then
      ((s.updReq acc fun x => { x with state := .held }).event 2 0x50 r.wing n acc).count 5 22 1
    else if r.state == .held && decide (n < 64) then s.updReq acc fun x => { x with state := .running }
    else s

/-! ## Adjusting a commit position -/

/-- Commit position of a request: its prompt and its committed tokens (R17). -/
def reqPosition (r : Req) : Nat := r.prompt.length + r.gen.length

/-- COMMITTED of QUERY: tokens of kind 0, iterations of kind 2. -/
def reqCommitted (r : Req) : Nat := if r.kind = 2 then r.iters else r.gen.length

/-- State codes (R20). -/
def stateCode : ReqState → Nat
  | .queued => 0
  | .prefill => 1
  | .running => 2
  | .held => 3
  | .recalled => 4
  | .deaccessioned => 5

end Sys2Proof.Machine
end

