-- ==== Sys2Proof/Machine/Shapes.lean ====
section
/-! DEFINITION. Shapes as admission, policy and composition see them: allowed shapes, wing period, row ceiling, mean power, which shapes serve a request (07 R149, R152; 08 R158 to R160, R172; 09 R180 to R183; 12 R257). -/

namespace Sys2Proof.Machine

open Sys2Proof.Bytes

/-! ## One shape -/

/-- Declared duration in keeper ticks (CYCLES is a multiple of 36, R184). -/
def shapeTicks (e : CatEntry) : Nat := e.cycles / 36

/-- CLOSE of the last intake window, 0 for none. -/
def lastClose (e : CatEntry) : Nat := maxOf (e.windows.map (·.closeAt))

/-- The shape has a feed point (R55). -/
def hasFeed (e : CatEntry) : Bool := decide (e.feedOffset ≠ 0xFFFFFFFF)

/-- gap(a, b) (R55, R158). -/
def gapOf (a b : CatEntry) : Nat :=
  if !hasFeed a || !hasFeed b then 0 else 4000 - ((shapeTicks a - lastClose a) + b.feedOffset)

/-- row_mw (R149). -/
def rowMw (e : CatEntry) : Nat := e.energyUj * 3600000 / (e.cycles * max 1 e.rows)

/-- Mean power in mW (R173). -/
def meanMw (e : CatEntry) : Nat := e.energyUj * 3600000 / e.cycles

/-- The request kind a shape carries (R14). -/
def shapeKind (e : CatEntry) : Nat := if e.embed then 1 else if e.denoise then 2 else 0

/-- Wing and index of a shape ID (R180). -/
def shapeWing (id : Nat) : Nat := bits id 11 10
def shapeIndex (id : Nat) : Nat := bits id 9 0

/-- Fingerprint of an entry as a table key (R189). -/
def shapeKey (e : CatEntry) : Nat := (fingerprint e.raw).toNat

/-! ## Allowed shapes (R158) -/

/-- State of a shape on a wing. -/
def Wing.shapeSt (x : Wing) (e : CatEntry) : ShapeSt := SMap.getD x.shapes (shapeKey e) {}

/-- The wing with a shape's state changed. -/
def Wing.updShape (x : Wing) (key : Nat) (f : ShapeSt → ShapeSt) : Wing := { x with shapes := SMap.modify x.shapes key {} f }

/-- Neither quarantined, disabled nor lost. -/
def ShapeSt.enabled (t : ShapeSt) : Bool := !t.quarantined && !t.disabled && !t.lost

/-- A policy's own conditions on a shape: MAX_CYCLES, and the fixed shape where the policy is fixed-shape. -/
def policyAllows (p : WingPolicy) (e : CatEntry) : Bool :=
  (decide (p.maxCycles = 0) || decide (e.cycles ≤ p.maxCycles)) && (!p.fixed || decide (e.shapeId = p.fixedShape))

/-- Allowed shapes of a section under a policy. -/
def Wing.allowedIn (x : Wing) (es : List CatEntry) (p : WingPolicy) : List CatEntry :=
  es.filter fun e => (x.shapeSt e).enabled && policyAllows p e

/-- The section that compose points read: the accepted one where a commit waits for its flip (R188). -/
def Wing.composeSection (x : Wing) : List CatEntry := (x.commitNext.map (·.1)).getD x.committed

/-- The policy that compose points read: the accepted one where it is not in force yet (R154). -/
def Wing.composePolicy (x : Wing) : WingPolicy := x.policyNext.getD x.policy

/-- The fixed shape of a fixed-shape wing, from the section that compose points read. -/
def Wing.fixedEntry (x : Wing) : Option CatEntry :=
  if x.composePolicy.fixed then x.composeSection[shapeIndex x.composePolicy.fixedShape]? else none

/-- Allowed shapes of a wing (R158), of the section and the policy its next compose point reads (R154, R188; DEDUCED, log entry 13). -/
def State.allowed (s : State) (w : Nat) : List CatEntry :=
  let x := s.wingAt w
  x.allowedIn x.composeSection x.composePolicy

/-- P_w in ticks of a set of allowed shapes (R158). -/
def periodOf (es : List CatEntry) : Nat := maxOf (es.map fun a => shapeTicks a + maxOf (es.map fun b => gapOf a b))

/-- P_w_us (R158). -/
def periodUs (es : List CatEntry) : Nat := ceilDiv (periodOf es) 100

/-- P_w of a wing in ticks: a change that lowers it lowers it at the wing's next compose point (R160). -/
def State.pwTicks (s : State) (w : Nat) : Nat := max (periodOf (s.allowed w)) (s.wingAt w).pwFloor

/-- P_w_us of a wing. -/
def State.pwUs (s : State) (w : Nat) : Nat := ceilDiv (s.pwTicks w) 100

/-- P_w as it stands kept as the floor until the wing's next compose point (R160). -/
def State.keepPeriod (s : State) (w : Nat) : State :=
  s.updWing w fun x => { x with pwFloor := s.pwTicks w }

/-- T_us (R159). -/
def State.tUs (s : State) : Nat := if s.partner?.isSome then 2000 else 0

/-- DC_w (R160), none for no limit. -/
def durationCeiling (rs : List (Nat × Nat × Nat)) (tUs : Nat) : Option Nat :=
  minOf ((rs.filter fun r => decide (r.1 ≤ 1) && decide (r.2.1 ≠ 0)).map fun r => (r.2.1 - tUs) / 2)

/-- Live requests of a wing: they hold a slot and are not DEACCESSIONED (R163). -/
def State.wingLive (s : State) (w : Nat) : List Req :=
  s.liveReqs.filter fun r => decide (r.wing = w) && r.state != .deaccessioned

/-- DC_w of a wing. -/
def State.dcUs (s : State) (w : Nat) : Option Nat :=
  durationCeiling ((s.wingLive w).map fun r => (r.cls, r.itlUs, 0)) s.tUs

/-- A period is within a ceiling. -/
def withinDc (dc : Option Nat) (us : Nat) : Bool :=
  match dc with
  | none => true
  | some c => decide (us ≤ c)

/-! ## Row ceiling (R152, R369) -/

/-- The wing is paired active-active: in the paired wing set and standby on neither member (R152, R369). -/
def State.activeActive (s : State) (w : Nat) : Bool :=
  (s.wingAt w).paired && !(s.wingAt w).composePolicy.standby
    && !((s.pair.partner.map fun h => (nth h.policies w {}).standby).getD false)

/-- Row ceiling that a set of allowed shapes gives a wing. -/
def State.ceilingOf (s : State) (w : Nat) (es : List CatEntry) : Nat :=
  let m := maxOf (es.map (·.rows))
  if s.activeActive w then m / 2 else m

/-- Row ceiling of a wing. -/
def State.rowCeiling (s : State) (w : Nat) : Nat := s.ceilingOf w (s.allowed w)

/-- Galleries that exist, by number. -/
def State.galleryNumbers (s : State) : List Nat := List.range s.kpr.caps.galleries

/-- Sum of RESERVED_SLOTS over all galleries on a wing (R151). -/
def State.reservedSum (s : State) (w : Nat) : Nat :=
  sumOf (s.galleryNumbers.map fun g => nth (s.galAt g).budget.reserved w 0)

/-- Sum of the RESERVED_SLOTS that are in force on a wing (R110). -/
def State.reservedInForce (s : State) (w : Nat) : Nat :=
  sumOf (s.galleryNumbers.map fun g => nth (nth (s.galAt g).wingBudget w {}).reserved w 0)

/-- Every gallery's block taken up by a wing (R110). -/
def State.takeBudgets (s : State) (w : Nat) : State :=
  { s with galleries := s.galleries.map fun (e : Nat × Gallery) => (e.1, { e.2 with wingBudget := setNth e.2.wingBudget w e.2.budget }) }

/-- The wing has a committed section. -/
def State.hasCatalogue (s : State) (w : Nat) : Bool := !(s.wingAt w).committed.isEmpty

/-! ## Power (R172) -/

/-- P_pkg. -/
def pPkg (cap eff : Nat) : Nat := cap * eff / 65536

/-- P_avail of the cap in force. -/
def State.pAvail (s : State) : Nat := pPkg s.cap.capMw s.cap.efficiency - s.cfg.baseMw

/-- A cap is set. -/
def State.capped (s : State) : Bool := decide (s.cap.capMw ≠ 0)

/-- The lowest mean power among shapes whose rows reach the wing's reserved slots. -/
def State.reservePower (s : State) (w : Nat) (es : List CatEntry) : Nat :=
  ((minOf ((es.filter fun e => decide (s.reservedSum w ≤ e.rows)).map meanMw))).getD 0

/-- The wing holds live Reserved requests. -/
def State.hasReserved (s : State) (w : Nat) : Bool := (s.wingLive w).any fun r => decide (r.cls = 0)

/-- R172's second refusal, with the allowed shapes of one wing replaced. -/
def State.capHolds (s : State) (avail : Nat) (shapes : Nat → List CatEntry) : Bool :=
  decide (sumOf ((s.servedWings.filter s.hasReserved).map fun w => s.reservePower w (shapes w)) ≤ avail)

/-- A gallery's share limit in mW (R149). -/
def State.shareLimit (s : State) (share : Nat) : Nat := share * s.pAvail / 65536

/-! ## Which shapes serve a request (R14, R25, R183, R257) -/

/-- Row class of a sampling block (R257). -/
def rowClassOf (b : Sampling) : Nat :=
  if b.method = 2 then 1 else if b.method = 0 && decide (2 ≤ b.logprobs) then 2 else 0

/-- Merge depth k_m of a sampling block (R257). -/
def mergeDepth (b : Sampling) : Nat :=
  if b.method = 2 then max b.k (b.logprobs - 1)
  else if b.method = 0 && decide (2 ≤ b.logprobs) then b.logprobs - 1 else 1

/-- The shape's K_PARTIAL covers the shard need of a row (R257). -/
def coversNeed (e : CatEntry) (kind : Nat) (b : Sampling) : Bool :=
  decide (kind ≠ 0) || decide (mergeDepth b ≤ nth e.kPartial (rowClassOf b) 0)

/-- Non-invariant shapes are open to a gallery on a wing (R25). -/
def State.invarianceOk (s : State) (w g : Nat) (e : CatEntry) : Bool :=
  e.rowInvariant || (!(s.wingAt w).paired && bit (s.galAt g).policy 5)

/-- The shape serves a request of a build, kind and sampling block in a gallery. -/
def State.serves (s : State) (w g : Nat) (build : W64) (kind : Nat) (b : Sampling) (e : CatEntry) : Bool :=
  decide (e.modelBuild = build) && decide (shapeKind e = kind) && coversNeed e kind b && s.invarianceOk w g e

/-- The shape serves a live request. -/
def State.servesReq (s : State) (r : Req) (e : CatEntry) : Bool :=
  s.serves r.wing r.gallery r.modelBuild r.kind r.sampling e

/-- Total need in pages of positions under a shape's page figures (R148, R217): ROW_PAGES for each PAGE_TOKENS positions begun. -/
def pagesFor (e : CatEntry) (positions : Nat) : Nat :=
  if e.rowPages = 0 then 0 else ceilDiv positions (max 1 e.pageTokens) * e.rowPages

end Sys2Proof.Machine
end

