-- ==== Sys2Proof/Machine/Maint.lean ====
section
/-! DEFINITION. The maintenance arbiter and the identity of the part: activities, IDN words, the provenance record (17 R396, R397; 02 IDN; 15 R321 to R323). -/

namespace Sys2Proof.Machine

open Sys2Proof.Bytes

/-! ## Activities (R103, R396, R397) -/

/-- A running activity of a code, and of a scope where one is given. -/
def State.runs (s : State) (code : Nat) (scope : Option Nat) : Bool :=
  s.maint.running.any fun a => decide (a.code = code) && (match scope with
    | none => true
    | some x => decide (a.scope = x))

/-- Codes of the running activities that refuse the start of an activity (R396). `scope` is its wing, gallery or region. -/
def State.conflicts (s : State) (code scope : Nat) : List Nat :=
  let on := fun (c : Nat) (sc : Option Nat) => if s.runs c sc then [c] else []
  let paired := (s.wingAt scope).paired
  match code with
  | 2 => on 6 none
  | 3 => on 4 (some scope) ++ (if paired then on 9 none else [])
  | 4 => on 4 (some scope) ++ on 6 none ++ on 8 (some 1) ++ (if paired then on 9 none else [])
  | 5 => on 6 none
  | 6 => on 2 none ++ on 4 none ++ on 5 none ++ on 7 none ++ on 9 none ++ on 10 none
  | 7 => on 6 none ++ on 7 (some scope) ++ on 10 (some scope)
  | 8 => on 8 none ++ (if scope = 1 then on 4 none else [])
  | 9 => (s.maint.running.filter fun a => (decide (a.code = 3) || decide (a.code = 4)) && (s.wingAt a.scope).paired).map (·.code) ++ on 6 none
  | 10 => on 6 none ++ on 7 (some scope)
  | _ => []

/-- The lowest conflicting code. -/
def State.conflict (s : State) (code scope : Nat) : Option Nat := minOf (s.conflicts code scope)

/-- An activity begins (R397, MAINT_START), with the apply sequence of the command that starts it. -/
def State.startActivity (s : State) (code scope : Nat) (seq : Option W32) (fence : Nat) : State :=
  ({ s with maint := { s.maint with running := s.maint.running ++ [(Activity.mk code scope seq fence)] } }).event
    10 0x12 noWing code (seq.getD 0).toNat

/-- An activity leaves the running set with no completion announced (R185). -/
def State.dropActivity (s : State) (code scope : Nat) : State :=
  { s with maint := { s.maint with running := s.maint.running.filter fun a => !(decide (a.code = code) && decide (a.scope = scope)) } }

/-- An activity completes: LAST and RESULT, MAINT_END, vector 14 (R103). -/
def State.endActivity (s : State) (code scope result : Nat) : State :=
  let s1 := s.dropActivity code scope
  (({ s1 with maint := { s1.maint with last := code, result := result } }).event 10 0x13 noWing code result).raiseVec 14

/-- Activities whose fence ACKED covers complete (R143). -/
def State.fencedActivities (s : State) : State :=
  (s.maint.running.filter fun a => decide (a.fence ≠ 0) && decide (a.fence ≤ s.pair.acked)).foldl
    (fun t a => t.endActivity a.code a.scope stOk) s

/-! ## IDN and boot words (R35 to R37, R433) -/

/-- IDN_BLOCK_ID. -/
def State.blockId (s : State) : Nat := 0xBA5A * 2 ^ 16 + Config.sizeCode s.kpr.size * 2 ^ 8 + s.kpr.stepping.toNat

/-- KPR_BOOT_STATUS (04). -/
def State.bootStatus (s : State) : Nat :=
  s.kpr.phase.toNat * 2 ^ 24 + s.kpr.haltCode.toNat * 2 ^ 16 + s.kpr.catMissing.toNat * 2 ^ 12
    + s.kpr.blockEpoch.toNat % 256 * 2 ^ 4 + b2n s.kpr.recovery * 8 + b2n s.kpr.journalResumed * 4
    + b2n s.kpr.fwRun * 2 + b2n s.kpr.ready

/-- FW_HIGHEST as the record reports it (R322). -/
def State.fwHighest (s : State) : Nat := if s.ledger.lost then s.kpr.fwVersion.toNat else s.ledgerAt 25

/-! ## The provenance record (R321 to R323) -/

/-- Distinct builds of all committed sections, ascending. -/
def State.builds (s : State) : List Nat :=
  sortBy (fun a b => decide (a < b)) (((List.range 4).flatMap fun w => (s.wingAt w).committed.map fun e => e.modelBuild.toNat).eraseDups)

/-- Bytes of a hash field, zero for none. -/
def hashField : Option Hash384 → List Byte
  | none => List.replicate 48 0
  | some h => hashBytes h

/-- Catalogue hash of a wing's committed section. -/
def State.catHash (s : State) (w : Nat) : Option Hash384 :=
  if s.hasCatalogue w then some (catalogueDigest w (s.wingAt w).committed) else none

/-- FLAGS of the provenance record. -/
def State.provenanceFlags (s : State) : Nat :=
  b2n s.partner?.isSome + b2n s.sec.unlocked * 2 + b2n s.kpr.limited * 4
    + b2n (decide (s.kpr.fwVersion.toNat < s.fwHighest)) * 8 + b2n s.ledger.lost * 16 + b2n (decide (32 < s.builds.length)) * 32
    + sumOf ((List.range 4).map fun w => b2n (s.wingAt w).commitNext.isSome * 2 ^ (10 + w))

/-- WING_POLICY word of a wing: FLAGS, reserved, FIXED_SHAPE. -/
def policyBytes (p : WingPolicy) : List Byte := ofLe 1 (b2n p.fixed + b2n p.standby * 2) ++ ofLe 1 0 ++ ofLe 2 p.fixedShape

/-- The measurement section: bytes 0 to 687. -/
def State.measurement (s : State) (g : Nat) : List Byte :=
  let gal := s.galAt g
  let bs := (s.builds.take 32)
  ofLe 2 1 ++ ofLe 2 Config.behaviour ++ ofLe 4 s.blockId ++ ofLe 4 s.kpr.fwVersion.toNat ++ ofLe 4 s.fwHighest
    ++ ofLe 1 g ++ ofLe 1 (if gal.state = 0 then 0 else gal.policy) ++ ofLe 2 s.provenanceFlags
    ++ ofLe 4 (if g = 0 then 0 else gal.gen.toNat) ++ (List.range 4).flatMap (fun w => policyBytes (s.wingAt w).policy)
    ++ hashBytes Config.romHash ++ hashField (s.kpr.image.map (·.hash)) ++ hashField (s.kpr.capsule.map (·.hash))
    ++ (List.range 4).flatMap (fun w => hashField (s.catHash w)) ++ hashField (s.partner?.map (·.keyHash))
    ++ ofLe 2 bs.length ++ List.replicate 6 0 ++ (List.range 32).flatMap fun i => ofLe 8 (nth bs i 0)

/-- The provenance record of a gallery under a challenge (R321). -/
def State.provenance (s : State) (g : Nat) (challenge : List Byte) : List Byte :=
  let body := s.measurement g ++ challenge ++ ofLe 8 s.now ++ ofLe 2 s.kpr.blockEpoch.toNat ++ List.replicate 6 0
  body ++ deviceSign body

/-! ## Rows (R109, R320, R321, R397) -/

/-- IDENTITY_STATUS (R109). -/
def execIdentityStatus (ring : Fin 8) (s : State) : Host.Outcome State Fault Refusal :=
  .next (clearCommand 0x01 { lenOk := fun pl => decide (pl.length = 0) } (fun _ s =>
    { state := s
      data := ofLe 4 s.blockId ++ ofLe 2 Config.behaviour ++ ofLe 2 s.kpr.blockEpoch.toNat ++ ofLe 4 s.kpr.fwVersion.toNat
        ++ ofLe 4 s.bootStatus ++ ofLe 1 (pairCode s.pair.state) ++ ofLe 15 0 }) ring s)

/-- Layout of GET_CERTIFICATE: offset, length in steps of 16 up to 32,704 (R109, R320). -/
def certificateLayout : Layout :=
  { lenOk := fun pl => decide (pl.length = 16), reserved := [(8, 8)]
    params := fun _ pl => if decide (32704 < field pl 4 4) || decide (field pl 4 4 % 16 ≠ 0) then some (stBadParam, []) else none }

/-- The certificate chain: the device certificate, then Denolo's issuing certificate (R320). -/
def State.certificateChain (s : State) : List Byte :=
  Config.deviceCertificate identityPublic serialNumber (BitVec.ofNat 32 s.blockId) (BitVec.ofNat 16 Config.behaviour)
    ++ Config.issuingCertificate

/-- GET_CERTIFICATE (R320). -/
def execGetCertificate (ring : Fin 8) (s : State) : Host.Outcome State Fault Refusal :=
  .next (clearCommand 0x02 certificateLayout (fun c s =>
      let chain := s.certificateChain
      let bs := (chain.drop (field c.payload 0 4)).take (field c.payload 4 4)
      { state := s, data := ofLe 4 chain.length ++ ofLe 4 bs.length ++ ofLe 8 0 ++ bs }) ring s)

/-- GET_PROVENANCE (R321). -/
def execGetProvenance (ring : Fin 8) (s : State) : Host.Outcome State Fault Refusal :=
  .next (clearCommand 0x03 { lenOk := fun pl => decide (pl.length = 48) }
    (fun c s => { state := s, data := s.provenance c.gallery c.payload }) ring s)

/-- MAINT_STATUS (R397). -/
def execMaintStatus (ring : Fin 8) (s : State) : Host.Outcome State Fault Refusal :=
  .next (clearCommand 0x50 { lenOk := fun pl => decide (pl.length = 0) } (fun _ s =>
    let running := sumOf (((s.maint.running.map (·.code)).eraseDups).map fun c => 2 ^ (c - 1))
    { state := s, data := ofLe 2 running ++ ofLe 1 s.maint.last ++ ofLe 1 s.maint.result ++ ofLe 12 0 }) ring s)

end Sys2Proof.Machine
end

