-- ==== Sys2Proof/Machine/Observe.lean ====
section
/-! DEFINITION. Snapshots, counter resets, the Daybook filter, boundary freeze and thaw (18 R398 to R412): SNAPSHOT, COUNTER_RESET, DAYBOOK_CTRL, THAW, FREEZE, SNAPSHOT_TICK, SNAPSHOT_TAKEN; and NOP. -/

namespace Sys2Proof.Machine

open Sys2Proof.Bytes

/-! ## Layouts -/

/-- A payload of exactly n bytes with the given reserved fields and test of its parameters. -/
def layout (n : Nat) (reserved : List (Nat × Nat)) (params : State → List Byte → Option (Nat × List Byte)) : Layout :=
  { lenOk := fun pl => decide (pl.length = n), reserved := reserved, params := params }

/-- An opcode with no payload. -/
def noPayload : Layout := layout 0 [] fun _ _ => none

/-- A parameter test that refuses with BAD_PARAM. -/
def badParamIf (b : Bool) : Option (Nat × List Byte) := if b then some (stBadParam, []) else none

/-! ## NOP (R109) -/

/-- NOP (R109): the reply preamble alone. -/
def execNop (ring : Fin 8) (s : State) : Host.Outcome State Fault Refusal :=
  .next (clearCommand 0x00 noPayload (fun _ s => { state := s }) ring s)

/-! ## The bank (R402) -/

/-- Whether a reset operation of a delay class and group covers a counter; group 0xFFFF is every group. -/
def resetCovers (delay group key : Nat) : Bool :=
  decide (cntDelay key = delay) && (decide (group = 0xFFFF) || decide (key / 512 = group))

/-- INTERVAL of group g at a tick (R399): ticks since its last reset. -/
def Cnt.interval (c : Cnt) (g now : Nat) : Nat :=
  match SMap.find c.since g with
  | none => 0
  | some t => now - t.toNat

/-- The live value of a counter; INTERVAL is counted from the group's reset tick. -/
def Cnt.value (c : Cnt) (key now : Nat) : W64 :=
  if key % 512 = 0 then BitVec.ofNat 64 (c.interval (key / 512) now) else SMap.getD c.live key 0

/-- One bank operation applied. -/
def Cnt.apply (c : Cnt) (e : BankEntry) : Cnt :=
  match e.op with
  | .add k n => { c with live := SMap.modify c.live k 0 fun v => v + BitVec.ofNat 64 n }
  | .gauge k n => { c with live := SMap.put c.live k (BitVec.ofNat 64 n) }
  | .gaugeMax k n => { c with live := SMap.modify c.live k 0 fun v => if v.toNat < n then BitVec.ofNat 64 n else v }
  | .copy d =>
    let others := c.shadow.filter fun x => decide (cntDelay x.1 ≠ d)
    let mine := c.live.filter fun x => decide (cntDelay x.1 = d)
    let base := mine.foldl (fun m x => SMap.put m x.1 x.2) others
    { c with shadow := if d = 0 then
        (List.range 10).foldl (fun m g => SMap.put m (cntKey g 0) (BitVec.ofNat 64 (c.interval g e.event))) base
      else base }
  | .event _ _ => c
  | .reset d g =>
    { c with
      live := c.live.filter fun x => !resetCovers d g x.1
      since := if d = 0 then c.since.map fun x => if g = 0xFFFF || decide (x.1 = g) then (x.1, BitVec.ofNat 64 e.event) else x
        else c.since }

/-- Rank of an operation within one tick and delay class: copy, reset, increments (R402). -/
def bankRank : BankOp → Nat
  | .copy _ => 0
  | .reset _ _ => 1
  | _ => 2

/-- One bank operation applied; an event's entry goes to its ring (R405). -/
def State.bankOp (s : State) (e : BankEntry) : State :=
  match e.op with
  | .event n bs => s.writeEvent n bs
  | _ => { s with cnt := s.cnt.apply e }

/-- The operations due in this tick, applied at its end in the order of R402. -/
def State.bankTick (s : State) : State :=
  let due := s.cnt.queue.filter fun e => decide (e.due ≤ s.now)
  let rest := s.cnt.queue.filter fun e => !decide (e.due ≤ s.now)
  let sorted := sortBy (fun a b => decide (bankRank a.op < bankRank b.op)) due
  sorted.foldl State.bankOp { s with cnt := { s.cnt with queue := rest } }

/-- The delay classes of R402. -/
def delayClasses : List Nat := [0, 2, 3, 4, 6]

/-! ## Snapshots (R404) -/

/-- The tick a snapshot arms: AT, but no earlier than two ticks ahead and nine after the last one taken. -/
def State.snapTick (s : State) (at_ : Nat) : Nat :=
  let t := if at_ ≤ s.now + 1 then s.now + 2 else at_
  match s.cnt.lastTick with
  | none => t
  | some l => max t (l.toNat + 9)

/-- A snapshot armed under a new identifier; an armed one not yet taken is replaced. -/
def State.armSnapshot (s : State) (at_ : Nat) (freeze : Bool) : State :=
  { s with cnt := { s.cnt with
    lastId := s.cnt.lastId + 1
    armed := some { id := s.cnt.lastId + 1, tick := BitVec.ofNat 64 (s.snapTick at_), freeze := freeze } } }

/-- SNAPSHOT (R404). -/
def execSnapshot (ring : Fin 8) (s : State) : Host.Outcome State Fault Refusal :=
  .next (clearCommand 0x60 (layout 16 [(8, 8)] fun _ _ => none) (fun c s =>
    let s1 := s.armSnapshot (field c.payload 0 8) false
    let a := s1.cnt.armed.getD {}
    { state := s1, data := ofLe 4 a.id.toNat ++ ofLe 4 0 ++ ofLe 8 a.tick.toNat }) ring s)

/-- SNAPSHOT_TICK (R402): each delay class is to be copied at the snapshot tick plus its delay; VALID falls. -/
def execSnapshotTick (s : State) : Host.Outcome State Fault Refusal :=
  match s.cnt.armed with
  | none => .next s
  | some a =>
    if a.tick.toNat ≤ s.now then
      let s1 := { s with cnt := { s.cnt with
        armed := none, taking := some { a with tick := s.kpr.ktime }, snapValid := false, lastTick := some s.kpr.ktime } }
      .next (delayClasses.foldl (fun t d => t.bank d (.copy d)) s1)
    else .next s

/-- SNAPSHOT_TAKEN (R404): seven ticks after the snapshot tick the identifiers are stamped, VALID rises, the Keeper event is written; the cause of vector 15 follows in the next tick. -/
def execSnapshotTaken (s : State) : Host.Outcome State Fault Refusal :=
  match s.cnt.taking with
  | none => .next s
  | some a =>
    if a.tick.toNat + 7 ≤ s.now then
      let s1 := { s with cnt := { s.cnt with
        taking := none, snapValid := true, snapId := a.id, snapKtime := a.tick, snapFreeze := a.freeze
        shadowId := (List.range 10).map fun g => (g, a.id), snapDue := true } }
      .next (s1.event 8 2 noWing 0 a.id.toNat)
    else .next s

/-- The "snapshot taken" cause of vector 15, in the tick behind the stamp (R404). -/
def State.announceSnapshot (s : State) : State :=
  if s.cnt.snapDue then ({ s with cnt := { s.cnt with snapDue := false } }).keeperCause 1 else s

/-! ## COUNTER_RESET (R401) -/

/-- Layout of COUNTER_RESET: a group 0 to 9, or 0xFFFF for all (R109, R401). -/
def counterResetLayout : Layout :=
  layout 16 [(2, 14)] fun _ pl => badParamIf (decide (9 < field pl 0 2) && decide (field pl 0 2 ≠ 0xFFFF))

/-- COUNTER_RESET (R401): the reset tick is the tick of acceptance. -/
def execCounterReset (ring : Fin 8) (s : State) : Host.Outcome State Fault Refusal :=
  .next (clearCommand 0x61 counterResetLayout
    (fun c s => { state := delayClasses.foldl (fun t d => t.bank d (.reset d (field c.payload 0 2))) s }) ring s)

/-! ## DAYBOOK_CTRL (R409) -/

/-- Layout of DAYBOOK_CTRL: WING_MASK and SELECT 0 or 1 (R109, R409). -/
def daybookLayout : Layout := layout 16 [(2, 14)] fun _ pl => badParamIf (decide (1 < field pl 1 1))

/-- DAYBOOK_CTRL (R409): the filter that each wing takes up at its next compose point. -/
def execDaybookCtrl (ring : Fin 8) (s : State) : Host.Outcome State Fault Refusal :=
  .next (clearCommand 0x62 daybookLayout (fun c s =>
    { state := { s with logs := { s.logs with
      dbkWings := BitVec.ofNat 4 (Nat.land (field c.payload 0 1) s.kpr.caps.wingMask)
      dbkSelect := decide (field c.payload 1 1 = 1) } } }) ring s)

/-! ## Boundary freeze (R410 to R412) -/

/-- Layout of FREEZE: a mask of served wings, not zero (R109, R410). -/
def freezeLayout : Layout :=
  layout 16 [(1, 15)] fun s pl =>
    badParamIf (decide (field pl 0 1 = 0) || decide (Nat.lor (field pl 0 1) s.kpr.caps.wingMask ≠ s.kpr.caps.wingMask))

/-- FREEZE (R410): the freeze holds for the named wings from the tick of acceptance. -/
def execFreeze (ring : Fin 8) (s : State) : Host.Outcome State Fault Refusal :=
  .next (clearCommand 0x63 freezeLayout (fun c s =>
    { state := { s with cnt := { s.cnt with holding := s.cnt.holding ||| BitVec.ofNat 4 (field c.payload 0 1), freezeDue := true } }
      status := stPending }) ring s)

/-- THAW (R412): every freeze ends; each thawed wing is composed for as an idle wing. -/
def execThaw (ring : Fin 8) (s : State) : Host.Outcome State Fault Refusal :=
  .next (clearCommand 0x64 noPayload
    (fun _ s => { state := { s with cnt := { s.cnt with holding := 0, frozen := 0, freezeDue := false } } }) ring s)

/-- The data path holds nothing of a wing: no step runs, is pending or is composed and has its descriptor still to come, no unit waits, every row is committed and every record sealed (R410). -/
def State.wingQuiet (s : State) (w : Nat) : Bool :=
  let x := s.wingAt w
  x.running.isNone && x.pending.isNone && x.composed.isNone && x.replayOf.isNone && x.tails.isEmpty
    && !(s.path.mergeQueue.any fun u => decide (u.wing = w))
    && !(s.path.trees.any fun t => decide (t.2.unit.wing = w))
    && !(s.path.dispatch.any fun r => decide (r.wing = w))
    && !(s.path.lanes.any fun l => decide (l.2.result.wing = w))
    && !(s.path.jobs.any fun j => decide (j.wing = w))
    && !(s.path.records.any fun r => decide (r.wing = w) && !r.sealed)

/-- FREEZE_COMPLETE (R410): every frozen wing is quiet, so a snapshot is armed for two ticks on and FROZEN is set; once for each FREEZE that waits, one that adds no wing included. -/
def execFreezeComplete (s : State) : Host.Outcome State Fault Refusal :=
  if s.dead then .next s else
  if s.cnt.freezeDue
      && (List.range 4).all fun w => !s.frozen w || s.wingQuiet w then
    let s1 := s.armSnapshot (s.now + 2) true
    .next { s1 with cnt := { s1.cnt with frozen := s1.cnt.holding, freezeDue := false } }
  else .next s

end Sys2Proof.Machine
end

