-- ==== Sys2Proof/Machine/Galleries.lean ====
section
/-! DEFINITION. Galleries: opening, closing, budgets, rekeying, reports (05 R109, R110, R115, R116; 07 R137 to R157; 15 R326 to R333): GALLERY_OPEN, GALLERY_CLOSE, GALLERY_BUDGET, GALLERY_REKEY, GALLERY_REPORT, GALLERY_INFO, GALLERY_CLOSE_COMPLETE, KYB_ACK. -/

namespace Sys2Proof.Machine

open Sys2Proof.Bytes

/-! ## Budget blocks (R109, R146) -/

/-- A budget block's 32 bytes. -/
def budgetBytes (b : Budget) : List Byte :=
  ofLe 4 b.rate ++ ofLe 4 b.burst ++ ofLe 4 b.concurrency ++ ofLe 4 b.loanQuota ++ ofLe 2 b.energyShare ++ ofLe 6 0
    ++ (List.range 4).flatMap fun w => ofLe 2 (nth b.reserved w 0)

/-- The block that 32 bytes hold. -/
def parseBudget (pl : List Byte) : Budget :=
  { rate := field pl 0 4, burst := field pl 4 4, concurrency := field pl 8 4, loanQuota := field pl 12 4
    energyShare := field pl 16 2, reserved := (List.range 4).map fun w => field pl (24 + 2 * w) 2 }

/-- The token bucket's refill of one Basam microsecond; a GALLERY_BUDGET accepted in an earlier microsecond gives the figures (R146). -/
def Gallery.refill (g : Gallery) : Gallery :=
  { g with level := min (g.level + (g.budget.rate : Int)) ((g.budget.burst : Int) * 1000000) }

/-- Units charged to a gallery's bucket at a commit (R146). -/
def State.charge (s : State) (g units : Nat) : State :=
  s.updGal g fun x => { x with level := x.level - (units : Int) * 1000000 }

/-! ## Keys and slots (R140, R145) -/

/-- The binding set of a policy (R140). -/
def State.bindingSet (s : State) (policy : Nat) : List Nat :=
  s.servedWings.filter fun w => decide (policy % 16 = 0) || bit policy w

/-- The gallery's memory key loaded on wings. -/
def State.loadKeys (s : State) (g : Nat) (key : Key256) (ws : List Nat) : State :=
  let s1 := s.updGal g fun x => { x with bound := ws, loaded := [], erasing := [] }
  ws.foldl (fun t w => t.kybSend { wing := w, op := 0, slot := g, key := keyBytes key }) s1

/-- The gallery opened with given values (R140 steps 1 to 7); the member that accepted derives them, the partner takes them over (R340). -/
def State.openGallery (s : State) (g policy gen : Nat) (keys : GalleryKeys) : State :=
  let s1 := s.updGal g fun x => { x with
    state := 1, policy := policy, gen := BitVec.ofNat 32 gen, keyGen := 0, keys := keys, lastCtr := 0
    level := (x.budget.burst : Int) * 1000000
    counts := {}, aids := [], freedAids := [], closedAlone := false }
  s1.loadKeys g keys.memory (s1.bindingSet policy)

/-- A gallery set to closing (R110, R145): its requests end with nothing released, its aids are freed, ERASE goes to every engine that holds its slot. -/
def State.closeGallery (s : State) (g : Nat) : State :=
  let accs := (s.liveReqs.filter fun r => decide (r.gallery = g)).map (·.acc)
  let s1 := accs.foldl State.discardRequest s
  let ws := (s1.galAt g).bound
  let s2 := s1.updGal g fun x => { x with
    closedAlone := !s.pairActs
    state := 2, aids := x.aids.map fun a => (a.1, { a.2 with removed := true }), erasing := ws, loaded := [] }
  ws.foldl (fun t w => t.kybSend { wing := w, op := 1, slot := g }) s2

/-- The share a payload carries. -/
def parseShare (bs : List Byte) (off : Nat) : PubKey := BitVec.ofNat 776 (fieldBe bs off 97)

/-- Basam's own drawn pair, private and public key: 48 bytes drawn are the private key (DESIGN CHOICE, log entry 123). -/
def State.drawPair (s : State) : Hash384 × PubKey :=
  let b := hash384 (s.draw 48)
  (b, Config.p384Public b)

/-! ## GALLERY_OPEN (R115, R116, R140) -/

/-- Layout of GALLERY_OPEN: 176 bytes, reserved bytes 97 to 127 and 161 to 175, POLICY bits 7 and 6. -/
def openLayout : Layout :=
  { lenOk := fun pl => decide (pl.length = 176), reserved := [(97, 31), (161, 15)], masks := [(160, 0xC0)] }

/-- Refusals of a pair act at check 9 (R340, R451). -/
def State.pairActRefusal (s : State) (g : Nat) : Option Nat :=
  if s.pairBroken then some stPairDegraded
  else if g ≥ s.pairGalleries then some stPairMismatch
  else none

/-- The effect of GALLERY_OPEN. -/
def openBody9 (c : Cmd) (s : State) : Done :=
  let g := c.gallery
  let pl := c.payload
  let (b, pub) := s.drawPair
  let share := parseShare pl 0
  match s.pairActRefusal g with
  | some st => .refuse s st
  | none =>
    if s.runs 6 none then .busy s 6
    else if !Config.p384Valid share b then .refuse s.drawn stBadKey
    else
      let gen := (s.galAt g).gen.toNat + 1
      let keys := openKeys (Config.ecdh b share) (slice pl 128 32) g gen
      let s1 := s.drawn.openGallery g (field pl 160 1) gen keys
      let (s2, fence) := s1.pairGallery g (.open_ (field pl 160 1) gen keys)
      let head := pubBytes pub ++ List.replicate 31 0 ++ ofLe 4 gen ++ List.replicate 12 0
        ++ hashBytes (Config.sha384 (s2.measurement g))
      let sig := deviceSign (ofLe 1 g ++ pl ++ head)
      { state := s2, data := head ++ sig, waits := some { kyb := (s2.galAt g).bound, fence := fence } }

/-- GALLERY_OPEN (R140): the reply waits for the key loads and, on a pair, the partner's acknowledgement. -/
def execGalleryOpen (ring : Fin 8) (s : State) : Host.Outcome State Fault Refusal :=
  .next (clearCommand 0x10 openLayout openBody9 ring s)

/-! ## GALLERY_CLOSE (R110, R138, R145) -/

/-- GALLERY_CLOSE (R145). -/
def execGalleryClose (ring : Fin 8) (s : State) : Host.Outcome State Fault Refusal :=
  .next (clearCommand 0x11 noPayload (fun c s =>
    let g := c.gallery
    if g = 0 then .refuse s stBadParam
    else match s.pairActRefusal g with
      | some st => .refuse s st
      | none => match s.conflict 10 g with
        | some k => .busy s k
        | none =>
          let n := (s.liveReqs.filter fun r => decide (r.gallery = g) && r.state != .deaccessioned).length
          let s1 := (s.closeGallery g).startActivity 10 g (some s.rings.applySeq) 0
          let (s2, fence) := s1.pairGallery g .close
          { state := s2, status := stPending, data := ofLe 4 n ++ ofLe 12 0
            waits := if fence = 0 then none else some { fence := fence } }) ring s)

/-- GALLERY_CLOSE_COMPLETE (R145): every erase is acknowledged and every loan freed, so the gallery is closed and its keys are gone. -/
def execGalleryCloseComplete (gallery : Nat) (s : State) : Host.Outcome State Fault Refusal :=
  if s.dead then .next s else
  let g := s.galAt gallery
  if decide (g.state = 2) && g.erasing.isEmpty && !(s.allReqs.any fun r => decide (r.gallery = gallery)) then
    let s1 := s.updGal gallery fun x => { x with state := 0, policy := 0, keys := {}, bound := [], aids := [] }
    .next (if s1.runs 10 (some gallery) then s1.endActivity 10 gallery stOk else s1)
  else .next s

/-! ## GALLERY_BUDGET (R110, R150, R152) -/

/-- Live Reserved requests of a gallery on a wing. -/
def State.reservedLive (s : State) (g w : Nat) : Nat :=
  ((s.wingLive w).filter fun r => decide (r.gallery = g) && decide (r.cls = 0)).length

/-- The block may not replace the gallery's (R150, R152). -/
def State.budgetInfeasible (s : State) (g : Nat) (b : Budget) : Bool :=
  let slots := fun w => nth b.reserved w 0
  let old := (s.galAt g).budget
  (s.capped && decide (s.shareLimit b.energyShare <
      sumOf (s.servedWings.map fun w => slots w * maxOf ((s.allowed w).map rowMw))))
    || ((List.range 4).any fun w => decide (slots w < s.reservedLive g w))
    || (s.servedWings.any fun w => s.hasCatalogue w
        && decide (s.rowCeiling w < s.reservedSum w - nth old.reserved w 0 + slots w))

/-- GALLERY_BUDGET (R110, R150): the block replaced in a gallery of any state. -/
def execGalleryBudget (ring : Fin 8) (s : State) : Host.Outcome State Fault Refusal :=
  .next (clearCommand 0x12 (layout 32 [(18, 6)] fun _ _ => none) (fun c s =>
    let b := parseBudget c.payload
    if s.budgetInfeasible c.gallery b then .refuse s stInfeasible
    else { state := s.updGal c.gallery fun x => { x with budget := b } }) ring s)

/-! ## GALLERY_REKEY (R143, R327) -/

/-- The new keys installed (R143), also by the partner (R340): sealing that begins in this tick still takes the old egress key. -/
def State.installRekey (s : State) (g keyGen : Nat) (keys : GalleryKeys) : State :=
  s.updGal g fun x => { x with
    oldEgress := some (s.kpr.ktime, x.egressAt s.kpr.ktime), keyGen := BitVec.ofNat 16 keyGen, keys := keys }

/-- The effect of GALLERY_REKEY. -/
def rekeyBody (c : Cmd) (o : Opened) (s : State) : Done :=
  let g := c.gallery
  let gal := s.galAt g
  match openBody o.plain with
  | none => .refuse s stBadParam
  | some body =>
    if body.length ≠ 101 ∨ g = 0 then .refuse s stBadParam
    else match s.pairActRefusal g with
      | some st => .refuse s st
      | none => match s.conflict 7 g with
        | some k => .busy s k
        | none =>
          let (b, pub) := s.drawPair
          let share := parseShare body 4
          if !Config.p384Valid share b then .refuse s.drawn stBadKey
          else
            let n := (gal.keyGen.toNat + 1) % 2 ^ 16
            let keys := rekeyKeys gal.keys (Config.ecdh b share) n
            let s1 := s.drawn.installRekey g n keys
            let (s2, fence) := s1.pairGallery g (.rekey n keys)
            let s3 := s2.startActivity 7 g (some s.rings.applySeq) fence
            let s4 := if fence = 0 then s3.endActivity 7 g stOk else s3
            let pt := ofLe 4 104 ++ pubBytes pub ++ ofLe 1 0 ++ ofLe 2 n ++ List.replicate 8 0
            { state := s4, status := stPending, data := sealReply g gal s.kpr.ktime s.side o.ctr o.nonce pt
              waits := if fence = 0 then none else some { fence := fence } }

/-- GALLERY_REKEY (R143): the reply is sealed under the old egress key. -/
def execGalleryRekey (ring : Fin 8) (s : State) : Host.Outcome State Fault Refusal :=
  .next ((sealedCommand 0x13 sealedLayout0 plainEnvelope (fun _ => true) rekeyBody ring s).tellCounter s (s.headerAt ring.val).gallery)

/-! ## GALLERY_REPORT, GALLERY_INFO (R156, R157, R331) -/

/-- The GALLERY_REPORT plaintext, 280 bytes (R331). -/
def State.reportPlain (s : State) (g : Nat) : List Byte :=
  let gal := s.galAt g
  let k := gal.counts
  ofLe 4 280 ++ ofLe 4 0 ++ ofLe 8 k.accessioned.toNat
    ++ (List.range 10).flatMap (fun i => ofLe 8 (SMap.getD k.deaccessions (i + 1) 0).toNat)
    ++ ofLe 8 k.tokens.toNat ++ (List.range 9).flatMap (fun i => ofLe 8 (SMap.getD k.misses i 0).toNat)
    ++ ofLe 8 k.late.toNat ++ ofLe 8 k.replays.toNat ++ ofLe 8 k.recalls.toNat ++ ofLe 8 k.slips.toNat ++ ofLe 8 k.energy.toNat
    ++ ofLe 8 (twos 64 gal.level) ++ ofLe 4 (s.loans g) ++ ofLe 4 (s.liveOf g) ++ budgetBytes gal.budget
    ++ ofLe 4 (if g = 0 then 0 else gal.gen.toNat) ++ ofLe 4 0 ++ ofLe 8 s.now

/-- GALLERY_REPORT (R157). -/
def execGalleryReport (ring : Fin 8) (s : State) : Host.Outcome State Fault Refusal :=
  .next ((sealedCommand 0x15 sealedLayout0 plainEnvelope (fun _ => true) (fun c o s =>
    match openBody o.plain with
    | some body =>
      if body.length ≠ 4 then .refuse s stBadParam
      else { state := s, data := sealReply c.gallery (s.galAt c.gallery) s.kpr.ktime s.side o.ctr o.nonce (s.reportPlain c.gallery ++ ofLe 8 0) }
    | none => .refuse s stBadParam) ring s).tellCounter s (s.headerAt ring.val).gallery)

/-- GALLERY_INFO (R137, R147, R148). -/
def execGalleryInfo (ring : Fin 8) (s : State) : Host.Outcome State Fault Refusal :=
  .next (clearCommand 0x16 noPayload (fun c s =>
    let gal := s.galAt c.gallery
    { state := s
      data := ofLe 1 gal.state ++ ofLe 1 gal.policy ++ ofLe 2 0 ++ ofLe 4 (if c.gallery = 0 then 0 else gal.gen.toNat)
        ++ ofLe 4 (s.liveOf c.gallery) ++ ofLe 4 (s.loans c.gallery) ++ budgetBytes gal.budget }) ring s)

/-! ## KYB_ACK (R61) -/

/-- The first element that meets a test, and the list without it. -/
def takeFirst {α : Type} (p : α → Bool) : List α → Option (α × List α)
  | [] => none
  | x :: xs => if p x then some (x, xs) else (takeFirst p xs).map fun r => (r.1, x :: r.2)

/-- KYB_ACK (R61): the oldest operation of the target is done; a load opens its slot, of a memory key or the control structure key, an erase empties it. -/
def execKybAck (wing : Fin 4) (target : Bool) (_status : BitVec 2) (s : State) : Host.Outcome State Fault Refusal :=
  if s.dead then .next s else
  match takeFirst (fun (o : KybOp) => decide (o.wing = wing.val) && (o.noise == target)) s.path.kyb with
  | none => .next s
  | some (o, rest) =>
    let s1 := { s with path := { s.path with kyb := rest } }
    if o.noise then .next s1
    else if 64 ≤ o.slot then
      .next (if o.op = 0 then { s1 with path := { s1.path with ctlLoaded := o.wing :: s1.path.ctlLoaded.filter (· != o.wing) } }.smpFlush else s1)
    else if o.op = 0 then
      let s2 := s1.updGal o.slot fun x => { x with loaded := o.wing :: x.loaded.filter (· != o.wing) }
      let s3 := { s2 with rings := { s2.rings with replies := s2.rings.replies.map fun (r : PendingReply) =>
        if r.op = 0x10 ∧ r.gallery = o.slot then { r with waitKyb := r.waitKyb.filter (· != o.wing) } else r } }
      .next s3.smpFlush.flushReplies
    else .next (s1.updGal o.slot fun x => { x with erasing := x.erasing.filter (· != o.wing) })

end Sys2Proof.Machine
end

