-- ==== Sys2Proof/Machine/Catalogue.lean ====
section
/-! DEFINITION. The Step Catalogue as commands change it: staging, commit, archive slots, wing policy, shape states (07 R152, R154; 09 R180 to R190, R198 to R200): CAT_STAGE, CAT_COMMIT, CAT_ARCHIVE, CAT_ARCHIVE_DONE, WING_POLICY, SHAPE_STATE_READ, SHAPE_STATE_RELEASE, SHAPE_STATE_DISABLE. -/

namespace Sys2Proof.Machine

open Sys2Proof.Bytes

/-! ## The catalogue entry (R181, R182) -/

/-- Window descriptor j of an entry. -/
def parseWindow (raw : List Byte) (j : Nat) : Window :=
  let b := 0x40 + 16 * j
  { openAt := field raw b 4, closeAt := field raw (b + 4) 4, firstRow := field raw (b + 8) 2
    rowCount := field raw (b + 10) 2, shards := field raw (b + 12) 1, candBursts := field raw (b + 14) 2 }

/-- The entry that 2,048 bytes hold. -/
def parseEntry (raw : List Byte) : CatEntry :=
  let flags := field raw 0x2A 2
  { modelBuild := BitVec.ofNat 64 (field raw 0 8), program := BitVec.ofNat 64 (field raw 8 8)
    cycles := field raw 0x10 5, energyUj := field raw 0x18 4, feedOffset := field raw 0x1C 4
    shapeId := field raw 0x20 2 % 4096, rows := field raw 0x22 2, chunkSlots := field raw 0x24 2
    chunkLen := field raw 0x26 2, specWidth := field raw 0x28 1
    windows := (List.range (min 64 (field raw 0x29 1))).map (parseWindow raw)
    rowInvariant := bit flags 0, fixedEligible := bit flags 1, denoise := bit flags 2, embed := bit flags 3
    pageTokens := field raw 0x2C 2, rowPages := field raw 0x2E 2
    kPartial := (List.range 4).map fun i => field raw (0x30 + 2 * i) 2, raw := raw }

/-- Reserved bytes and bits of an entry are zero, and so are the descriptors at and above WINDOWS. -/
def entryReservedOk (raw : List Byte) : Bool :=
  let n := min 64 (field raw 0x29 1)
  allZero (slice raw 0x15 3) && decide (field raw 0x20 2 < 4096) && decide (field raw 0x2A 2 < 16)
    && allZero (slice raw 0x3A 6) && ((List.range n).all fun j => decide (field raw (0x40 + 16 * j + 13) 1 = 0))
    && allZero (slice raw (0x40 + 16 * n) (1024 - 16 * n)) && allZero (slice raw 0x440 0x3BC)

/-! ## The intake buffer's figures (R227 to R230) -/

/-- INTAKE_BURSTS. -/
def intakeBursts (z : Size) : Nat := 14 * (Config.built z).rows

/-- A_j of a window. -/
def rowArea (e : CatEntry) (w : Window) : Nat := (1 + e.specWidth) * w.shards * (w.candBursts + 1)

/-- E_row. -/
def rowRecords (e : CatEntry) : Nat := maxOf (e.windows.map fun w => (1 + e.specWidth) * w.shards * w.candBursts * 8)

/-- FREE in ticks. -/
def freeTicks (e : CatEntry) : Nat := 200 + ceilDiv (rowRecords e) 36

/-- The occupancy rule (R230). -/
def occupancyOk (z : Size) (e : CatEntry) : Bool :=
  let a := maxOf (e.windows.map (rowArea e))
  decide (a ≤ intakeBursts z / 4) && decide (36 * freeTicks e + 2 * a ≤ intakeBursts z)

/-! ## The conditions of R184 -/

/-- Row groups follow one another without gap or overlap from a row on and end at the last row; OPEN and CLOSE do not decrease. -/
def windowsFollow (rows ticks : Nat) : Nat → Nat → Nat → List Window → Bool
  | row, _, _, [] => decide (row = rows)
  | row, o, c, w :: ws =>
    decide (w.firstRow = row) && decide (w.rowCount ≠ 0) && decide (0 < w.openAt) && decide (w.openAt < w.closeAt)
      && decide (w.closeAt ≤ ticks) && decide (o ≤ w.openAt) && decide (c ≤ w.closeAt)
      && windowsFollow rows ticks (row + w.rowCount) w.openAt w.closeAt ws

/-- Condition 7 of R184. -/
def genOk (s : State) (e : CatEntry) (count : Nat) : Bool :=
  let k := maxOf (e.kPartial.take 3)
  decide (1 ≤ count) && decide (count ≤ 64) && windowsFollow e.rows (shapeTicks e) 0 0 0 e.windows
    && (e.windows.all fun w => decide (1 ≤ w.shards) && decide (w.shards ≤ s.kpr.caps.maxShards) && decide (k ≤ w.candBursts * 8))
    && decide (e.feedOffset < (nth e.windows 0 {}).openAt) && decide (1 ≤ nth e.kPartial 0 0)
    && occupancyOk s.kpr.size e

/-- A part cannot run an entry (R38). -/
def State.runnable (s : State) (e : CatEntry) : Bool :=
  s.served (shapeWing e.shapeId) && decide (e.rows ≤ s.kpr.caps.rows)
    && (e.kPartial.all fun k => decide (k ≤ s.kpr.caps.largestK)) && decide (e.specWidth ≤ s.kpr.caps.specWidth)

/-- The number of the first condition of R184 that an entry for a wing and index fails. -/
def State.entryFails (s : State) (w index : Nat) (raw : List Byte) : Option Nat :=
  let e := parseEntry raw
  let plain := !e.denoise && !e.embed
  if crc32c (raw.take 0x7FC) ≠ field raw 0x7FC 4 then some 1
  else if field raw 0x38 2 ≠ 1 || !entryReservedOk raw then some 2
  else if !(decide (e.shapeId = w * 1024 + index) && decide (index < s.sectionSize)) then some 3
  else if !s.runnable e then some 4
  else if e.cycles = 0 ∨ e.cycles % 36 ≠ 0 ∨ e.energyUj = 0 ∨ e.rows = 0 then some 5
  else if (e.denoise && e.embed) || decide ((e.chunkSlots = 0) ≠ (e.chunkLen = 0))
      || (decide (e.rowPages ≠ 0) && decide (e.pageTokens = 0)) then some 6
  else if plain && !genOk s e (field raw 0x29 1) then some 7
  else if !plain && (decide (field raw 0x29 1 ≠ 0) || decide (e.feedOffset ≠ 0xFFFFFFFF) || decide (e.specWidth ≠ 0)
      || e.kPartial.any (· != 0)) then some 8
  else if nth e.kPartial 3 0 ≠ 0 then some 9
  else none

/-! ## CAT_STAGE (R184, R185) -/

/-- Entry i of a CAT_STAGE payload. -/
def stagedRaw (pl : List Byte) (i : Nat) : List Byte := slice pl (16 + 2048 * i) 2048

/-- The first entry that fails: its position and the condition. -/
def State.stageFails (s : State) (w first count : Nat) (pl : List Byte) : Option (Nat × Nat) :=
  (List.range count).findSome? fun i => (s.entryFails w (first + i) (stagedRaw pl i)).map fun c => (i, c)

/-- Layout of CAT_STAGE: COUNT entries behind 16 bytes. -/
def stageLayout : Layout :=
  { lenOk := fun pl => decide (16 ≤ pl.length) && decide (pl.length = 16 + 2048 * field pl 4 2)
    reserved := [(1, 1), (6, 10)]
    params := fun _ pl => badParamIf (decide (field pl 4 2 = 0) || decide (15 < field pl 4 2)) }

/-- The effect of CAT_STAGE. -/
def stageBody (c : Cmd) (s : State) : Done :=
  let w := field c.payload 0 1
  let first := field c.payload 2 2
  let count := field c.payload 4 2
  match s.stageFails w first count c.payload with
  | some (i, cond) => { state := s.event 10 0x11 noWing cond (first + i), status := stBadParam, data := ofLe 16 (first + i) }
  | none =>
    match s.conflict 3 w with
    | some k => .busy s k
    | none =>
      let x := s.wingAt w
      let s1 := if x.stagingFresh then s else
        (s.updWing w fun y => { y with staging := [], stagingFresh := true }).startActivity 3 w (some s.rings.applySeq) 0
      { state := (s1.wrote 1).updWing w fun y => { y with
          staging := (List.range count).foldl (fun m i => SMap.put m (first + i) (parseEntry (stagedRaw c.payload i))) y.staging } }

/-- CAT_STAGE (R184, R185). -/
def execCatStage (ring : Fin 8) (s : State) : Host.Outcome State Fault Refusal :=
  .next (clearCommand 0x30 stageLayout stageBody ring s)

/-! ## The flip (R185, R188) -/

/-- The bank selector flips: the accepted section is committed, the wing leaves CAT_MISSING, the activity completes. -/
def State.flip (s : State) (w : Nat) : State :=
  match (s.wingAt w).commitNext with
  | none => s
  | some (es, sig) =>
    let s1 := s.updWing w fun x => { x with
      committed := es, signature := sig, selector := !x.selector, commitNext := none, staging := [], stagingFresh := false }
    let s2 := { s1 with kpr := { s1.kpr with catMissing := s1.kpr.catMissing &&& ~~~ (BitVec.ofNat 4 (2 ^ w)) } }
    if s2.runs 4 (some w) then s2.endActivity 4 w stOk else s2

/-- The wing has no step running and none pending (R9). -/
def Wing.idle (x : Wing) : Bool := x.running.isNone && x.pending.isNone

/-! ## CAT_COMMIT (R186 to R188, R340) -/

/-- Entries 0 to n - 1 of the staging section, if all are staged. -/
def Wing.stagedEntries (x : Wing) (n : Nat) : Option (List CatEntry) :=
  if x.stagingFresh then (List.range n).foldr (fun i acc => do return (← SMap.find x.staging i) :: (← acc)) (some [])
  else none

/-- Test 2 of R187: one page geometry per build. -/
def oneGeometry (es : List CatEntry) : Bool :=
  es.all fun a => es.all fun b =>
    decide (a.modelBuild ≠ b.modelBuild) || (decide (a.pageTokens = b.pageTokens) && decide (a.rowPages = b.rowPages))

/-- FIXED_SHAPE of a policy names an entry of a section that meets R154. -/
def Wing.fixedOk (x : Wing) (w : Nat) (es : List CatEntry) (p : WingPolicy) : Bool :=
  match es[shapeIndex p.fixedShape]? with
  | none => false
  | some e =>
    decide (shapeWing p.fixedShape = w) && decide (p.fixedShape < 4096) && (x.shapeSt e).enabled && e.fixedEligible && e.rowInvariant
      && (decide (p.maxCycles = 0) || decide (e.cycles ≤ p.maxCycles))

/-- Every live request of the wing is served by one of a set of allowed shapes. -/
def State.allServed (s : State) (w : Nat) (es : List CatEntry) : Bool :=
  (s.wingLive w).all fun r => es.any (s.servesReq r)

/-- R172 with a wing's allowed shapes replaced. -/
def State.capOkWith (s : State) (w : Nat) (es : List CatEntry) : Bool :=
  !s.capped || s.capHolds s.pAvail fun v => if v = w then es else s.allowed v

/-- Tests 4 to 8 of R187 on a new section: a status where one fails. -/
def State.commitInfeasible (s : State) (w : Nat) (es : List CatEntry) : Bool :=
  let x := s.wingAt w
  let alw := x.allowedIn es x.composePolicy
  let cross := (x.allowedIn x.committed x.composePolicy).all fun a => es.all fun b =>
    withinDc (s.dcUs w) (ceilDiv (shapeTicks a + gapOf a b) 100)
  !(withinDc (s.dcUs w) (periodUs alw) && cross)
    || decide (s.ceilingOf w alw < s.reservedSum w)
    || (x.composePolicy.fixed && !x.fixedOk w es x.composePolicy)
    || !s.allServed w alw
    || !s.capOkWith w alw

/-- The effect of an accepted CAT_COMMIT (R185, R188): staging ends without a completion, its MAINT_END written (DEDUCED, log entry 28), the commit runs; an idle wing flips in the next tick. -/
def State.acceptCommit (s : State) (w : Nat) (es : List CatEntry) (sig : Sig) (seq : Option W32) : State :=
  let s0 := if s.runs 3 w then ((s.keepPeriod w).dropActivity 3 w).event 10 0x13 noWing 3 0 else s.keepPeriod w
  let s1 := s0.startActivity 4 w seq 0
  s1.updWing w fun x => { x with commitNext := some (es, sig), idleFlip := x.idleFlip || x.idle }

/-- The effect of CAT_COMMIT. -/
def commitBody (c : Cmd) (s : State) : Done :=
  let w := field c.payload 0 1
  let n := field c.payload 4 4
  let sig : Sig := BitVec.ofNat 768 (fieldBe c.payload 16 96)
  let x := s.wingAt w
  let pairAct := s.pairActs && x.paired
  if x.paired && s.pairBroken then .refuse s stPairDegraded
  else if decide (n = 0) || decide (s.sectionSize < n) then .refuse s stBadParam
  else match x.stagedEntries n with
    | none => .refuse s stBadParam
    | some es =>
      if !oneGeometry es then .refuse s stBadParam
      else if !Config.ecdsaVerify s.cfg.catalogueKey (catalogueDigest w es) sig then .refuse s stBadSignature
      else if s.commitInfeasible w es then .refuse s stInfeasible
      else if pairAct && !Config.partnerAgrees s.free then .refuse { s with free := s.free + 1 } stInfeasible
      else match s.conflict 4 w with
        | some k => .busy s k
        | none =>
          let s1 := (if pairAct then { s with free := s.free + 1 } else s).acceptCommit w es sig (some s.rings.applySeq)
          if pairAct then
            let s2 := s1.sendFrame (.catalogue (.commit w n (catalogueDigest w es) sig))
            { state := s2, status := stPending, waits := some { fence := s2.fenceNow } }
          else { state := s1, status := stPending }

/-- Layout of CAT_COMMIT: a served wing, N and the signature (R109, R187). -/
def commitLayout : Layout := layout 112 [(1, 3), (8, 8)] fun s pl => badParamIf (!s.served (field pl 0 1))

/-- CAT_COMMIT (R187, R188). -/
def execCatCommit (ring : Fin 8) (s : State) : Host.Outcome State Fault Refusal :=
  .next (clearCommand 0x31 commitLayout commitBody ring s)

/-! ## Archive slots (R190) -/

/-- The 4 KiB header of a slot: COMMIT_SEQ, HEADER_CRC over bytes 16 to 4,095, then ENTRIES and SIGNATURE of each wing. -/
def slotHeader (seq : Nat) (secs : List (List CatEntry × Sig)) : List Byte :=
  let body := slice ((List.range 4).flatMap fun w =>
    let x := nth secs w ([], 0)
    ofLe 4 x.1.length ++ ofLe 12 0 ++ ofBe 96 x.2.toNat) 0 4080
  ofLe 8 seq ++ ofLe 4 (crc32c body) ++ ofLe 4 0 ++ body

/-- COMMIT_SEQ of a slot. -/
def ArcSlot.seq (a : ArcSlot) : Nat := field a.header 0 8

/-- A slot is valid: its header stands, with a commit sequence from 1 on and its CRC. -/
def ArcSlot.valid (a : ArcSlot) : Bool :=
  decide (a.header.length = 4096) && decide (a.seq ≠ 0) && decide (field a.header 8 4 = crc32c (a.header.drop 16))

/-- A wing's section as the header gives it: ENTRIES entries and the signature. -/
def ArcSlot.section_ (a : ArcSlot) (w : Nat) : List CatEntry × Sig :=
  ((nth a.sections w []).take (field a.header (16 + w * 112) 4), BitVec.ofNat 768 (fieldBe a.header (32 + w * 112) 96))

/-- The byte at an offset of a slot: the header, then the section of wing w from 0x1000 + w × 0x20_0000 on; none beyond what was written. -/
def ArcSlot.byteAt (a : ArcSlot) (o : Nat) : Option Byte :=
  if o < 0x1000 then a.header[o]?
  else ((nth a.sections ((o - 0x1000) / 0x200000) []).flatMap (·.raw))[(o - 0x1000) % 0x200000]?

/-- The slot that holds the greater valid COMMIT_SEQ, if any is valid. -/
def greaterSlot (slots : List ArcSlot) : Option Nat :=
  let a := nth slots 0 {}
  let b := nth slots 1 {}
  if a.valid && (!b.valid || decide (b.seq ≤ a.seq)) then some 0
  else if b.valid then some 1 else none

/-- What CAT_ARCHIVE writes, and into which slot. -/
def State.archiveJob (s : State) (mask : Nat) : Nat × ArcSlot :=
  let keep := greaterSlot s.maint.arcSlots
  let old : ArcSlot := (keep.map fun k => nth s.maint.arcSlots k {}).getD {}
  let target := match keep with
    | some k => 1 - k
    | none => 0
  let secs := (List.range 4).map fun w =>
    if bit mask w then ((s.wingAt w).committed, (s.wingAt w).signature) else old.section_ w
  (target, { header := slotHeader (old.seq + 1) secs, sections := secs.map (·.1) })

/-- CAT_ARCHIVE (R190): the slot's header is written last, at CAT_ARCHIVE_DONE. -/
def execCatArchive (ring : Fin 8) (s : State) : Host.Outcome State Fault Refusal :=
  .next (clearCommand 0x32 (layout 16 [(1, 15)] fun _ _ => none) (fun c s =>
    let mask := field c.payload 0 1
    if (List.range 8).any fun w => bit mask w && !s.hasCatalogue w then .refuse s stNotReady
    else match minOf ((if s.runs 2 none then [2] else []) ++ if s.runs 6 none then [6] else []) with
      | some k => .busy s k
      | none =>
        let job := s.archiveJob mask
        { state := ({ s with maint := { s.maint with
            arcJob := some job, arcSlots := setNth s.maint.arcSlots job.1 { (nth s.maint.arcSlots job.1 {}) with header := [] } } }).emit (.archive (if job.1 = 0 then .slotA else .slotB))
          status := stPending }) ring s)

/-- CAT_ARCHIVE_DONE (R190): the header is programmed and the slot holds the greater COMMIT_SEQ. -/
def execCatArchiveDone (s : State) : Host.Outcome State Fault Refusal :=
  if s.dead then .next s else
  match s.maint.arcJob with
  | none => .next s
  | some (k, slot) => .next { s with maint := { s.maint with arcJob := none, arcSlots := setNth s.maint.arcSlots k slot } }

/-! ## WING_POLICY (R152, R154, R160, R340) -/

/-- The policy that a payload gives. -/
def parsePolicy (pl : List Byte) : WingPolicy :=
  { fixed := bit (field pl 1 1) 0, standby := bit (field pl 1 1) 1, fixedShape := field pl 2 2, maxCycles := field pl 4 8 }

/-- The wing holds a live request of a gallery with TIMING_ISOLATION. -/
def State.holdsIsolated (s : State) (w : Nat) : Bool := (s.wingLive w).any fun r => bit (s.galAt r.gallery).policy 4

/-- A policy would take a paired wing out of the paired wing set (R339, R340). -/
def State.leavesPairedSet (s : State) (w : Nat) (p : WingPolicy) : Bool :=
  (s.wingAt w).paired && match s.pair.partner with
    | none => false
    | some h =>
      let q := nth h.policies w {}
      !(p.fixed == q.fixed && decide (p.fixedShape = q.fixedShape) && !(p.standby && q.standby))

/-- A policy is refused with INFEASIBLE. -/
def State.policyInfeasible (s : State) (w : Nat) (p : WingPolicy) : Bool :=
  let x := s.wingAt w
  let alw := x.allowedIn x.composeSection p
  !withinDc (s.dcUs w) (periodUs alw)
    || (s.hasCatalogue w && decide (s.ceilingOf w alw < s.reservedSum w))
    || (x.composePolicy.fixed && !p.fixed && s.holdsIsolated w)
    || s.leavesPairedSet w p

/-- Layout of WING_POLICY: a served wing, FLAGS, FIXED_SHAPE, MAX_CYCLES (R109, R154). -/
def policyLayout : Layout :=
  { lenOk := fun pl => decide (pl.length = 16), reserved := [(12, 4)], masks := [(1, 0xFC)]
    params := fun s pl => badParamIf (!s.served (field pl 0 1)) }

/-- WING_POLICY (R9, R154): compose points read the policy from here on; it is in force from the boundary at which the first step composed under it begins, on an idle wing from the next tick. -/
def execWingPolicy (ring : Fin 8) (s : State) : Host.Outcome State Fault Refusal :=
  .next (clearCommand 0x33 policyLayout (fun c s =>
      let w := field c.payload 0 1
      let p := parsePolicy c.payload
      let x := s.wingAt w
      if !s.hasCatalogue w && x.commitNext.isNone && x.staging.isEmpty then .refuse s stNotReady
      else if p.fixed && !x.fixedOk w x.composeSection p then .refuse s stBadParam
      else if s.policyInfeasible w p then .refuse s stInfeasible
      else { state := (s.keepPeriod w).updWing w fun y => { y with policyNext := some p } }) ring s)

/-! ## Shape states (R198 to R200) -/

/-- The cause, 1 to 3 in the order of R199, for which withdrawing a shape would be held; 0 for none. -/
def State.holdCause (s : State) (w : Nat) (e : CatEntry) : Nat :=
  let x := s.wingAt w
  let others := (s.allowed w).filter fun a => decide (a ≠ e)
  if x.fixedEntry = some e then 1
  else if !s.allServed w others then 2
  else if s.ceilingOf w others < s.reservedSum w then 3
  else 0

/-- STATE of SHAPE_STATE: 0 enabled, 1 quarantined, 2 disabled. -/
def ShapeSt.code (t : ShapeSt) : Nat := if t.disabled || t.wantDisable then 2 else if t.quarantined then 1 else 0

/-- The reply data of SHAPE_STATE. -/
def ShapeSt.reply (t : ShapeSt) : List Byte := ofLe 4 t.code ++ ofLe 4 t.breaches.toNat ++ ofLe 8 0

/-- The entry that SHAPE names in the committed section. -/
def State.shapeNamed (s : State) (id : Nat) : Option CatEntry := (s.wingAt (shapeWing id)).committed[shapeIndex id]?

/-- Layout of SHAPE_STATE: SHAPE_ID and ACTION 0 to 2 (R109, R200). SHAPE[15:12] are taken as reserved bits (DESIGN CHOICE, log entry 101). -/
def shapeLayout : Layout :=
  { lenOk := fun pl => decide (pl.length = 16), reserved := [(3, 13)], masks := [(1, 0xF0)]
    params := fun _ pl => badParamIf (decide (2 < field pl 2 1)) }

/-- A SHAPE_STATE row: the packet with this ACTION, its entry found. -/
def shapeCommand (action : Nat) (act : Nat → CatEntry → State → Done) (ring : Fin 8) (s : State) : State :=
  let pl := s.cmdBytes ring.val ((s.pairAt ring.val).cmdCi.toNat % 4096 * 16 + 16) 16
  if field pl 2 1 ≠ action ∧ ¬(action = 0 ∧ 2 < field pl 2 1) then s
  else clearCommand 0x35 shapeLayout (fun c s =>
      let id := field c.payload 0 2
      match s.shapeNamed id with
      | none => .refuse s stBadParam
      | some e => act (shapeWing id) e s) ring s

/-- SHAPE_STATE_READ (R200): nothing changes. -/
def execShapeStateRead (ring : Fin 8) (s : State) : Host.Outcome State Fault Refusal :=
  .next (shapeCommand 0 (fun w e s => { state := s, data := ((s.wingAt w).shapeSt e).reply }) ring s)

/-- SHAPE_STATE_RELEASE (R160, R200): the shape is enabled and its history cleared, unless P_w_us would exceed DC_w. -/
def execShapeStateRelease (ring : Fin 8) (s : State) : Host.Outcome State Fault Refusal :=
  .next (shapeCommand 1 (fun w e s =>
    let t := (s.wingAt w).shapeSt e
    let freed := s.updWing w fun x => x.updShape (shapeKey e) fun t => { t with
      disabled := false, quarantined := false, wantDisable := false, wantQuarantine := false, heldReport := false, history := [] }
    let s1 := if t.code ≠ 0 && withinDc (s.dcUs w) (periodUs (freed.allowed w)) then freed else s
    { state := s1, data := ((s1.wingAt w).shapeSt e).reply }) ring s)

/-- SHAPE_STATE_DISABLE (R152, R199, R200): refused where a quarantine would be held; else it acts at the next compose point. -/
def execShapeStateDisable (ring : Fin 8) (s : State) : Host.Outcome State Fault Refusal :=
  .next (shapeCommand 2 (fun w e s =>
    if ((s.wingAt w).shapeSt e).code ≠ 2 && s.holdCause w e ≠ 0 then .refuse s stInfeasible
    else
      let s1 := s.updWing w fun x => x.updShape (shapeKey e) fun t => { t with
        wantDisable := !t.disabled, wantQuarantine := false, heldReport := false }
      { state := s1, data := ((s1.wingAt w).shapeSt e).reply }) ring s)

/-- The breach table's entry of a (wing, fingerprint) changed; a new pair takes an empty entry, else the one with the fewest BREACH_STEPS, the smallest LAST_S, the lowest number (R420). -/
def State.breachEntry (s : State) (w : Nat) (fp : W64) (f : BreachEntry → BreachEntry) : State :=
  let size := 256
  let l := s.ledger
  match l.breaches.find? fun e => e.2.fingerprint = fp ∧ e.2.wing = w with
  | some e => { s with ledger := { l with breaches := SMap.put l.breaches e.1 (f e.2) } }
  | none =>
    let fresh : BreachEntry := { fingerprint := fp, wing := w, firstS := s.ledgerAt 0 }
    match (List.range size).find? fun i => (SMap.find l.breaches i).isNone with
    | some i => { s with ledger := { l with breaches := SMap.put l.breaches i (f fresh) } }
    | none =>
      let before := fun (a b : Nat × BreachEntry) => decide (a.2.steps < b.2.steps) ||
        (decide (a.2.steps = b.2.steps) && (decide (a.2.lastS < b.2.lastS) || (decide (a.2.lastS = b.2.lastS) && decide (a.1 < b.1))))
      let k := ((sortBy before l.breaches).head?.map (·.1)).getD 0
      { s with ledger := { l with breaches := SMap.put l.breaches k (f fresh), evicted := l.evicted + 1 } }

/-- Quarantines and disablements that wait take effect at a compose point, or are held (R198, R199). -/
def State.shapesDue (s : State) (w : Nat) : State :=
  let s0 := s.updWing w fun x => { x with pwFloor := 0 }
  let x0 := s0.wingAt w
  (x0.composeSection ++ if x0.commitNext.isSome then x0.committed else []).foldl (fun t e =>
    let st := (t.wingAt w).shapeSt e
    let upd := fun (f : ShapeSt → ShapeSt) (t : State) => t.updWing w fun x => x.updShape (shapeKey e) f
    if st.wantDisable then upd (fun y => { y with disabled := true, wantDisable := false, wantQuarantine := false }) t
    else if st.wantQuarantine && !st.disabled && !st.quarantined then
      let cause := t.holdCause w e
      if cause = 0 then
        (upd (fun y => { y with quarantined := true, wantQuarantine := false, heldReport := false }) t).breachEntry w (fingerprint e.raw)
          fun b => { b with quarantines := b.quarantines + 1 }
      else if st.heldReport then t
      else (upd (fun y => { y with heldReport := true }) t).report 0x0005 2 0x03 w 255 [e.shapeId, cause]
    else t) s0

end Sys2Proof.Machine
end

