-- ==== Sys2Proof/Machine/Requests.lean ====
section
/-! DEFINITION. The sealed parts that describe a request, and the admission tests (07 R147, R148, R151, R153; 08 R160 to R169; 12 R255 to R257; 15 R329, R330). -/

namespace Sys2Proof.Machine

open Sys2Proof.Bytes

/-! ## Parts of a sealed plaintext (R214, R220, R255, R271, R330) -/

/-- Token IDs below this bound exist (TOKEN_ID_BITS). -/
def State.tokenLimit (s : State) : Nat := 2 ^ s.kpr.caps.tokenBits

/-- `n` token entries of 4 bytes from an offset; none where one is out of range or has a reserved bit set. -/
def State.parseTokens (s : State) (bs : List Byte) (off : Nat) : Nat → Option (List Nat)
  | 0 => some []
  | n + 1 =>
    let t := field bs off 4
    if decide (t < 2 ^ 21) && decide (t < s.tokenLimit) then (State.parseTokens s bs (off + 4) n).map (t :: ·) else none

/-- `n` adjustment entries of 8 bytes, ascending by token from `lo` on. -/
def State.parseBias (s : State) (bs : List Byte) (off lo : Nat) : Nat → Option (List (Nat × Int))
  | 0 => some []
  | n + 1 =>
    let t := field bs (off + 4) 4
    if decide (t < 2 ^ 21) && decide (t < s.tokenLimit) && decide (lo ≤ t) then
      (State.parseBias s bs (off + 8) (t + 1) n).map ((t, s32 (field bs off 4)) :: ·)
    else none

/-- One stop sequence in the layout of the stop area: valid entries first, then zero entries. -/
def State.parseStop (s : State) (bs : List Byte) (off : Nat) : Option (List Nat) :=
  let es := (List.range 16).map fun i => field bs (off + 4 * i) 4
  let toks := (es.takeWhile fun e => decide (2 ^ 31 ≤ e)).map (· - 2 ^ 31)
  if !toks.isEmpty && ((es.drop toks.length).all (· == 0)) && (toks.all fun t => decide (t < 2 ^ 21) && decide (t < s.tokenLimit))
  then some toks else none

/-- `n` stop sequences of 64 bytes. -/
def State.parseStops (s : State) (bs : List Byte) (off : Nat) : Nat → Option (List (List Nat))
  | 0 => some []
  | n + 1 => do return (← s.parseStop bs off) :: (← State.parseStops s bs (off + 64) n)

/-- The sampling block that 64 bytes hold. -/
def parseSampling (bs : List Byte) : Sampling :=
  { method := field bs 0 1, logprobs := field bs 1 1, k := field bs 2 2, topP := field bs 4 2, minP := field bs 6 2
    scale := field bs 8 4, stopSeqs := field bs 13 1, aid := field bs 14 2
    stopTokens := (List.range (min 16 (field bs 12 1))).map fun i => field bs (16 + 3 * i) 3 }

/-- The gallery holds a complete finding aid of a number (R272). -/
def State.aidComplete (s : State) (g n : Nat) : Bool :=
  match SMap.find (s.galAt g).aids n with
  | none => false
  | some a => a.complete && !a.removed

/-- A sampling block of a kind that R256 refuses with BAD_PARAM. -/
def State.samplingBad (s : State) (g kind : Nat) (bs : List Byte) : Bool :=
  let b := parseSampling bs
  if kind ≠ 0 then !allZero bs
  else
    decide (2 < b.method)
      || (decide (b.method ≠ 2) && (decide (b.k ≠ 0) || decide (b.topP ≠ 0) || decide (b.minP ≠ 0)))
      || (decide (b.method = 2) && decide (b.k = 0))
      || (decide (b.method = 1) && decide (1 < b.logprobs))
      || decide (b.scale = 0) || decide (2 ^ 22 ≤ b.scale)
      || decide (16 < field bs 12 1)
      || (b.stopTokens.any fun t => decide (2 ^ 21 ≤ t) || decide (s.tokenLimit ≤ t))
      || !allZero (bs.drop (16 + 3 * b.stopTokens.length))
      || (decide (b.aid ≠ 0) && !s.aidComplete g b.aid)

/-- Bits of IDN_CAP_METHODS that a block requires (R256). -/
def methodsNeeded (b : Sampling) (speculative : Bool) : Nat :=
  (if b.method = 0 then 1 else if b.method = 1 then 2
    else 4 + (if b.topP ≠ 0 then 8 else 0) + if b.minP ≠ 0 then 16 else 0) + if speculative then 32 else 0

/-- R39 against one part's figures, for a request of kind 0. -/
def servable (c : Caps) (b : Sampling) (speculative : Bool) : Bool :=
  decide (Nat.land c.methods (methodsNeeded b speculative) = methodsNeeded b speculative)
    && decide (mergeDepth b ≤ c.largestK) && decide (b.logprobs ≤ c.logprobs) && decide (b.stopSeqs ≤ c.stopSeqs)

/-- R39: on a paired part, against the figures of both members. -/
def State.methodOk (s : State) (kind : Nat) (b : Sampling) (speculative : Bool) : Bool :=
  decide (kind ≠ 0) || (servable s.kpr.caps b speculative
    && match s.pair.partner with
      | some h => !s.pairKnown || servable h.caps b speculative
      | none => true)

/-! ## What admission asks (R161) -/

/-- The figures of a request under test. Deadlines are µs from now, 0 for none. -/
structure Ask where
  gallery : Nat := 0
  cls : Nat := 0
  kind : Nat := 0
  build : W64 := 0
  sampling : Sampling := {}
  itl : Nat := 0
  ttft : Int := 0
  completion : Int := 0
  maxTokens : Nat := 0
  /-- PROMPT_TOKENS (R114). -/
  bound : Nat := 0
  /-- Prompt tokens that prefill owes. -/
  owed : Nat := 0
  /-- The request's own accession number where AMEND asks (R168). -/
  self : Option Nat := none
deriving DecidableEq, Repr

/-- The request is not the one that asks, and is not adopted (R369). -/
def Ask.other (a : Ask) (r : Req) : Bool := decide (a.self ≠ some r.acc) && !r.adopted

/-- Allowed shapes of a wing that serve the request. -/
def State.askShapes (s : State) (w : Nat) (a : Ask) : List CatEntry :=
  (s.allowed w).filter (s.serves w a.gallery a.build a.kind a.sampling)

/-- Own total need in pages (R148): of the build's page figures, which all its shapes share. -/
def State.askNeed (s : State) (w : Nat) (a : Ask) : Nat :=
  maxOf ((s.askShapes w a).map fun e => pagesFor e (a.bound + a.maxTokens))

/-- The gallery's block in force on a wing (R110). -/
def State.askBudget (s : State) (w : Nat) (a : Ask) : Budget := nth (s.galAt a.gallery).wingBudget w {}

/-- Free reserved slots of the gallery on a wing (R151). -/
def State.freeReserved (s : State) (w : Nat) (a : Ask) : Int :=
  ((nth (s.askBudget w a).reserved w 0 : Nat) : Int)
    - (s.liveReqs.filter fun r => decide (r.wing = w) && decide (r.gallery = a.gallery) && decide (r.cls = 0) && a.other r).length

/-- Pages that Reserved requests reserve on a wing (R162). -/
def State.reservedPages (s : State) (w : Nat) (a : Ask) : Nat :=
  sumOf ((s.liveReqs.filter fun r => decide (r.wing = w) && decide (r.cls = 0) && a.other r).map (·.need))

/-- Free rows of the shared pool (R163). -/
def State.freePool (s : State) (w : Nat) (a : Ask) : Int :=
  (s.rowCeiling w : Int) - s.reservedInForce w - ((s.wingLive w).filter fun r => decide (r.cls = 1) && a.other r).length

/-- The gallery's effective wing set and a submit mask (R153). -/
def State.wingSet (s : State) (g mask : Nat) : List Nat :=
  let policy := (s.galAt g).policy
  s.servedWings.filter fun w =>
    (decide (policy % 16 = 0) || bit policy w) && (!bit policy 4 || (s.wingAt w).composePolicy.fixed)
      && (decide (mask % 16 = 0) || bit mask w)

/-! ## Prefill feasibility (R165, R166) -/

/-- Signed µs from now to a 40-bit deadline; at or below 0 once it has passed (R70). -/
def fromNow (now d : Nat) : Int :=
  let a := ahead now d
  if a < 2 ^ 39 then (a : Int) else (a : Int) - 2 ^ 40

/-- Prompt positions that a request's chunks must cover (R165). -/
def prefillLength (kind l : Nat) : Nat := if kind = 0 then l - 1 else l

/-- Prompt tokens a live request still owes. -/
def reqOwed (r : Req) : Nat := if r.reprefill then 0 else prefillLength r.kind r.prompt.length - r.covered

/-- µs that the commits after the first record take: the part of the completion deadline that is not prefill (R166). -/
def decodeUs (kind maxTokens p : Nat) : Nat :=
  if kind = 0 then (maxTokens - 1) * p else if kind = 2 then maxTokens * p else 0

/-- Prefill deadline of a live request, µs from now (R165). -/
def State.prefillDeadline (s : State) (r : Req) (p : Nat) : Option Int :=
  match r.ttft with
  | some d => some (fromNow s.nowUs d)
  | none => r.completion.map fun d => fromNow s.nowUs ((d + 2 ^ 40 - decodeUs r.kind r.maxTokens p % 2 ^ 40) % 2 ^ 40)

/-- Live requests of the wing that owe prompt tokens against a deadline: (µs left, slot, owed). -/
def State.prefillList (s : State) (w : Nat) (a : Ask) (p : Nat) : List (Int × Nat × Nat) :=
  (s.wingLive w).filterMap fun r =>
    if decide (r.cls ≤ 1) && decide (a.self ≠ some r.acc) && decide (0 < reqOwed r) then
      (s.prefillDeadline r p).map fun d => (d, slotOf r.acc, reqOwed r)
    else none

/-- CH_w and LEN_w of allowed shapes; none where no shape has chunk slots. -/
def chunkFigures (es : List CatEntry) : Option (Nat × Nat) :=
  match minOf ((es.filter fun e => decide (e.chunkSlots ≠ 0)).map (·.chunkSlots)),
        minOf ((es.filter fun e => decide (e.chunkSlots ≠ 0)).map (·.chunkLen)) with
  | some ch, some len => some (ch, len)
  | _, _ => none

/-- An entry of the sorted list: µs left, new, slot, owed. -/
abbrev Due := Int × Bool × Nat × Nat

/-- Order of R165: deadline, existing before new, slot. -/
def Due.before (x y : Due) : Bool :=
  decide (x.1 < y.1) || (decide (x.1 = y.1) && ((!x.2.1 && y.2.1) || (x.2.1 == y.2.1 && decide (x.2.2.1 < y.2.2.1))))

/-- The pseudocode of R165 over a sorted list: whether every entry passes, and the bound of the new one. -/
def feasible (p t : Nat) (fig : Option (Nat × Nat)) : Nat → List Due → Bool × Option Nat
  | _, [] => (true, none)
  | cum, (d, new, _, owed) :: rest =>
    let cum' := cum + (match fig with
      | some (_, len) => ceilDiv owed (max 1 len)
      | none => 0)
    let steps := match fig with
      | some (ch, _) => ceilDiv cum' (max 1 ch)
      | none => 0
    let bound := (steps + 2) * p + t
    let r := feasible p t fig cum' rest
    (r.1 && ((!new && decide (d ≤ 0)) || decide ((bound : Int) ≤ d)), if new then some bound else r.2)

/-- The entry of the request under test: an amended one stands among the existing (R168); none where it has no prefill deadline, or owes nothing. -/
def selfDue (self : Option Nat) (d : Option Int) (owed : Nat) : List Due :=
  match self, d with
  | _, none => []
  | some acc, some d => if owed = 0 then [] else [(d, false, slotOf acc, owed)]
  | none, some d => [(d, true, 0, owed)]

/-- R165 with the new request at a deadline. -/
def prefillTest (p t : Nat) (fig : Option (Nat × Nat)) (ex : List (Int × Nat × Nat)) (d : Int) (owed : Nat) : Bool × Nat :=
  let all := sortBy Due.before ((d, true, 0, owed) :: ex.map fun e => (e.1, false, e.2.1, e.2.2))
  let r := feasible p t fig 0 all
  (r.1, r.2.getD (2 * p + t))

/-- The least deadline at which a test on (deadline, bound) passes: each place of the sorted list has one bound, and within it the least is the larger of the place's start and the bound. -/
def leastDeadline (p t : Nat) (fig : Option (Nat × Nat)) (ex : List (Int × Nat × Nat)) (owed : Nat) (needAll : Bool) : Option Nat :=
  let starts : List Nat := 1 :: (ex.filterMap fun (e : Int × Nat × Nat) => if 0 < e.1 then some e.1.toNat else none)
  minOf (starts.filterMap fun (lo : Nat) =>
    let b := (prefillTest p t fig ex (lo : Int) owed).2
    let c : Nat := max lo b
    let r := prefillTest p t fig ex (c : Int) owed
    if decide (r.2 ≤ c) && (!needAll || r.1) then some c else (none : Option Nat))

/-- The figures of tests 9 to 11 on a wing. -/
structure Figures where
  p : Nat
  t : Nat
  fig : Option (Nat × Nat)
  ex : List (Int × Nat × Nat)

/-- The figures of a wing for a request. -/
def State.figures (s : State) (w : Nat) (a : Ask) : Figures :=
  { p := s.pwUs w, t := s.tUs, fig := chunkFigures (s.allowed w), ex := s.prefillList w a (s.pwUs w) }

/-- Prefill deadline of the request under test, µs from now; none where it has none. -/
def Ask.prefillAt (a : Ask) (p : Nat) : Option Int :=
  if a.ttft ≠ 0 then some a.ttft
  else if a.completion ≠ 0 then some (a.completion - (decodeUs a.kind a.maxTokens p : Int))
  else none

/-- REQUIRED_US of a value that may exceed its field. -/
def capUs (n : Option Nat) : Nat :=
  match n with
  | none => 0
  | some v => if v < 2 ^ 32 then v else 0xFFFFFFFF

/-! ## The admission tests (R161) -/

/-- A wing is a candidate (test 2); a yielded member has none (R341). -/
def State.candidate (s : State) (w : Nat) (a : Ask) : Bool :=
  let es := s.askShapes w a
  !es.isEmpty && !s.kpr.catMissing.getLsbD w
    && (decide (a.bound = 0) || es.any fun e => decide (e.chunkSlots ≠ 0))
    && decide (a.bound ≤ (s.site w).promptBytes / 4)
    && !(decide (a.cls = 0) && (s.wingLive w).any fun r => decide (r.cls = 0) && decide (r.modelBuild ≠ a.build) && decide (a.self ≠ some r.acc))
    && !((s.wingAt w).paired && (s.wingAt w).composePolicy.standby) && s.pair.state != .yielded

/-- Test n of R161 on a wing: none where it passes, else REQUIRED_US. -/
def State.admitTest (s : State) (n w : Nat) (a : Ask) : Option Nat :=
  let fail := fun (b : Bool) => if b then some 0 else none
  let f := s.figures w a
  match n with
  | 2 => fail (!s.candidate w a)
  | 3 => fail (decide (a.cls ≠ 2) && s.throttled)
  | 4 => fail (decide ((s.galAt a.gallery).budget.concurrency ≤ s.liveOf a.gallery - b2n a.self.isSome))
  | 5 => fail (decide ((s.askBudget w a).loanQuota < s.askNeed w a) || decide (4096 < s.askNeed w a))
  | 6 => fail (decide (a.cls = 0) && decide (s.freeReserved w a ≤ 0))
  | 7 => fail (decide (a.cls = 0) && decide ((s.site w).pages < s.reservedPages w a + s.askNeed w a))
  | 8 => fail (decide (a.cls = 1) && decide (s.freePool w a ≤ 0))
  | 9 =>
    if a.cls = 2 ∨ (a.cls = 1 ∧ a.itl = 0) ∨ 2 * f.p + f.t ≤ a.itl then none
    else some (capUs (some (2 * f.p + f.t)))
  | 10 =>
    let all := sortBy Due.before (selfDue a.self (a.prefillAt f.p) a.owed ++ f.ex.map fun e => (e.1, false, e.2.1, e.2.2))
    if a.cls = 2 ∨ (feasible f.p f.t f.fig 0 all).1 then none
    else if (a.prefillAt f.p).isNone then some 0
    else some (capUs (leastDeadline f.p f.t f.fig f.ex a.owed true))
  | 11 =>
    if a.cls = 2 ∨ a.completion = 0 then none
    else
      let rest := decodeUs a.kind a.maxTokens f.p
      let b := (prefillTest f.p f.t f.fig f.ex ((a.prefillAt f.p).getD 0) a.owed).2
      if ((b + rest : Nat) : Int) ≤ a.completion then none
      else if a.ttft ≠ 0 then some (capUs (some (b + rest)))
      else some (capUs ((leastDeadline f.p f.t f.fig f.ex a.owed false).map (· + rest)))
  | _ => none

/-- Status and diagnostic reason of each test. -/
def admitStatus : Nat → Nat × Nat
  | 2 => (stInfeasible, 0x05)
  | 3 => (stInfeasible, 0x06)
  | 4 => (stOverBudget, 0x08)
  | 5 => (stOverBudget, 0x09)
  | 6 => (stInfeasible, 0x03)
  | 7 => (stInfeasible, 0x0B)
  | 8 => (stInfeasible, 0x04)
  | 9 => (stInfeasible, 0x01)
  | 10 => (stInfeasible, 0x02)
  | _ => (stInfeasible, 0x07)

/-- What admission finds: the wings that pass every test, or the failing test with the wing it describes and REQUIRED_US. -/
inductive Admission where
  | pass (wings : List Nat)
  | fail (test wing required : Nat)
deriving DecidableEq, Repr

/-- The wing that came closest: smallest REQUIRED_US, then lowest number (R169). -/
def closest (res : List (Nat × Nat)) : Nat × Nat :=
  ((sortBy (fun x y => decide (x.2 < y.2) || (decide (x.2 = y.2) && decide (x.1 < y.1))) res).head?).getD (255, 0)

/-- The tests in order over the wings that remain. -/
def State.admission (s : State) (a : Ask) : List Nat → List Nat → Admission
  | [], ws => .pass ws
  | n :: ns, ws =>
    let ok := ws.filter fun w => (s.admitTest n w a).isNone
    if ok.isEmpty then
      let c := closest (ws.map fun w => (w, (s.admitTest n w a).getD 0))
      .fail n (if n = 2 then 255 else c.1) c.2
    else State.admission s a ns ok

/-- Tests 2 to 11. -/
def admitOrder : List Nat := [2, 3, 4, 5, 6, 7, 8, 9, 10, 11]

/-- Free rows of the request's class on a wing (R161). -/
def State.freeRows (s : State) (w : Nat) (a : Ask) : Int :=
  if a.cls = 0 then s.freeReserved w a
  else if a.cls = 1 then s.freePool w a
  else (s.rowCeiling w : Int) - ((s.wingLive w).filter a.other).length

/-- The wing chosen among those that pass (R161). -/
def State.chooseWing (s : State) (a : Ask) (ws : List Nat) : Nat :=
  ((sortBy (fun x y => decide (s.freeRows y a < s.freeRows x a) || (decide (s.freeRows x a = s.freeRows y a) && decide (x < y))) ws).head?).getD 0

/-- The diagnostic block (R169). -/
def State.diagnostic (s : State) (a : Ask) (reason w required : Nat) : List Byte :=
  let real := decide (w < 4)
  let free := if reason = 0x09 then (s.askBudget w a).loanQuota - s.loans a.gallery
    else if reason = 0x0B then (s.site w).pages - s.reservedPages w a else 0
  ofLe 1 reason ++ ofLe 1 w ++ ofLe 1 a.cls ++ ofLe 1 0 ++ ofLe 4 required ++ ofLe 4 (if real then s.pwUs w else 0)
    ++ ofLe 2 (if real then (s.freeReserved w a).toNat else 0) ++ ofLe 2 (if real then (s.freePool w a).toNat else 0)
    ++ ofLe 4 (s.liveOf a.gallery) ++ ofLe 4 (if real then s.askNeed w a else 0) ++ ofLe 4 free ++ ofLe 4 0

/-- The lowest-numbered free slot below a limit (R15). -/
def firstFree (used : List Nat) (limit : Nat) : Nat → Nat → Option Nat
  | 0, _ => none
  | n + 1, k => if limit ≤ k then none else if used.contains k then firstFree used limit n (k + 1) else some k

/-- The free own-half slot that accession takes (R15, R27, R450). -/
def State.freeSlotNo (s : State) : Option Nat :=
  let used := (s.liveReqs.filter fun r => !r.adopted).map fun r => slotOf r.acc
  firstFree used s.ownLimit (used.length + 1) 0

end Sys2Proof.Machine
end

