-- ==== Sys2Proof/Machine/Accession.lean ====
section
/-! DEFINITION. The request commands and the deadlines (01 R15, R16, R20, R23; 04 R72; 05 R109 to R114; 08 R161 to R172): SUBMIT, CANCEL, AMEND, QUERY, DRAFT, DEADLINE_FIRED, FAR_LIST_SCAN, POWER_CAP. -/

namespace Sys2Proof.Machine

open Sys2Proof.Bytes

/-! ## SUBMIT (R112 to R114, R161, R330) -/

/-- Layout of the submit block and the envelope (R112, R113). -/
def submitLayout : Layout :=
  { lenOk := fun pl => decide (64 ≤ pl.length) && decide (pl.length = 64 + 16 * ceilDiv (field pl 36 4) 16)
    reserved := [(40, 8)], masks := [(14, 0xF0), (15, 0xFC)]
    padOk := fun pl => allZero ((pl.take (pl.length - 16)).drop (48 + field pl 36 4))
    params := fun _ pl =>
      let kind := field pl 12 1
      badParamIf (!nonceOk (slice pl 0 12) || decide (2 < kind) || decide (2 < field pl 13 1)
        || (decide (field pl 13 1 = 0) && decide (field pl 28 4 = 0))
        || (decide (kind = 1) && decide (field pl 20 4 ≠ 0))
        || (bit (field pl 15 1) 1 && decide (kind ≠ 0))
        || (decide (kind ≠ 1) && decide (field pl 20 4 = 0))
        || (decide (kind ≠ 2) && decide (field pl 16 4 = 0))) }

/-- The envelope of SUBMIT (R112). -/
def submitEnvelope (pl : List Byte) : Envelope :=
  { nonce := slice pl 0 12, aad := slice pl 0 48, ct := (pl.drop 48).take (field pl 36 4)
    tag := slice pl (pl.length - 16) 16 }

/-- A SUBMIT plaintext read and checked (R114, R256, R329, R330): the request it describes, without its place. -/
def State.parseSubmit (s : State) (g : Nat) (block pt : List Byte) : Option Req :=
  match openBody pt with
  | none => none
  | some b =>
    let kind := field block 12 1
    let sb := slice b 48 64
    let smp := parseSampling sb
    let seqs := smp.stopSeqs
    let biases := field b 132 2
    let l := field b 112 4
    let bound := field block 16 4
    if b.length ≠ 144 + 64 * seqs + 8 * biases + 4 * l ∨ !allZero (slice b 4 4) ∨ !allZero (slice b 134 10)
      ∨ s.samplingBad g kind sb ∨ 1024 < biases ∨ bound < l ∨ (l ≠ bound ∧ !bit (field block 15 1) 0)
      ∨ (kind ≠ 2 ∧ l = 0)
      ∨ (kind ≠ 0 ∧ (field b 124 4 ≠ 0 ∨ field b 128 4 ≠ 0 ∨ biases ≠ 0)) ∨ (kind = 2 ∧ field b 116 4 ≠ 0) then none
    else do
      let stops ← s.parseStops b 144 seqs
      let bias ← s.parseBias b (144 + 64 * seqs) 0 biases
      let prompt ← s.parseTokens b (144 + 64 * seqs + 8 * biases) l
      return { gallery := g, kind := kind, cls := field block 13 1, speculative := bit (field block 15 1) 1
               modelBuild := BitVec.ofNat 64 (field b 8 8), maxTokens := field block 20 4, itlUs := field block 28 4
               sampling := smp, stopSeqs := stops, presence := s32 (field b 124 4), frequency := s32 (field b 128 4)
               bias := bias, prompt := prompt, bound := bound, shareSource := field b 116 4, shareLimit := field b 120 4 }

/-- Positions at which two lists agree from the start. -/
def commonLength : List Nat → List Nat → Nat
  | x :: xs, y :: ys => if x = y then 1 + commonLength xs ys else 0
  | _, _ => 0

/-- What prefix sharing may reach, compared at accession (R219): 0 where the source is no live request of the gallery, or of another wing or build. -/
def State.shareReach (s : State) (r : Req) : Nat :=
  match s.req? r.shareSource with
  | none => 0
  | some q =>
    if decide (q.gallery = r.gallery) && decide (q.wing = r.wing) && decide (q.kind ≠ 2) && decide (q.modelBuild = r.modelBuild) then
      min r.shareLimit (commonLength q.prompt r.prompt)
    else 0

/-- Bursts of 64 bytes written to stack memory from an address on, under a key slot. -/
def State.smpArea (s : State) (w base slot : Nat) (use : SmpUse) (bs : List Byte) : State :=
  (List.range (ceilDiv bs.length 64)).foldl (fun t i =>
    t.smpSend { wing := w, op := 1, addr := base + 64 * i, keySlot := slot, data := slice bs (64 * i) 64, use := use }) s

/-- Address of a half of the adjustment area of a slot (R220). -/
def State.adjAddr (s : State) (w slot half : Nat) : Nat := (s.site w).adjBase + slot * 16512 + half * 8256

/-- What accession writes into stack memory: prompt copy, stop area, adjustment half 0 (R214, R215, R222, R271). -/
def State.writeAreas (s : State) (r : Req) : State :=
  let site := s.site r.wing
  let n := slotOf r.acc
  let s1 := s.smpArea r.wing (site.promptBase + n * site.promptBytes) r.gallery (.setup r.acc) (r.prompt.flatMap fun t => ofLe 4 t)
  let s2 := s1.smpArea r.wing (site.stopBase + n * 512) r.gallery (.setup r.acc)
    (stopArea r)
  s2.smpArea r.wing (s.adjAddr r.wing n 0) r.gallery (.setup r.acc) (adjustArea r)

/-- A 40-bit Basam time some µs ahead; none for 0 (R113). -/
def State.deadlineAt (s : State) (us : Nat) : Option Nat := if us = 0 then none else some ((s.nowUs + us) % 2 ^ 40)

/-- Start word of a request's finding aid on a wing (R275). -/
def State.startWord (s : State) (g aid w : Nat) : W64 :=
  if aid = 0 then 0 else nth ((SMap.getD (s.galAt g).aids aid {}).startWord) w 0

/-- The request accessioned into a slot of a wing (R15, R16, R113, R283). -/
def State.accession (s : State) (r : Req) (slot w ttft completion ctr : Nat) (seed : List Byte) (need : Nat) : State × Nat :=
  let gen := (SMap.getD s.reg.gens slot 0 + 1) % 2 ^ 15
  let acc := slot + gen * 2 ^ 16 + s.side * 2 ^ 31
  let gal := s.galAt r.gallery
  let r0 := { r with acc := acc, wing := w }
  let r1 := { r0 with
    submitCtr := ctr, key := requestKey (secretOf r.gallery gal) seed acc
    ttft := s.deadlineAt ttft, completion := s.deadlineAt completion
    shareLimit := s.shareReach r0, need := need, aidWord := s.startWord r.gallery r.sampling.aid w }
  let s1 := { s with reg := { s.reg with
    reqs := SMap.put s.reg.reqs acc r1
    gens := SMap.put s.reg.gens slot gen
    tags := SMap.put s.reg.tags slot (SlotTag.mk acc 0 ctr r.gallery) } }
  let s2 := s1.updGal r.gallery fun x => { x with counts := { x.counts with accessioned := x.counts.accessioned + 1 } }
  let s3 := ((s2.writeAreas r1).armWheel acc).count 5 1 1
  (s3.mirrorAccession acc, acc)

/-- A refusal of SUBMIT by admission: event, counter, diagnostic block (R169, R407). -/
def State.submitRefused (s : State) (g status reason : Nat) (data : List Byte) : Done :=
  let idx := if status = stInfeasible then 2 else if status = stNoRecord then 3 else if status = stOverBudget then 4 else 5
  { state := (s.event 1 0x58 noWing (status + reason * 256) g).count 5 idx 1, status := status, data := data }

/-- What the reply to a SUBMIT waits for (R354): on a member in JOINING until the request is covered, or the join fails or finds its wing unpaired. -/
def State.submitWaits (s : State) (acc w : Nat) : Option Waits :=
  if s.pair.state == .joining && (!s.pair.session || (s.wingAt w).paired) then some { cover := some acc, acc := some acc }
  else if s.pair.state == .paired && s.pair.session && (s.wingAt w).paired then some { fence := s.fenceNow, acc := some acc }
  else none

/-- The effect of SUBMIT behind checks 1 to 8. -/
def submitBody (c : Cmd) (o : Opened) (s : State) : Done :=
  let blk := slice c.payload 0 48
  let g := c.gallery
  match s.parseSubmit g blk o.plain with
  | none => .refuse s stBadParam
  | some r =>
    let bound := field blk 16 4
    let a : Ask := { gallery := g, cls := r.cls, kind := r.kind, build := r.modelBuild, sampling := r.sampling, itl := r.itlUs
                     ttft := field blk 24 4, completion := field blk 32 4, maxTokens := r.maxTokens
                     bound := bound, owed := prefillLength r.kind bound }
    if !s.methodOk r.kind r.sampling r.speculative then s.submitRefused g stMethodUnsupported 0 []
    else match s.admission a admitOrder (s.wingSet g (field blk 14 1)) with
      | .fail n w us =>
        let st := admitStatus n
        s.submitRefused g st.1 st.2 (s.diagnostic a st.2 w us)
      | .pass ws =>
        let w := s.chooseWing a ws
        match s.freeSlotNo with
        | none => s.submitRefused g stNoRecord 0x0A (s.diagnostic a 0x0A (closest (ws.map fun w => (w, 0))).1 0)
        | some slot =>
          let r' := s.accession r slot w (field blk 24 4) (field blk 32 4) o.ctr (slice o.plain 16 32) (s.askNeed w a)
          { state := r'.1, data := ofLe 4 r'.2 ++ ofLe 1 0 ++ ofLe 1 w ++ ofLe 10 0, waits := r'.1.submitWaits r'.2 w }

/-- SUBMIT (R161). -/
def execSubmit (ring : Fin 8) (s : State) : Host.Outcome State Fault Refusal :=
  .next ((sealedCommand 0x20 submitLayout submitEnvelope (fun _ => true) submitBody ring s).tellCounter s (s.headerAt ring.val).gallery)

/-! ## CANCEL, QUERY (R16, R20, R23, R111) -/

/-- The live request of a gallery that an accession number names. -/
def State.named (s : State) (g acc : Nat) : Option Req := (s.req? acc).filter fun r => decide (r.gallery = g)

/-- CANCEL (R23, R111). -/
def execCancel (ring : Fin 8) (s : State) : Host.Outcome State Fault Refusal :=
  .next (clearCommand 0x21 (layout 16 [(4, 12)] fun _ _ => none) (fun c s =>
    let acc := field c.payload 0 4
    match s.named c.gallery acc with
    | none => .refuse s stNoRequest
    | some r =>
      let s1 := s.askDeaccession acc 4
      let st := ((s1.req? acc).map fun q => stateCode q.state).getD 5
      { state := s1, data := ofLe 4 st ++ ofLe 4 (reqCommitted r) ++ ofLe 8 0 }) ring s)

/-- QUERY (R20, R109). -/
def execQuery (ring : Fin 8) (s : State) : Host.Outcome State Fault Refusal :=
  .next (clearCommand 0x23 (layout 16 [(4, 12)] fun _ _ => none) (fun c s =>
    match s.named c.gallery (field c.payload 0 4) with
    | none => .refuse s stNoRequest
    | some r =>
      { state := s
        data := ofLe 1 (stateCode r.state) ++ ofLe 1 r.cls ++ ofLe 1 r.kind ++ ofLe 1 r.wing ++ ofLe 4 (reqCommitted r)
          ++ ofLe 4 r.nextSeq ++ ofLe 1 (min 255 (s.heldCount r.acc)) ++ ofLe 1 r.reason ++ ofLe 2 0
          ++ ofLe 4 (reqLoans r) ++ ofLe 12 0 }) ring s)

/-! ## AMEND (R168, R256, R330) -/

/-- The fields of an AMEND plaintext, checked for form; none where it is refused with BAD_PARAM. -/
def amendForm (b : List Byte) : Bool :=
  let f := field b 4 1
  let off := fun (i lo n : Nat) => bit f i || allZero (slice b lo n)
  decide (104 ≤ b.length) && decide (b.length = 104 + 8 * field b 96 2) && decide (f < 32) && allZero (slice b 6 2)
    && allZero (slice b 98 6) && decide (field b 96 2 ≤ 1024) && off 0 5 1 && off 1 8 12 && off 2 20 4 && off 3 24 64 && off 4 88 10

/-- The request as an AMEND leaves it, with the relative deadlines its tests use; none where R113, R256 or R330 refuses a value. -/
def State.amended (s : State) (r : Req) (b : List Byte) : Option Req :=
  let f := field b 4 1
  let cls := if bit f 0 then field b 5 1 else r.cls
  let itl := if bit f 1 then field b 12 4 else r.itlUs
  let mx := if bit f 2 then field b 20 4 else r.maxTokens
  let sb := slice b 24 64
  let smp := if bit f 3 then parseSampling sb else r.sampling
  if 2 < cls ∨ (cls = 0 ∧ itl = 0) ∨ (r.kind ≠ 1 ∧ mx = 0) ∨ (r.kind = 1 ∧ mx ≠ 0)
    ∨ (bit f 3 ∧ (s.samplingBad r.gallery r.kind sb ∨ smp.aid ≠ r.sampling.aid ∨ smp.stopSeqs ≠ r.sampling.stopSeqs))
    ∨ (bit f 4 ∧ r.kind ≠ 0 ∧ (field b 88 4 ≠ 0 ∨ field b 92 4 ≠ 0 ∨ field b 96 2 ≠ 0)) then none
  else
    match s.parseBias b 104 0 (field b 96 2) with
    | none => none
    | some bias =>
      let r1 := { r with cls := cls, itlUs := itl, maxTokens := mx, sampling := smp }
      let r2 := if bit f 1 then { r1 with
        ttft := s.deadlineAt (field b 8 4), completion := s.deadlineAt (field b 16 4)
        itlNext := if itl = 0 then none else r.itlNext } else r1
      some (if bit f 4 then { r2 with
        presence := s32 (field b 88 4), frequency := s32 (field b 92 4), bias := bias, adjDirty := true } else r2)

/-- The figures of an amended request for tests 4 to 11. -/
def State.amendAsk (s : State) (q : Req) (bound : Nat) : Ask :=
  let rel := fun (d : Option Nat) => (d.map (fromNow s.nowUs)).getD 0
  { gallery := q.gallery, cls := q.cls, kind := q.kind, build := q.modelBuild, sampling := q.sampling, itl := q.itlUs
    ttft := rel q.ttft, completion := rel q.completion, maxTokens := q.maxTokens, bound := bound
    owed := reqOwed q, self := some q.acc }

/-- The effect of AMEND. Its deadlines are in force at once, the sampling block and MAX_TOKENS from the next compose point (DEDUCED, log entry 117). -/
def amendBody (c : Cmd) (o : Opened) (s : State) : Done :=
  match s.named c.gallery o.target with
  | none => .refuse s stNoRequest
  | some r =>
    if r.state == .deaccessioned then { state := s }
    else match openBody o.plain with
      | none => .refuse s stBadParam
      | some b =>
        if !amendForm b then .refuse s stBadParam
        else match s.amended r b with
          | none => .refuse s stBadParam
          | some q =>
            let f := field b 4 1
            let a := s.amendAsk q r.bound
            if bit f 3 && !s.methodOk q.kind q.sampling q.speculative then .refuse s stMethodUnsupported
            else if decide (f % 8 ≠ 0) && decide (s.admission a [4, 5, 6, 7, 8, 9, 10, 11] [r.wing] ≠ .pass [r.wing]) then
              .refuse s stInfeasible
            else
              let q1 := if bit f 2 then { q with need := s.askNeed r.wing a } else q
              { state := ((s.updReq r.acc fun _ => q1).armWheel r.acc).mirrorEvent r.acc .change }

/-- AMEND (R168). -/
def execAmend (ring : Fin 8) (s : State) : Host.Outcome State Fault Refusal :=
  .next ((sealedCommand 0x22 sealedLayout plainEnvelope (fun _ => true) amendBody ring s).tellCounter s (s.headerAt ring.val).gallery)

/-! ## DRAFT (R211, R330) -/

/-- The effect of DRAFT: every draft held is replaced; tokens below the commit position are dropped. -/
def draftBody (c : Cmd) (o : Opened) (s : State) : Done :=
  match s.named c.gallery o.target with
  | none => .refuse s stNoRequest
  | some r =>
    if r.state == .deaccessioned then { state := s }
    else if !r.speculative then .refuse s stBadParam
    else match openBody o.plain with
      | none => .refuse s stBadParam
      | some b =>
        let n := field b 8 1
        let at_ := field b 4 4
        if b.length < 16 ∨ n = 0 ∨ 64 < n ∨ b.length ≠ 16 + 4 * n ∨ !allZero (slice b 9 7) then .refuse s stBadParam
        else match s.parseTokens b 16 n with
          | none => .refuse s stBadParam
          | some ts =>
            let gone := reqPosition r - at_
            { state := (s.updReq r.acc fun x => { x with drafts := ts.drop gone, draftFirst := at_ + gone }).mirrorEvent r.acc .change }

/-- DRAFT (R211). -/
def execDraft (ring : Fin 8) (s : State) : Host.Outcome State Fault Refusal :=
  .next ((sealedCommand 0x24 sealedLayout plainEnvelope (fun _ => true) draftBody ring s).tellCounter s (s.headerAt ring.val).gallery)

/-! ## The deadline wheel (R72, R171) -/

/-- The live own request of a slot. -/
def State.ownSlot (s : State) (slot : Nat) : Option Req :=
  s.liveReqs.find? fun r => !r.adopted && decide (slotOf r.acc = slot)

/-- The slot whose entry the wheel delivers next: of the entries outside the far list that have passed, the one with the earliest deadline, the lowest slot among equals (R72). -/
def State.nextFired (s : State) : Option Nat :=
  let ps := s.reg.wheel.filter fun e => !e.2.far && passed s.nowUs e.2.deadline && (s.ownSlot e.1).isSome
  (ps.foldl (fun (best : Option (Nat × WheelEntry)) e =>
    match best with
    | none => some e
    | some b => if passed b.2.deadline e.2.deadline && decide (b.2.deadline ≠ e.2.deadline) then some e
                else if b.2.deadline = e.2.deadline ∧ e.1 < b.1 then some e else some b) none).map (·.1)

/-- DEADLINE_FIRED (R72, R171): the slot's entry has passed and is the next in order; the wheel takes the next deadline, and a completion deadline that has passed ends the request, whichever of its deadlines the entry held. -/
def execDeadlineFired (slot : Nat) (s : State) : Host.Outcome State Fault Refusal :=
  match SMap.find s.reg.wheel slot, s.ownSlot slot with
  | some e, some r =>
    if s.nextFired = some slot && !e.far && passed s.nowUs e.deadline then
      let s1 := { s with reg := { s.reg with wheel := SMap.drop s.reg.wheel slot } }
      let s2 := (s1.armWheel r.acc).wake [.control]
      .next (if r.completion.any (fun d => passed s.nowUs d) then s2.askDeaccession r.acc 5 else s2)
    else .next s
  | _, _ => .next s

/-- FAR_LIST_SCAN (R72): once every 4,096 µs the entries no more than 4,095 µs ahead leave the far list. -/
def execFarListScan (s : State) : Host.Outcome State Fault Refusal :=
  if s.reg.farScan + 4096 ≤ s.nowUs then
    .next { s with reg := { s.reg with
      farScan := s.nowUs
      wheel := s.reg.wheel.map fun e =>
        (e.1, if passed s.nowUs e.2.deadline || decide (ahead s.nowUs e.2.deadline ≤ 4095) then { e.2 with far := false } else e.2) } }
  else .next s

/-! ## POWER_CAP (R172) -/

/-- POWER_CAP (R172): the cap that each wing's next compose point uses. -/
def execPowerCap (ring : Fin 8) (s : State) : Host.Outcome State Fault Refusal :=
  .next (clearCommand 0x34 (layout 16 [(6, 10)] fun _ _ => none) (fun c s =>
    let cap := field c.payload 0 4
    let eff := field c.payload 4 2
    let pkg := pPkg cap eff
    if cap ≠ 0 ∧ (pkg ≤ s.cfg.baseMw ∨ !s.capHolds (pkg - s.cfg.baseMw) s.allowed) then .refuse s stInfeasible
    else { state := { s with cap := { s.cap with capMw := cap, efficiency := eff } } }) ring s)

end Sys2Proof.Machine
end

