-- ==== Sys2Proof/Machine/Aids.lean ====
section
/-! DEFINITION. Finding aids: loading, layout, state words (12 R272 to R277; 15 R330): BEGIN, STATES, MASKS, TRANSITIONS, FINAL, FREE. -/

namespace Sys2Proof.Machine

open Sys2Proof.Bytes

/-! ## Room (R272, R273) -/

/-- All aids on a wing that hold room: (gallery, number, aid), removed ones not yet returned among them. -/
def State.aidsOn (s : State) (w : Nat) : List Aid :=
  s.galleries.flatMap fun g => if g.2.bound.contains w then g.2.aids.map (·.2) else []

/-- First-fit start of a range of `n` behind occupied ranges (start, length), from `lo` on and not past `hi`. Where Basam puts a range is not given: DESIGN CHOICE, log entry 14. -/
def firstFit (occ : List (Nat × Nat)) (n hi lo : Nat) : Option Nat :=
  let starts := lo :: occ.map fun o => o.1 + o.2
  minOf (starts.filter fun a => decide (lo ≤ a) && decide (a + n ≤ hi)
    && occ.all fun o => decide (o.2 = 0) || decide (a + n ≤ o.1) || decide (o.1 + o.2 ≤ a))

/-- Range of an aid's bursts in a wing's aid area. -/
def State.aidPlace (s : State) (w bursts : Nat) : Option Nat :=
  firstFit ((s.aidsOn w).map fun a => (nth a.base w 0, a.bursts)) bursts ((s.site w).aidBytes / 64) 0

/-- Range of an aid's global mask IDs on a wing, from 1 on. -/
def State.maskPlace (s : State) (w masks : Nat) : Option Nat :=
  firstFit ((s.aidsOn w).map fun a => (nth a.maskBase w 0, a.masks)) masks (s.site w).maskSlots 1

/-- Places on every wing of a binding set, in a list of four; none where some wing lacks room. -/
def placesOn (ws : List Nat) (place : Nat → Option Nat) : Option (List Nat) :=
  (List.range 4).foldr (fun w acc => do
    let rest ← acc
    let p ← if ws.contains w then place w else some 0
    return p :: rest) (some [])

/-! ## Layout (R274) -/

/-- Bucket of a token among 2^b. -/
def bucketOf (t b : Nat) : Nat := if b = 0 then 0 else (t * 0x9E3779B1 % 2 ^ 32) / 2 ^ (32 - b)

/-- Transitions of a state. -/
def Aid.transOf (a : Aid) (st : Nat) : List (Nat × Nat × Nat) := a.transItems.filter fun t => decide (t.1 = st)

/-- No bucket of 2^b receives more than four tokens. -/
def bucketsFit (b : Nat) (toks : List Nat) : Bool :=
  toks.all fun t => decide ((toks.filter fun u => decide (bucketOf u b = bucketOf t b)).length ≤ 4)

/-- The smallest B of a state. -/
def Aid.stateB (a : Aid) (st : Nat) : Option Nat :=
  (List.range 17).find? fun b => bucketsFit b ((a.transOf st).map fun t => t.2.1)

/-- Bursts of a state's bucket table: none for a state without transitions. -/
def Aid.stateBursts (a : Aid) (st : Nat) : Nat := if (a.transOf st).isEmpty then 0 else 2 ^ (a.stateB st).getD 0

/-- Every state can be laid out. -/
def Aid.layable (a : Aid) : Bool := (List.range a.states).all fun st => (a.stateB st).isSome

/-- Bursts of the whole aid. -/
def Aid.totalBursts (a : Aid) : Nat := sumOf ((List.range a.states).map a.stateBursts)

/-- Offset of a state's table from the aid's base. -/
def Aid.tableAt (a : Aid) (st : Nat) : Nat := sumOf ((List.range st).map a.stateBursts)

/-- A mask's bytes with the bits at and above VOCAB cleared. -/
def Aid.maskBytes (a : Aid) (i : Nat) : List Byte :=
  ((SMap.getD a.maskItems i []).zipIdx).map fun p => BitVec.ofNat 8 (p.1.toNat % 2 ^ (min 8 (a.vocab - 8 * p.2)))

/-- The state word of a state on a wing. -/
def Aid.word (a : Aid) (w st : Nat) : Nat :=
  let it := SMap.getD a.stateItems st (false, 0)
  let table := if (a.transOf st).isEmpty then 0xFFFFFFFF else a.tableAt st
  let empty := decide (it.2 ≠ 0) && allZero (a.maskBytes it.2)
  let mask := if it.2 = 0 then 0 else nth a.maskBase w 0 + it.2 - 1
  table * 2 ^ 32 + b2n it.1 * 2 ^ 31 + b2n empty * 2 ^ 30 + (a.stateB st).getD 0 * 2 ^ 25 + mask % 2 ^ 20

/-- A transition entry of 16 bytes on a wing. -/
def Aid.transBytes (a : Aid) (w : Nat) (t : Nat × Nat × Nat) : List Byte :=
  ofLe 4 (2 ^ 31 + t.2.1) ++ ofLe 4 0 ++ ofLe 8 (a.word w t.2.2)

/-- A state's bucket table. -/
def Aid.tableBytes (a : Aid) (w st : Nat) : List Byte :=
  (List.range (a.stateBursts st)).flatMap fun h =>
    slice (((a.transOf st).filter fun t => decide (bucketOf t.2.1 ((a.stateB st).getD 0) = h)).flatMap (a.transBytes w)) 0 64

/-- The aid written to a wing's stack memory (R273, R274). -/
def State.writeAid (s : State) (g n w : Nat) (a : Aid) : State :=
  let site := s.site w
  let s1 := s.smpArea w (site.aidBase + 64 * nth a.base w 0) g (.aid g n) ((List.range a.states).flatMap (a.tableBytes w))
  (List.range a.masks).foldl (fun t i =>
    t.smpArea w (site.maskBase + (nth a.maskBase w 0 + i) * site.maskStride) g (.aid g n) (slice (a.maskBytes (i + 1)) 0 site.maskStride)) s1

/-! ## Segments (R330) -/

/-- The segment that an opened plaintext holds (bytes from LENGTH on), for an aid of a given vocabulary; none where its layout is broken. -/
def parseSeg (b : List Byte) (vocab : Nat) : Option AidSeg :=
  let body := b.drop 8
  if b.length < 8 ∨ !allZero (slice b 5 3) then none
  else match field b 4 1 with
    | 1 => if b.length = 28 then some (.begin_ (field b 8 4) (field b 12 4) (field b 16 4) (field b 20 4) (field b 24 4)) else none
    | 2 =>
      let n := field b 12 4
      if b.length = 16 + 4 * n then
        let es := (List.range n).map fun i => field b (16 + 4 * i) 4
        if es.any fun e => decide (bits e 30 20 ≠ 0) then none
        else some (.states (field b 8 4) (es.map fun e => (bit e 31, e % 2 ^ 20)))
      else none
    | 3 =>
      let n := field b 12 4
      let len := ceilDiv vocab 8
      if b.length = 16 + len * n then
        some (.masks (field b 8 4) ((List.range n).map fun i => slice b (16 + len * i) len))
      else none
    | 4 =>
      let n := field b 8 4
      if b.length = 12 + 12 * n then
        some (.transitions ((List.range n).map fun i => (field b (12 + 12 * i) 4, field b (16 + 12 * i) 4, field b (20 + 12 * i) 4)))
      else none
    | 5 => if body.isEmpty then some .final else none
    | 6 => if body.isEmpty then some .free else none
    | _ => none

/-- BEGIN's limits (R272). -/
def State.beginOk (s : State) (ws : List Nat) (vocab states masks start : Nat) : Bool :=
  decide (vocab ≤ s.tokenLimit) && (ws.all fun w => decide (vocab ≤ 8 * (s.site w).maskStride))
    && decide (states ≤ 2 ^ 20) && decide (masks < 2 ^ 20) && decide (start < states)

/-- The lowest number of a gallery that no aid uses. -/
def Gallery.freeAid (g : Gallery) : Option Nat := ((List.range 255).map (· + 1)).find? fun n => (SMap.find g.aids n).isNone

/-- A segment that follows BEGIN fits the aid: each item exactly once and within the counts. -/
def Aid.accepts (a : Aid) (limit : Nat) : AidSeg → Bool
  | .states first items =>
    decide (first + items.length ≤ a.states) && items.all (fun i => decide (i.2 ≤ a.masks))
      && (List.range items.length).all fun i => (SMap.find a.stateItems (first + i)).isNone
  | .masks first items =>
    decide (1 ≤ first) && decide (first + items.length ≤ a.masks + 1)
      && (List.range items.length).all fun i => (SMap.find a.maskItems (first + i)).isNone
  | .transitions items =>
    let all := a.transItems ++ items
    decide (all.length ≤ a.transitions) && (items.all fun t => decide (t.1 < a.states) && decide (t.2.1 < limit) && decide (t.2.2 < a.states))
      && decide ((all.map fun t => (t.1, t.2.1)).Nodup)
  | .final =>
    decide (a.stateItems.length = a.states) && decide (a.maskItems.length = a.masks) && decide (a.transItems.length = a.transitions)
      && a.layable
  | _ => false

/-- The aid with a segment's items. -/
def Aid.add (a : Aid) : AidSeg → Aid
  | .states first items => { a with stateItems := items.zipIdx.foldl (fun m i => SMap.put m (first + i.2) i.1) a.stateItems }
  | .masks first items => { a with maskItems := items.zipIdx.foldl (fun m i => SMap.put m (first + i.2) i.1) a.maskItems }
  | .transitions items => { a with transItems := a.transItems ++ items }
  | _ => a

/-- An aid number's entry changed. -/
def State.updAid (s : State) (g n : Nat) (f : Aid → Aid) : State :=
  s.updGal g fun x => { x with aids := SMap.adjust x.aids n f }

/-- The places of an aid's bursts and mask IDs: those that a partner's frame gives, else the first that fit on the wings of the gallery (R272, R340). -/
def State.aidPlaces (s : State) (g bursts masks : Nat) (lay : Option (List Nat × List Nat)) : Option (List Nat) × Option (List Nat) :=
  let ws := (s.galAt g).bound
  match lay with
  | some l => (some l.1, some l.2)
  | none => (placesOn ws (s.aidPlace · bursts), placesOn ws (s.maskPlace · masks))

/-- A new aid with its room held (R272): bursts for its declared transitions, four to a burst. -/
def State.beginAid (s : State) (g n vocab states masks transitions start : Nat) (lay : Option (List Nat × List Nat)) : Option State :=
  let bursts := ceilDiv transitions 4
  match s.aidPlaces g bursts masks lay with
  | (some bs, some ms) =>
    let a : Aid := { vocab := vocab, states := states, masks := masks, transitions := transitions, start := start
                     base := bs, maskBase := ms, bursts := bursts }
    some (s.updGal g fun x => { x with aids := SMap.put x.aids n a })
  | _ => none

/-- An aid laid out and complete, on every wing of the binding set; none where an area lacks room (R272 to R274). -/
def State.finalAid (s : State) (g n : Nat) (lay : Option (List Nat × List Nat)) : Option State :=
  let a := SMap.getD (s.galAt g).aids n {}
  let ws := (s.galAt g).bound
  let s0 := s.updAid g n fun x => { x with bursts := 0 }
  match (s0.aidPlaces g a.totalBursts 0 lay).1 with
  | none => none
  | some bs =>
    let a1 := { a with base := bs, bursts := a.totalBursts, complete := true }
    let a2 := { a1 with startWord := (List.range 4).map fun w => BitVec.ofNat 64 (a1.word w a.start) }
    some (ws.foldl (fun t w => t.writeAid g n w a2) (s0.updAid g n fun _ => a2))

/-- An aid removed (R277): its number and room return at a step boundary. -/
def State.removeAid (s : State) (g n : Nat) : State := s.updAid g n fun x => { x with removed := true }

/-- The effect of a segment that passed its checks, on this member or, at the layout that the frame gives, on its partner (R340). -/
def State.applySeg (s : State) (g n : Nat) (seg : AidSeg) (lay : Option (List Nat × List Nat)) : Option State :=
  match seg with
  | .begin_ v st m t start => s.beginAid g n v st m t start lay
  | .final => s.finalAid g n lay
  | .free => some (s.removeAid g n)
  | seg => some (s.updAid g n (·.add seg))

/-- Steps not yet ended, on any wing, with a row of a request that reads an aid. -/
def State.aidRead (s : State) (g n : Nat) : Bool :=
  (List.range 4).any fun w => (s.wingAt w).openSteps.any fun t => t.rows.any fun r =>
    decide (r.type ≠ 0) && decide (r.gallery = g) && decide (r.sampling.aid = n)

/-- Removed aids that no step reads any more return to the pool (R277). -/
def State.sweepAids (s : State) : State :=
  { s with galleries := s.galleries.map fun e =>
      if e.2.aids.any fun a => a.2.removed then
        (e.1, { e.2 with aids := e.2.aids.filter fun a => !a.2.removed || s.aidRead e.1 a.1 })
      else e }

/-! ## The rows -/

/-- Checks of a segment behind those of the envelope: a status, or the aid's number and the segment. -/
def State.segCheck (s : State) (g target : Nat) (pt : List Byte) : Except Nat (Nat × AidSeg) :=
  let gal := s.galAt g
  match openBody pt with
  | none => .error stBadParam
  | some b =>
    let a := (SMap.find gal.aids target).filter fun a => !a.removed
    match parseSeg b ((a.map (·.vocab)).getD 0), a with
    | some (.begin_ v st m t start), _ =>
      if target ≠ 0 ∨ !s.beginOk gal.bound v st m start then .error stBadParam
      else match gal.freeAid with
        | none => .error stOverBudget
        | some n => .ok (n, .begin_ v st m t start)
    | some .free, some _ =>
      if s.liveReqs.any fun r => decide (r.gallery = g) && decide (r.sampling.aid = target) then .error stBadParam
      else .ok (target, .free)
    | some seg, some a => if !a.complete && a.accepts s.tokenLimit seg then .ok (target, seg) else .error stBadParam
    | _, _ => .error stBadParam

/-- A segment taken without a partner session: the next join tells the aid anew, or that it was freed (R340). -/
def State.aidAlone (s : State) (g n : Nat) (seg : AidSeg) : State :=
  match seg with
  | .free => s.updGal g fun x => { x with freedAids := if (SMap.getD x.aids n {}).told then n :: x.freedAids else x.freedAids }
  | _ => s.markTold g n false

/-- The effect of AID_LOAD behind checks 1 to 8. -/
def aidBody (c : Cmd) (o : Opened) (s : State) : Done :=
  let g := c.gallery
  match s.pairActRefusal g with
  | some st => .refuse s st
  | none => match s.segCheck g o.target o.plain with
    | .error st => .refuse s st
    | .ok (n, seg) =>
      let asks := s.pairActs && (field o.plain 4 1 == 1 || field o.plain 4 1 == 5)
      let s0 := if asks then { s with free := s.free + 1 } else s
      if asks && !Config.partnerAgrees s.free then .refuse s0 stOverBudget
      else match s0.applySeg g n seg none with
        | none => .refuse s0 stOverBudget
        | some s1 =>
          let a := SMap.getD (s1.galAt g).aids n {}
          let (s2, fence) := (if s1.pairActs then s1.markTold g n true else s1.aidAlone g n seg).pairGallery g (.aid n seg a.base a.maskBase)
          { state := s2, data := ofLe 4 n ++ ofLe 12 0, waits := if fence = 0 then none else some { fence := fence } }

/-- An AID_LOAD row: the packet whose plaintext carries the row's SEG. BEGIN takes the plaintexts of no defined SEG as well. -/
def aidCommand (seg : Nat) (ring : Fin 8) (s : State) : State :=
  (sealedCommand 0x14 sealedLayout plainEnvelope
    (fun pt => decide (field pt 4 1 = seg) || (decide (seg = 1) && (decide (field pt 4 1 = 0) || decide (6 < field pt 4 1))))
    aidBody ring s).tellCounter s (s.headerAt ring.val).gallery

/-- BEGIN (R272). -/
def execAidBegin (ring : Fin 8) (s : State) : Host.Outcome State Fault Refusal := .next (aidCommand 1 ring s)

/-- STATES (R272). -/
def execAidStates (ring : Fin 8) (s : State) : Host.Outcome State Fault Refusal := .next (aidCommand 2 ring s)

/-- MASKS (R272, R273). -/
def execAidMasks (ring : Fin 8) (s : State) : Host.Outcome State Fault Refusal := .next (aidCommand 3 ring s)

/-- TRANSITIONS (R272). -/
def execAidTransitions (ring : Fin 8) (s : State) : Host.Outcome State Fault Refusal := .next (aidCommand 4 ring s)

/-- FINAL (R273, R274): the aid is laid out and complete. -/
def execAidFinal (ring : Fin 8) (s : State) : Host.Outcome State Fault Refusal := .next (aidCommand 5 ring s)

/-- FREE (R277): the aid is removed. -/
def execAidFree (ring : Fin 8) (s : State) : Host.Outcome State Fault Refusal := .next (aidCommand 6 ring s)

end Sys2Proof.Machine
end

