-- ==== Sys2Proof/Machine/Ready.lean ====
section
/-! DEFINITION. The matching store and the choice of a step: readiness, governing deadlines, the build, placement under each candidate shape, and the choice (10 R202 to R207, R210 to R212, R219; 07 R149, R154; 08 R173, R175). -/

namespace Sys2Proof.Machine

open Sys2Proof.Bytes

/-! ## Steps of a wing in order -/

/-- Steps of a wing whose rows may still commit, oldest first. -/
def Wing.stepsInOrder (x : Wing) : List Step :=
  x.tails ++ x.running.toList ++ x.pending.toList ++ x.composed.toList

/-- Rows of a request in steps not discarded, not void and not yet committed, oldest first. -/
def Wing.openRows (x : Wing) (acc : Nat) : List RowAsg :=
  (x.stepsInOrder.filter fun t => decide (t.discarded = 0)).flatMap fun t =>
    t.rows.filter fun a => a.of acc && !a.void && !t.committed.contains a.row

/-- Tokens or iterations that rows not yet committed could still commit (R217). -/
def Wing.reach (x : Wing) (acc : Nat) : Nat := sumOf ((x.openRows acc).map fun a => 1 + a.spec)

/-- The shape of the wing's newest step, or of the last that ended. -/
def Wing.previous (x : Wing) : Option CatEntry :=
  match x.pending, x.running with
  | some t, _ => some t.shape
  | none, some t => some t.shape
  | none, none => x.lastEnd.map (·.2)

/-! ## Page spans and sharing (R216, R219) -/

/-- The page geometry of a build: PAGE_TOKENS and ROW_PAGES of its first shape. -/
def State.geometry (s : State) (w : Nat) (build : W64) : Nat × Nat :=
  (((s.wingAt w).composeSection.find? fun e => decide (e.modelBuild = build)).map fun e => (e.pageTokens, e.rowPages)).getD (0, 0)

/-- Whole page spans that a request's first loan grant shares with its source: a request never writes a shared span, so the position of its first row stays above them (R219; DEDUCED, log entry 16). -/
def State.shareSpans (s : State) (r : Req) : Nat :=
  let g := s.geometry r.wing r.modelBuild
  match s.req? r.shareSource with
  | none => 0
  | some q =>
    if !r.pages.isEmpty || r.reprefill || decide (g.1 = 0) || decide (g.2 = 0) then 0
    else
      let top := min (min r.shareLimit q.kvDone) (if r.kind = 0 then r.prompt.length - 1 else r.prompt.length)
      let n := min (top / g.1) (q.pages.length / g.2)
      match q.variantFrom with
      | some v => if v < n * g.1 then 0 else n
      | none => n

/-! ## Readiness (R202, R203) -/

/-- A ready request's work at a compose point. -/
structure Work where
  req : Req := {}
  /-- Chunks are owed: positions start to stop - 1. -/
  chunk : Bool := false
  start : Nat := 0
  stop : Nat := 0
  /-- The row, not yet committed, that gives the input token of a continuing row (R10). -/
  prior : Option RowAsg := none
  /-- Governing deadline (R203). -/
  dl : Option Nat := none
  /-- Positions that prefix sharing supplies at this grant. -/
  shared : Nat := 0
deriving DecidableEq, Repr

/-- Prefill deadline of R165 as a Basam time. -/
def State.prefillAbs (s : State) (r : Req) : Option Nat :=
  match r.ttft with
  | some d => some d
  | none => r.completion.map fun d => (d + 2 ^ 40 - decodeUs r.kind r.maxTokens (s.pwUs r.wing) % 2 ^ 40) % 2 ^ 40

/-- The deadline that governs the next record (R170), else the completion deadline. -/
def reqGoverning (r : Req) : Option Nat :=
  match (if r.firstDone then r.itlNext else r.ttft) with
  | some d => some d
  | none => r.completion

/-- The deadline that governs a request (R203): of prefill chunks that of R165, else of the next record. -/
def State.governs (s : State) (r : Req) (chunk : Bool) : Option Nat := if chunk then s.prefillAbs r else reqGoverning r

/-- The work of a request (R203, R210, R212). -/
def State.workOf (s : State) (r : Req) : Work :=
  let x := s.wingAt r.wing
  let stop := if r.reprefill && decide (r.kind = 0) then reqPosition r - 1 else prefillLength r.kind r.prompt.length
  let shared := s.shareSpans r * (s.geometry r.wing r.modelBuild).1
  let start := max r.covered shared
  let chunk := decide (start < stop)
  { req := r, chunk := chunk, start := start, stop := stop, shared := shared
    prior := if chunk then none else (x.openRows r.acc).getLast?
    dl := s.governs r chunk }

/-- The previous-token operand is absent: a step with the request's work was discarded and its replay is not issued (R202). -/
def Wing.blocked (x : Wing) (acc : Nat) : Bool :=
  (x.replayOf.toList ++ x.running.toList ++ x.tails).any fun t => decide (t.discarded ≠ 0) && t.hasWork acc
    && x.replayOf.isSome

/-- A kind-1 request whose last chunk is composed owes nothing more until its result is committed. -/
def embedDone (w : Work) : Bool := decide (w.req.kind = 1) && !w.chunk

/-- Every operand of R202 is present; that pages can be supplied shows at the grant (R218). -/
def State.isReady (s : State) (r : Req) : Bool :=
  let x := s.wingAt r.wing
  (r.state == .queued || r.state == .prefill || r.state == .running || r.state == .recalled)
    && decide (r.pendingReason = 0) && !x.blocked r.acc
    && !(r.completion.any fun d => passed s.nowUs d)
    && decide (0 < (s.galAt r.gallery).level) && decide (s.heldCount r.acc < 64)
    && !(r.state == .recalled && (!r.pages.isEmpty || r.freeLoans || s.holdsRow r))
    && !((SMap.find s.pair.handbacks r.acc).isSome && r.mirrorCovered)
    && !embedDone (s.workOf r)

/-- Order of a ready list: governing deadline, none last, then slot (R203). -/
def State.earlier (s : State) (a b : Work) : Bool :=
  match a.dl, b.dl with
  | some x, some y =>
    let x' := fromNow s.nowUs x
    let y' := fromNow s.nowUs y
    decide (x' < y') || (decide (x' = y') && decide (slotOf a.req.acc < slotOf b.req.acc))
  | some _, none => true
  | none, some _ => false
  | none, none => decide (slotOf a.req.acc < slotOf b.req.acc)

/-- The ready work of a wing in order of governing deadline. -/
def State.readyWork (s : State) (w : Nat) : List Work :=
  sortBy s.earlier (((s.liveReqs.filter fun r => decide (r.wing = w) && s.isReady r)).map s.workOf)

/-! ## The build (R204) -/

/-- The step's build. The previous step's build stands where a ready request has it (DEDUCED, log entry 17). -/
def State.stepBuild (s : State) (w : Nat) (ws : List Work) : Option W64 :=
  let x := s.wingAt w
  match x.fixedEntry with
  | some e => some e.modelBuild
  | none =>
    match ws.find? fun k => decide (k.req.cls = 0) with
    | some k => some k.req.modelBuild
    | none =>
      match ws.head? with
      | none => none
      | some k =>
        if k.dl.isSome then some k.req.modelBuild
        else match x.lastBuild with
          | some b => if ws.any fun k => decide (k.req.modelBuild = b) then some b
            else (minOf (ws.map fun k => k.req.modelBuild.toNat)).map (BitVec.ofNat 64)
          | none => (minOf (ws.map fun k => k.req.modelBuild.toNat)).map (BitVec.ofNat 64)

/-! ## Planned start and the power window (R173, R208) -/

/-- Start of a step that runs or waits: its STEP_START, else its planned start. -/
def Step.startAt (t : Step) : Nat := (t.started.map (·.toNat)).getD t.planned

/-- Ticks in which a step runs, start and first tick behind it. -/
def Step.span (t : Step) : Nat × Nat := (t.startAt, t.startAt + shapeTicks t.shape)

/-- Idle ticks between the wing's previous step and a shape (R158). -/
def State.gapTo (s : State) (w : Nat) (e : CatEntry) : Nat := (((s.wingAt w).previous).map fun p => gapOf p e).getD 0

/-- Planned start tick of a step of a shape on a wing (R208). -/
def State.plannedStart (s : State) (w : Nat) (e : CatEntry) : Nat :=
  let x := s.wingAt w
  let base := match x.pending, x.running with
    | some t, _ => t.span.2
    | none, some t => t.span.2
    | none, none => (x.lastEnd.map (·.1)).getD 0
  max (base + s.gapTo w e) (s.now + 1)

/-- Steps running or pending on other wings; a step composed there whose descriptor is not yet transferred counts as pending (DEDUCED, log entry 103). -/
def State.otherSteps (s : State) (w : Nat) : List Step :=
  ((List.range 4).filter (· != w)).flatMap fun v =>
    (s.wingAt v).running.toList ++ (s.wingAt v).pending.toList ++ (s.wingAt v).composed.toList

/-- Largest sum of mean powers of other steps over a run. -/
def peakOf (ts : List Step) (lo hi : Nat) : Nat :=
  let starts := lo :: (ts.map Step.startAt).filter fun a => decide (lo < a) && decide (a < hi)
  maxOf (starts.map fun p => sumOf ((ts.filter fun t => decide (t.span.1 ≤ p) && decide (p < t.span.2)).map fun t => meanMw t.shape))

/-- A shape passes the power window. -/
def State.powerOk (s : State) (w : Nat) (e : CatEntry) : Bool :=
  let st := s.plannedStart w e
  !s.capped || decide (meanMw e + peakOf (s.otherSteps w) st (st + shapeTicks e) ≤ s.pAvail)

/-! ## Placement (R205, R206, R212) -/

abbrev dfBackground : Nat := 0x01
abbrev dfReprefill : Nat := 0x02
abbrev dfEnergyShare : Nat := 0x03
abbrev dfPrefillNoDeadline : Nat := 0x04
abbrev dfStandard : Nat := 0x05
abbrev dfPrefillDeadline : Nat := 0x06
abbrev dfOtherBuild : Nat := 0x10
abbrev dfNoShape : Nat := 0x11
abbrev dfLoan : Nat := 0x12
abbrev dfReservedOverflow : Nat := 0x13

/-- A ready request deferred, with its reason and the chunks it lost (R226). -/
structure Defer where
  work : Work := {}
  reason : Nat := 0
  chunks : Nat := 0
deriving DecidableEq, Repr

/-- A run of consecutive positions for one chunk slot: first position, tokens, from the history page. -/
abbrev Span := Nat × Nat × Bool

/-- Spans of up to `len` tokens from a position on; none crosses the boundary of the prompt copy (R212). -/
def spansFrom (len l stop : Nat) : Nat → Nat → List Span
  | 0, _ => []
  | fuel + 1, p =>
    if stop ≤ p ∨ len = 0 then []
    else
      let n := min len ((if p < l then min stop l else stop) - p)
      (p, n, decide (l ≤ p)) :: spansFrom len l stop fuel (p + n)

/-- The chunk spans that a request owes under a shape. -/
def Work.spans (k : Work) (e : CatEntry) : List Span :=
  spansFrom e.chunkLen k.req.prompt.length k.stop (k.stop - k.start) k.start

/-- Chunks that work not carried by a shape owes, in chunks of LEN_w (R165; DEDUCED, log entry 89). -/
def State.owedChunks (s : State) (k : Work) : Nat :=
  if k.chunk then
    match chunkFigures (s.allowed k.req.wing) with
    | some (_, len) => (spansFrom len k.req.prompt.length k.stop (k.stop - k.start) k.start).length
    | none => 0
  else 0

/-- A composition under one candidate shape. -/
structure Plan where
  shape : CatEntry := {}
  rows : List Work := []
  chunks : List (Work × List Span) := []
  defers : List Defer := []
  /-- Power of each gallery in mW (R149). -/
  power : SMap Nat := []
deriving DecidableEq, Repr

/-- Reason under which work is deferred for want of room. -/
def Work.reason (k : Work) : Nat :=
  if k.chunk then
    (if k.req.cls = 2 then dfBackground else if k.req.reprefill then dfReprefill
      else if k.dl.isSome then dfPrefillDeadline else dfPrefillNoDeadline)
  else if k.req.cls = 0 then dfReservedOverflow else if k.req.cls = 1 then dfStandard else dfBackground

/-- Place of a chunk group in the order of R205. -/
def Work.chunkRank (k : Work) : Nat :=
  if k.reason = dfPrefillDeadline then 0 else if k.reason = dfPrefillNoDeadline then 1
  else if k.reason = dfReprefill then 2 else 3

/-- A gallery's power with one more row of a shape. -/
def Plan.addPower (p : Plan) (g : Nat) : Plan := { p with power := SMap.modify p.power g 0 (· + rowMw p.shape) }

/-- A Standard or Background row of a request would take its gallery above its share limit (R149). -/
def State.overShare (s : State) (p : Plan) (r : Req) : Bool :=
  decide (r.cls ≠ 0) && s.capped
    && decide (s.shareLimit (s.galAt r.gallery).budget.energyShare < SMap.getD p.power r.gallery 0 + rowMw p.shape)

/-- One row placed or deferred (R205). -/
def State.placeRow (s : State) (p : Plan) (k : Work) : Plan :=
  let r := k.req
  let skip := fun (why : Nat) => { p with defers := p.defers ++ [(Defer.mk k why 0)] }
  if !s.servesReq r p.shape then skip dfNoShape
  else if p.shape.rows ≤ p.rows.length then skip k.reason
  else if s.overShare p r then skip dfEnergyShare
  else ({ p with rows := p.rows ++ [k] }).addPower r.gallery

/-- The shape may carry a request's chunks (R14, R25, R183). -/
def State.carriesChunks (s : State) (r : Req) (e : CatEntry) : Bool :=
  decide (e.modelBuild = r.modelBuild) && decide (shapeKind e = r.kind)
    && s.invarianceOk r.wing r.gallery e

/-- A request's chunks placed as far as slots are free, and deferred for the rest (R206, R212). The last chunk of kind 1 needs a row for its result. -/
def State.placeChunks (s : State) (p : Plan) (k : Work) : Plan :=
  let r := k.req
  let used := sumOf (p.chunks.map fun c => c.2.length)
  if !s.carriesChunks r p.shape then
    { p with defers := p.defers ++ [(Defer.mk k dfNoShape (s.owedChunks k))] }
  else if p.shape.chunkSlots = 0 then
    { p with defers := p.defers ++ [(Defer.mk k k.reason (s.owedChunks k))] }
  else
    let all := k.spans p.shape
    let room := p.shape.chunkSlots - used
    let share := decide (r.kind = 1) && s.overShare p r
    let noRow := decide (r.kind = 1) && decide (p.shape.rows ≤ p.rows.length)
    let take := all.take (if noRow || share then min room (all.length - 1) else room)
    let why := if share && !noRow && decide (take.length + 1 = all.length) then dfEnergyShare else k.reason
    let p1 := if take.isEmpty then p else { p with chunks := p.chunks ++ [(k, take)] }
    let p2 := if decide (r.kind = 1) && decide (take.length = all.length) then ({ p1 with rows := p1.rows ++ [k] }).addPower r.gallery else p1
    if take.length < all.length then { p2 with defers := p2.defers ++ [(Defer.mk k why (all.length - take.length))] } else p2

/-- Power of each gallery on the other wings, padding rows charged to gallery 0 (R149). -/
def State.otherPower (s : State) (w : Nat) : SMap Nat :=
  (s.otherSteps w).foldl (fun m t => t.rows.foldl (fun m a =>
    SMap.modify m (if a.type = 0 then 0 else a.gallery) 0 (· + rowMw t.shape)) m) []

/-- The work placed under a shape, in the order of R205. -/
def State.place (s : State) (w : Nat) (ws : List Work) (e : CatEntry) : Plan :=
  let rows := (ws.filter fun k => !k.chunk)
  let byClass := fun c => rows.filter fun k => decide (k.req.cls = c)
  let group := fun n => (ws.filter (·.chunk)).filter fun k => decide (k.chunkRank = n)
  let p0 : Plan := { shape := e, power := s.otherPower w }
  let p1 := (byClass 0 ++ byClass 1 ++ byClass 2).foldl s.placeRow p0
  (group 0 ++ group 1 ++ group 2 ++ group 3).foldl s.placeChunks p1

/-! ## The choice (R207) -/

/-- Order of R175 at which a deferral counts; 7 stands above every order. -/
def Defer.order (d : Defer) : Nat :=
  let own := fun (why : Nat) =>
    if why = dfBackground then 1 else if why = dfReprefill then 2 else if why = dfEnergyShare then 3
    else if why = dfPrefillNoDeadline then 4 else if why = dfStandard then 5 else if why = dfPrefillDeadline then 6
    else if why = dfReservedOverflow then 7 else 0
  if d.reason = dfNoShape then own d.work.reason else own d.reason

/-- Deferrals of a plan by order, the most protected first. -/
def Plan.score (p : Plan) : List Nat :=
  [7, 6, 5, 4, 3, 2, 1].map fun o => (p.defers.filter fun d => decide (d.order = o)).length

/-- Lexicographic order of scores. -/
def lexLt : List Nat → List Nat → Bool
  | x :: xs, y :: ys => decide (x < y) || (decide (x = y) && lexLt xs ys)
  | _, _ => false

/-- The plans no other beats on score (step 1). -/
def bestScored (ps : List Plan) : List Plan := ps.filter fun p => ps.all fun q => !lexLt q.score p.score

/-- Step 2: wide enough for the drafts held, else the widest. -/
def wideEnough (ps : List Plan) : List Plan :=
  let want := maxOf (ps.flatMap fun p => p.rows.map fun k => if k.req.speculative then k.req.drafts.length else 0)
  let ok := ps.filter fun p => decide (want ≤ p.shape.specWidth)
  if ok.isEmpty then ps.filter fun p => decide (p.shape.specWidth = maxOf (ps.map fun q => q.shape.specWidth)) else ok

/-- The sampling tail of a step of a shape (step 3 of R207); a shape without windows has none (R55). -/
def tailOf (start : Nat) (e : CatEntry) : Option (Nat × Nat) :=
  if e.windows.isEmpty then none else some (start + lastClose e, start + lastClose e + 4000)

/-- Two tails do not meet. -/
def tailsApart : Option (Nat × Nat) → Option (Nat × Nat) → Bool
  | some a, some b => decide (a.2 ≤ b.1) || decide (b.2 ≤ a.1)
  | _, _ => true

/-- Step 3: kept plans within 17/16 of the smallest CYCLES whose tail meets no tail of another wing. -/
def State.staggered (s : State) (w : Nat) (ps : List Plan) : List Plan :=
  let m := (minOf (ps.map fun p => p.shape.cycles)).getD 0
  let tails := (s.otherSteps w).map fun t => tailOf t.startAt t.shape
  ps.filter fun p =>
    let me := tailOf (s.plannedStart w p.shape) p.shape
    decide (p.shape.cycles ≤ m * 17 / 16) && tails.all (tailsApart me)

/-- Step 4: smallest CYCLES, lowest ENERGY_UJ, lowest index. -/
def planBefore (a b : Plan) : Bool :=
  let x := (a.shape.cycles, a.shape.energyUj, shapeIndex a.shape.shapeId)
  let y := (b.shape.cycles, b.shape.energyUj, shapeIndex b.shape.shapeId)
  decide (x.1 < y.1) || (decide (x.1 = y.1) && (decide (x.2.1 < y.2.1) || (decide (x.2.1 = y.2.1) && decide (x.2.2 < y.2.2))))

/-- The plan chosen, and whether step 3 changed the choice. -/
def State.choose (s : State) (w : Nat) (ps : List Plan) : Option (Plan × Bool) :=
  let kept := wideEnough (bestScored ps)
  let stag := s.staggered w kept
  let plain := (sortBy planBefore kept).head?
  let chosen := (sortBy planBefore (if stag.isEmpty then kept else stag)).head?
  chosen.map fun p => (p, decide (plain.map (fun q => q.shape.shapeId) ≠ some p.shape.shapeId))

end Sys2Proof.Machine
end

