-- ==== Sys2Proof/Machine/Compose.lean ====
section
/-! DEFINITION. Composition of a step: loans, recall, page tables, row layout, noise keys, the Daybook group, the descriptor (10 R205 to R226; 07 R148, R150; 08 R176, R177; 04 R75): COMPOSE_POINT, IDLE_COMPOSE, PRE_WAKE, COMPOSE_WAKE, DESCRIPTOR, REPLAY. -/

namespace Sys2Proof.Machine

open Sys2Proof.Bytes

/-! ## Recall (R150, R176, R177) -/

/-- Pages that a recall of a request will free: shared pages with other holders left out. -/
def State.pagesFreed (s : State) (r : Req) : Nat :=
  let others := pagesOf (s.allReqs.filter fun q => decide (q.wing = r.wing) && decide (q.acc ≠ r.acc))
  (r.pages.filter fun p => !others.contains p.1).length

/-- A request recalled (R177): it keeps its record; its loans go at the boundary, and it will be prefilled again. -/
def State.recall (s : State) (acc : Nat) : State :=
  match s.req? acc with
  | none => s
  | some r =>
    let n := s.pagesFreed r
    let s1 := s.updReq acc fun x => { x with
      state := .recalled, freeLoans := true, reprefill := true, covered := 0, kvDone := 0, variantFrom := none }
    let s2 := s1.updGal r.gallery fun g => { g with counts := { g.counts with recalls := g.counts.recalls + 1 } }
    ((s2.event 2 0x51 r.wing n acc).count (1 + r.wing) 8 1).mirrorEvent acc .change

/-- Order of victims (R176): Background first, latest completion deadline with none as latest, most loans, highest slot. -/
def State.victimBefore (s : State) (a b : Req) : Bool :=
  let far := fun (r : Req) => (r.completion.map fun d => fromNow s.nowUs d).getD (2 ^ 41)
  decide (b.cls < a.cls) || (decide (a.cls = b.cls) &&
    (decide (far b < far a) || (decide (far a = far b) &&
      (decide (b.pages.length < a.pages.length) || (decide (a.pages.length = b.pages.length) && decide (slotOf b.acc < slotOf a.acc))))))

/-- A request may be recalled at all: it holds pages, its history page reaches, it holds no void row (R176). -/
def State.recallable (s : State) (r : Req) : Bool :=
  (r.state == .prefill || r.state == .running || r.state == .held) && !r.pages.isEmpty
    && decide (r.gen.length ≤ 1024) && !s.holdsVoid r

/-- Eligible victims of a requester, in order. -/
def State.victims (s : State) (k : Work) : List Req :=
  let q := k.req
  if q.cls = 2 then []
  else sortBy s.victimBefore (s.liveReqs.filter fun r =>
    decide (r.wing = q.wing) && decide (r.acc ≠ q.acc) && decide (r.cls ≠ 0) && (r.adopted == q.adopted) && s.recallable r
      && (decide (q.cls < r.cls) || (decide (q.cls = r.cls) && s.earlier { req := q, dl := k.dl } { req := r, dl := (s.workOf r).dl }
        && decide (k.dl ≠ (s.workOf r).dl))))

/-- Victims recalled until a number of pages is on its way: the state and the recalls made (victim, requester, pages). -/
def State.recallFor (s : State) (requester : Nat) : Nat → List Req → State × List (Nat × Nat × Nat)
  | _, [] => (s, [])
  | 0, _ => (s, [])
  | n + 1, v :: vs =>
    let m := s.pagesFreed v
    let r := State.recallFor (s.recall v.acc) requester (n + 1 - m) vs
    (r.1, (v.acc, requester, m) :: r.2)

/-- Pages of a gallery's loans that no recall is freeing (R150). -/
def State.keptLoans (s : State) (g : Nat) : Nat :=
  sumOf ((List.range 4).map fun w =>
    ((pagesOf (s.allReqs.filter fun r => decide (r.wing = w) && decide (r.gallery = g) && !r.freeLoans)).filter
      fun p => decide (p < (s.site w).pages)).length)

/-- Loans above the quota recalled at a compose point, lowest class first, Reserved requests included (R150). -/
def State.quotaRecalls (s : State) (w : Nat) : State × List (Nat × Nat × Nat) :=
  s.galleryNumbers.foldl (fun acc g =>
    let t := acc.1
    let excess := t.keptLoans g - (t.galAt g).budget.loanQuota
    let vs := sortBy t.victimBefore (t.liveReqs.filter fun r => decide (r.wing = w) && decide (r.gallery = g) && !r.adopted && t.recallable r)
    let r := t.recallFor 0 excess vs
    (r.1, acc.2 ++ r.2)) (s, [])

/-! ## What a compose point finds first (R40, R150, R199, R364, R409) -/

/-- Deaccessions that a compose point makes: a request restored that this part cannot serve (R40), one that can never fit its quota (R150), an adopted one whose completion deadline has passed (R364). -/
def State.composeEnds (s : State) (w : Nat) : State :=
  (s.wingLive w).foldl (fun t r =>
    if r.restored && decide (r.kind = 0) && !servable t.kpr.caps r.sampling r.speculative then t.askDeaccession r.acc 10
    else if !r.adopted && decide ((t.galAt r.gallery).budget.loanQuota < r.need) then
      (if t.path.jobs.any fun j => decide (j.acc = r.acc) then t.askDeaccession r.acc 6 else t.deaccession r.acc 6)
    else if r.adopted && (r.completion.any fun d => passed t.nowUs d) then t.askDeaccession r.acc 5
    else t.updReq r.acc fun x => { x with restored := false }) s

/-- The Daybook filter taken up by a wing (R409). -/
def State.takeFilter (s : State) (w : Nat) : State :=
  s.updWing w fun x => { x with dbkOn := s.logs.dbkWings.getLsbD w, dbkSelect := s.logs.dbkSelect }

/-! ## Loans and page tables (R216 to R219) -/

/-- The n lowest pages from `lo` on and below `hi` that are not held. -/
def lowestFree (held : List Nat) (hi : Nat) : Nat → Nat → Nat → List Nat
  | 0, _, _ => []
  | fuel + 1, n, k =>
    if n = 0 ∨ hi ≤ k then []
    else if held.contains k then lowestFree held hi fuel n (k + 1)
    else k :: lowestFree held hi fuel (n - 1) (k + 1)

/-- Free pages for a request: of the loan pool, or of the mirror pool for an adopted one (R357, R364). -/
def State.freePagesFor (s : State) (r : Req) (n : Nat) : List Nat :=
  let p := (s.site r.wing).pages
  let held := s.heldPages r.wing
  if r.adopted then lowestFree held (2 * p) (n + held.length) n p else lowestFree held p (n + held.length) n 0

/-- Slot number under which a request's per-slot areas are addressed (R355). -/
def State.areaSlot (s : State) (r : Req) : Nat := if r.adopted then s.ownHalf + slotOf r.acc else slotOf r.acc

/-- A page table entry written with WRITE_MASKED under key slot 64 (R215, R216). -/
def State.writePte (s : State) (r : Req) (i page : Nat) (shared : Bool) : State :=
  let at_ := (s.site r.wing).ptBase + s.areaSlot r * 16384 + 4 * i
  s.smpSend { wing := r.wing, op := 2, addr := at_ / 64 * 64, keySlot := 64, ben := BitVec.ofNat 64 (15 * 2 ^ (at_ % 64))
              data := slice (List.replicate (at_ % 64) 0 ++ ofLe 4 (2 ^ 31 + b2n shared * 2 ^ 30 + page)) 0 64
              use := .pageTable r.wing r.acc }

/-- Pages granted to a request behind those it holds, with their page table and mirror map entries. -/
def State.grant (s : State) (r : Req) (ps : List (Nat × Bool)) (shared : Nat) : State :=
  let base := r.pages.length
  let s1 := s.updReq r.acc fun x => { x with
    pages := x.pages ++ ps, covered := max x.covered shared, kvDone := max x.kvDone shared }
  let s2 := ps.zipIdx.foldl (fun t p => t.writePte r (base + p.2) p.1.1 p.1.2) s1
  if s2.mapsPages r.wing then (ps.filter fun p => !p.2).foldl (fun t p => t.mapPage r.wing p.1 false) s2 else s2

/-- A composition in progress. -/
structure Comp where
  state : State
  rows : List Work := []
  chunks : List (Work × List Span) := []
  defers : List Defer := []
  recalls : List (Nat × Nat × Nat) := []
  /-- Pages on their way that earlier requesters of this composition wait for. -/
  claimed : Nat := 0

/-- Pages that recalls are freeing on a wing. -/
def State.pagesComing (s : State) (w : Nat) : Nat :=
  let going := s.allReqs.filter fun r => decide (r.wing = w) && r.freeLoans
  let kept := pagesOf (s.allReqs.filter fun r => decide (r.wing = w) && !r.freeLoans)
  ((pagesOf going).filter fun p => !kept.contains p).length

/-- Loans for work granted up to a number of positions, or recalls made and the work refused (R148, R217, R218). -/
def Comp.loan (c : Comp) (e : CatEntry) (k : Work) (positions : Nat) : Comp × Bool :=
  let s := c.state
  match s.req? k.req.acc with
  | none => (c, false)
  | some r =>
    let src := ((s.req? r.shareSource).map (·.pages)).getD []
    let shared := (src.take (k.shared / max 1 e.pageTokens * e.rowPages)).map fun p => (p.1, true)
    let extra := pagesFor e positions - (r.pages.length + shared.length)
    let fits := decide (extra = 0) || r.adopted || decide (s.loans r.gallery + extra ≤ (s.galAt r.gallery).budget.loanQuota)
    let free := s.freePagesFor r extra
    if fits && decide (free.length = extra) then
      ({ c with state := s.grant r (shared ++ free.map fun p => (p, false)) k.shared }, true)
    else if !fits then (c, false)
    else
      let short := extra - free.length - (s.pagesComing r.wing - c.claimed)
      let q := s.recallFor r.acc short (s.victims k)
      ({ c with state := q.1, recalls := c.recalls ++ q.2, claimed := c.claimed + (extra - free.length) }, false)

/-- Positions a row could write (R217). -/
def State.rowPositions (s : State) (e : CatEntry) (k : Work) : Nat :=
  let r := k.req
  let open_ := (s.wingAt r.wing).reach r.acc
  if r.kind = 2 then r.prompt.length + r.iters + open_ + 1
  else reqPosition r + open_ + (if r.speculative then e.specWidth else 0)

/-- Loans for a placed row. -/
def Comp.row (e : CatEntry) (c : Comp) (k : Work) : Comp :=
  let r := c.loan e k (c.state.rowPositions e k)
  if r.2 then { r.1 with rows := r.1.rows ++ [k] } else { r.1 with defers := r.1.defers ++ [(Defer.mk k dfLoan 0)] }

/-- Loans for placed chunks; a request that re-prefills needs its whole sequence (R177). -/
def Comp.chunk (e : CatEntry) (c : Comp) (k : Work × List Span) : Comp :=
  let last := maxOf (k.2.map fun p => p.1 + p.2.1)
  let r := c.loan e k.1 (if k.1.req.reprefill then max last (reqPosition k.1.req) else last)
  if r.2 then { r.1 with chunks := r.1.chunks ++ [k] }
  else { r.1 with defers := (r.1.defers.filter fun d => decide (d.work.req.acc ≠ k.1.req.acc)) ++ [(Defer.mk k.1 dfLoan (k.1.spans e).length)] }

/-- All loans of a plan. An EMBED row stands with its chunk. -/
def Plan.loans (p : Plan) (s : State) (recalls : List (Nat × Nat × Nat)) (other : List Defer) : Comp :=
  let c0 : Comp := { state := s, recalls := recalls, defers := p.defers ++ other }
  let c1 := (p.rows.filter fun k => decide (k.req.kind ≠ 1)).foldl (Comp.row p.shape) c0
  let c2 := p.chunks.foldl (Comp.chunk p.shape) c1
  { c2 with rows := c2.rows ++ (p.rows.filter fun k => decide (k.req.kind = 1)
      && c2.chunks.any fun c => decide (c.1.req.acc = k.req.acc)) }

/-! ## Row layout (R209 to R211, R223) -/

/-- The row a request held in the wing's previous step, where the new shape has it. -/
def Wing.keptRow (x : Wing) (e : CatEntry) (acc : Nat) : Option Nat :=
  ((x.lastRows.find? fun p => decide (p.2 = acc)).map (·.1)).filter fun r => decide (r < e.rows)

/-- Row numbers of placed work. -/
def Wing.layout (x : Wing) (e : CatEntry) (ks : List Work) : List (Nat × Work) :=
  let kept := ks.filterMap fun k => (x.keptRow e k.req.acc).map fun r => (r, k)
  let new := ks.filter fun k => (x.keptRow e k.req.acc).isNone
  let free := (List.range e.rows).filter fun r => !(kept.any fun p => decide (p.1 = r))
  sortBy (fun a b => decide (a.1 < b.1)) (kept ++ free.zip new)

/-- Mask ID of a finding-aid state word (R275). -/
def maskIdOf (word : W64) : Nat := word.toNat % 2 ^ 20

/-- Token of a request at a position. -/
def reqToken (r : Req) (p : Nat) : Nat :=
  if p < r.prompt.length then nth r.prompt p 0 else nth r.gen (p - r.prompt.length) 0

/-- A padding row. -/
def padRow (i : Nat) : RowAsg := { row := i }

/-- Drafts held for the positions behind an input position, up to a width (R211). -/
def heldDrafts (r : Req) (inputPos width : Nat) : List Nat :=
  if inputPos + 1 < r.draftFirst then [] else (r.drafts.drop (inputPos + 1 - r.draftFirst)).take width

/-- The row parameter table entry of work in a row (R28, R210, R213). The drafts of a DIRECT row are those held at the compose point, where its words are final (R315). -/
def State.rowOf (s : State) (e : CatEntry) (i : Nat) (k : Work) : RowAsg :=
  let r := (s.req? k.req.acc).getD k.req
  let site := s.site r.wing
  let gen := decide (r.kind = 0)
  let direct := gen && k.prior.isNone
  let at_ := reqPosition r - 1
  let ds := if direct then heldDrafts r at_ (if r.speculative then e.specWidth else 0) else []
  { row := i, drafts := if r.sampling.aid = 0 then ds else [], toWalk := if r.sampling.aid = 0 then [] else ds, acc := r.acc, gallery := r.gallery
    type := if r.kind = 1 then 3 else if r.kind = 2 then 4 else if direct then 2 else 1
    rowClass := if gen then rowClassOf r.sampling else 0, adjSel := r.adjHalf
    spec := if r.speculative then e.specWidth else 0
    position := if r.kind = 2 then r.iters + (s.wingAt r.wing).reach r.acc else if direct then at_ else 0
    inToken := if direct then reqToken r at_ else 0
    maskId := if direct then maskIdOf r.aidWord else 0
    inputPos := if direct then at_ else 0, word := if direct then r.aidWord else 0
    promptLen := if gen then r.prompt.length else 0
    resultAddr := if gen then 0 else site.resAreaBase + s.areaSlot r * site.resultBytes
    sampling := r.sampling, maxTokens := r.maxTokens, key := r.key, cls := r.cls }

/-- Every row of the step, padding rows included. -/
def State.rowsOf (s : State) (e : CatEntry) (ps : List (Nat × Work)) : List RowAsg :=
  (List.range e.rows).map fun i =>
    match ps.find? fun p => p.1 = i with
    | some p => s.rowOf e i p.2
    | none => padRow i

/-- The chunk descriptors of placed work (R212 to R214). -/
def State.chunksOf (s : State) (ks : List (Work × List Span)) : List Chunk :=
  ks.flatMap fun k =>
    let r := k.1.req
    let site := s.site r.wing
    let n := s.areaSlot r
    k.2.map fun p => { acc := r.acc, gallery := r.gallery, history := p.2.2, last := decide (p.1 + p.2.1 = k.1.stop)
                       firstPos := p.1, tokens := p.2.1
                       srcAddr := if p.2.2 then site.histBase + n * 4096 + 4 * ((p.1 - r.prompt.length) % 1024)
                         else site.promptBase + n * site.promptBytes + 4 * p.1 }

/-- An adjustment area that changed written into the other half, named from here on (R222). -/
def State.rewriteAdjust (s : State) (acc : Nat) : State :=
  match s.req? acc with
  | none => s
  | some r =>
    if r.adjDirty then
      let s1 := s.smpArea r.wing (s.adjAddr r.wing (s.areaSlot r) (1 - r.adjHalf)) r.gallery (.setup acc) (adjustArea r)
      s1.updReq acc fun x => { x with adjHalf := 1 - x.adjHalf, adjDirty := false }
    else s

/-- State of a request that takes work in a step (R20). -/
def State.takesWork (s : State) (acc : Nat) (chunkEnd : Option Nat) : State :=
  s.updReq acc fun x =>
    let y := match chunkEnd with
      | some n => { x with covered := n }
      | none => x
    if x.freeLoans then x
    else if x.state == .queued || x.state == .recalled then
      { y with state := if chunkEnd.isSome then .prefill else .running, reprefill := x.reprefill && chunkEnd.isSome }
    else y

/-! ## Noise keys (R224) -/

/-- Requests by row, of rows that carry work. -/
def rowHolders (rows : List RowAsg) : SMap Nat := (rows.filter fun r => decide (r.type ≠ 0)).map fun r => (r.row, r.acc)

/-- KYB LOADs and ERASEs that turn the noise keys of one set of rows into those of a step. -/
def State.noiseKeys (s : State) (w : Nat) (old : SMap Nat) (rows : List RowAsg) : State :=
  rows.foldl (fun t r =>
    let had := SMap.find old r.row
    if r.type ≠ 0 then
      (if had = some r.acc then t
        else t.kybSend { wing := w, noise := true, op := 0, slot := r.row, key := ofLe 8 r.key.toNat })
    else if had.isSome then t.kybSend { wing := w, noise := true, op := 1, slot := r.row }
    else t) s

/-! ## The Daybook (R225, R408, R409) -/

/-- A Daybook group written whole, or counted lost. -/
def State.daybook (s : State) (w : Nat) (es : List (List Byte)) : State :=
  if !(s.wingAt w).dbkOn || es.isEmpty then s
  else
    let l := s.logs
    let s1 :=
      if 8192 < occupancy l.dbkPi l.dbkCi + es.length then
        { s with
          logs := { l with dbkLost := BitVec.ofNat 16 (min 0xFFFF (l.dbkLost.toNat + es.length)) }
          kpr := { s.kpr with fresh := { s.freshNow with dbk := raiseLostBy es.length l.dbkLost s.freshNow.dbk } } }
      else
        let put := fun (m : Memory) (p : List Byte × Nat) =>
          Memory.writeBytes m (0x580000 + (l.dbkPi.toNat + p.2) % 8192 * 32) p.1
        { s with mem := es.zipIdx.foldl put s.mem, sec := s.sec.wrote 4, logs := { l with dbkPi := l.dbkPi + BitVec.ofNat 14 es.length } }
    if s1.cnt.trcDaybook then es.foldl (fun t e => t.trace 3 w (words32 e)) s1 else s1

/-- Rows of a step that carry work. -/
def Step.placed (t : Step) : Nat := (t.rows.filter fun r => decide (r.type ≠ 0)).length

/-- Bytes of a STEP entry. -/
def Step.entry (t : Step) (w : Nat) (staggered thr : Bool) (limit deferred : Nat) : List Byte :=
  ofLe 1 1 ++ ofLe 1 w ++ ofLe 2 t.tag.toNat ++ ofLe 2 t.shape.shapeId
    ++ ofLe 2 (b2n t.replay + b2n thr * 2 + b2n t.fixed * 4 + b2n staggered * 8) ++ ofLe 8 t.composeKtime.toNat
    ++ ofLe 2 t.placed ++ ofLe 2 (t.rows.length - t.placed) ++ ofLe 1 t.chunks.length ++ ofLe 1 limit ++ ofLe 2 deferred
    ++ ofLe 4 t.gap ++ ofLe 4 0

/-- Bytes of a DEFER entry. -/
def Defer.entry (d : Defer) (w tag : Nat) : List Byte :=
  ofLe 1 2 ++ ofLe 1 w ++ ofLe 2 tag ++ ofLe 4 d.work.req.acc ++ ofLe 1 d.reason ++ ofLe 1 (if d.work.chunk then 2 else 1)
    ++ ofLe 2 d.chunks ++ ofLe 5 (d.work.dl.getD (2 ^ 40 - 1)) ++ ofLe 15 0

/-- Bytes of a RECALL entry. -/
def recallEntry (w tag : Nat) (r : Nat × Nat × Nat) : List Byte :=
  ofLe 1 4 ++ ofLe 1 w ++ ofLe 2 tag ++ ofLe 4 r.1 ++ ofLe 4 r.2.1 ++ ofLe 4 r.2.2 ++ ofLe 16 0

/-- LIMIT of a STEP entry. -/
def limitBits (ds : List Defer) (powerCut : Bool) : Nat :=
  let any := fun (p : Defer → Bool) => b2n (ds.any p)
  let rows := any fun d => decide (d.reason = dfStandard) || decide (d.reason = dfReservedOverflow)
    || (decide (d.reason = dfBackground) && !d.work.chunk)
  let slots := any fun d => d.work.chunk && ([dfBackground, dfReprefill, dfPrefillNoDeadline, dfPrefillDeadline].contains d.reason)
  rows + 2 * slots + 4 * b2n (powerCut && decide (rows + slots ≠ 0)) + 8 * (any fun d => decide (d.reason = dfEnergyShare))
    + 16 * (any fun d => decide (d.reason = dfOtherBuild))

/-- A step entered in the Daybook and in the wing's counters (R225, R399, R409). -/
def State.enterStep (s : State) (w : Nat) (t : Step) (staggered powerCut : Bool) (ds : List Defer) (rs : List (Nat × Nat × Nat)) : State :=
  let head := if (s.wingAt w).dbkSelect then [] else [t.entry w staggered s.throttled (limitBits ds powerCut) ds.length]
  let s1 := s.daybook w (head ++ ds.map (fun d => d.entry w t.tag.toNat) ++ rs.map (recallEntry w t.tag.toNat))
  ((((s1.count (1 + w) 3 t.placed).count (1 + w) 4 (t.rows.length - t.placed)).count (1 + w) 6 t.chunks.length).count (1 + w) 7 ds.length).count
    (1 + w) 12 t.gap

/-! ## The composition (R205) -/

/-- The step that granted work makes, its rows laid out and its keys sent. -/
def Comp.build (c : Comp) (w : Nat) (p : Plan) (staggered powerCut : Bool) : State :=
  let e := p.shape
  let x := c.state.wingAt w
  let accs := c.rows.map fun k => k.req.acc
  let s0 := accs.foldl State.rewriteAdjust c.state
  let rows := (s0.rowsOf e (x.layout e c.rows)).map fun a =>
    { a with adjBefore := ((c.state.req? a.acc).map (·.adjHalf)).getD a.adjSel }
  let t : Step := { tag := x.nextTag, shape := e, index := shapeIndex e.shapeId, composeKtime := s0.kpr.ktime
                    rows := rows, chunks := s0.chunksOf c.chunks, fixed := x.composePolicy.fixed, policyNew := x.policyNext, gap := s0.gapTo w e
                    planned := s0.plannedStart w e, throttled := s0.throttled, sectionNew := x.commitNext.isSome }
  let s1 := c.chunks.foldl (fun t k => t.takesWork k.1.req.acc (some (maxOf (k.2.map fun p => p.1 + p.2.1)))) s0
  let s2 := accs.foldl (fun t a => t.takesWork a none) s1
  let s3 := (s2.noiseKeys w x.lastRows rows).updWing w fun y => { y with
    composed := some t, nextTag := y.nextTag + 1, lastRows := rowHolders rows, lastBuild := some e.modelBuild }
  let late := (c.defers.filter fun d => decide (d.reason = dfReservedOverflow)).length
  let s4 := s3.enterStep w t staggered powerCut c.defers c.recalls
  if late = 0 then s4 else s4.report 0x0006 2 0x03 w 255 [t.tag.toNat, late]

/-- A composition for wing w (R205): nothing is composed where no work is ready and the wing is not fixed-shape, or no shape passes. -/
def State.compose (s : State) (w : Nat) : State :=
  let s1 := (((s.takeFilter w).takeBudgets w).shapesDue w).composeEnds w
  let (s2, recalls) := s1.quotaRecalls w
  let x := s2.wingAt w
  let ready := s2.readyWork w
  match s2.stepBuild w ready with
  | none => s2
  | some build =>
    let mine := ready.filter fun k => decide (k.req.modelBuild = build)
    let other := (ready.filter fun k => decide (k.req.modelBuild ≠ build)).map fun k => Defer.mk k dfOtherBuild (s2.owedChunks k)
    let shapes := (s2.allowed w).filter fun e => decide (e.modelBuild = build)
    let cands := match x.fixedEntry with
      | some e => [e]
      | none => shapes.filter (s2.powerOk w)
    let cut := x.fixedEntry.isNone && decide (cands.length < shapes.length)
    match s2.choose w (cands.map (s2.place w mine)) with
    | none => s2
    | some (p, staggered) =>
      let c := p.loans s2 recalls other
      if c.rows.isEmpty && c.chunks.isEmpty && x.fixedEntry.isNone then c.state
      else c.build w p staggered cut

/-! ## The rows -/

/-- COMPOSE_POINT (R13, R205): 4,000 ticks before the declared end of the running step. -/
def execComposePoint (wing : Fin 4) (s : State) : Host.Outcome State Fault Refusal :=
  if s.dead then .next s else
  let w := wing.val
  .next (if s.composeDue w then (s.updWing w fun y => { y with composeAt := none }).compose w else s)

/-- IDLE_COMPOSE (R154, R208): a wing without a step is composed for as soon as a request is ready, and always where it is fixed-shape; the Curator is woken where it is off. In a tick that has applied a command it waits for the next: the command counts as accepted after a composition of its tick (R101). DEDUCED, log entry 114. -/
def execIdleCompose (wing : Fin 4) (s : State) : Host.Outcome State Fault Refusal :=
  if s.dead then .next s else
  let w := wing.val
  let x := s.wingAt w
  if x.running.isNone && x.pending.isNone && x.composed.isNone && s.kpr.ready && s.served w && !s.frozen w && !x.stopped
      && decide (s.rings.appliedAt ≠ some s.kpr.ktime) && (x.fixedEntry.isSome || !(s.readyWork w).isEmpty) then
    .next (if s.mayCompose w then s.compose w else if s.active .curator then s else s.wake [.curator])
  else .next s

/-- Lead in ticks of a wake for a target tick (R75, R76): FCLK running; warm, if at the tick at which a warm wake would be requested PLL_HOLD_US has not passed since FCLK_ACK fell; else cold. -/
def State.wakeLead (s : State) (target running warm cold : Nat) : Nat :=
  if s.power.fclkAck then running else if s.warmAt (max s.now (target - warm)) then warm else cold

/-- PRE_WAKE (R75): Intake/Merge and Docent before the first intake window opens. -/
def execPreWake (wing : Fin 4) (s : State) : Host.Outcome State Fault Refusal :=
  if s.dead then .next s else
  match (s.wingAt wing.val).preWake with
  | none => .next s
  | some t =>
    if (s.wingAt wing.val).fires s.now (s.wakeLead t.toNat 600 600 4000) t.toNat then
      .next ((s.updWing wing.val fun y => { y with preWake := none }).wake [.intake, .docent])
    else .next s

/-- COMPOSE_WAKE (R75): the Curator before the compose point. -/
def execComposeWake (wing : Fin 4) (s : State) : Host.Outcome State Fault Refusal :=
  if s.dead then .next s else
  match (s.wingAt wing.val).composeWake with
  | none => .next s
  | some t =>
    if (s.wingAt wing.val).fires s.now (s.wakeLead t.toNat 210 320 3700) t.toNat then
      .next ((s.updWing wing.val fun y => { y with composeWake := none }).wake [.curator])
    else .next s

/-! ## The descriptor (R208, R213) -/

/-- The header beat. -/
def State.headerBeat (s : State) (w : Nat) (t : Step) : List Byte :=
  let site := s.site w
  ofLe 2 t.tag.toNat ++ ofLe 2 t.shape.shapeId ++ ofLe 2 (b2n t.replay + b2n t.fixed * 2) ++ ofLe 2 t.rows.length
    ++ ofLe 2 t.chunks.length ++ ofLe 6 0 ++ ofLe 8 t.shape.program.toNat ++ ofLe 8 t.shape.modelBuild.toNat
    ++ ofLe 8 t.composeKtime.toNat ++ ofLe 8 site.ptBase ++ ofLe 8 site.adjBase ++ ofLe 8 site.histBase

/-- A row descriptor. -/
def RowAsg.bytes (r : RowAsg) : List Byte :=
  ofLe 4 r.acc ++ ofLe 1 r.type
    ++ ofLe 1 (r.rowClass + r.adjSel * 4 + b2n (decide (r.type ≠ 0) && decide (r.sampling.method = 1)) * 8)
    ++ ofLe 1 r.gallery ++ ofLe 1 r.spec ++ ofLe 4 r.position ++ ofLe 4 (if r.type = 2 then r.inToken else 0) ++ ofLe 4 r.maskId ++ ofLe 4 r.promptLen
    ++ ofLe 8 r.resultAddr

/-- A chunk descriptor. -/
def Chunk.bytes (c : Chunk) : List Byte :=
  ofLe 4 c.acc ++ ofLe 1 (if c.history then 2 else 1) ++ ofLe 1 (b2n c.last) ++ ofLe 1 c.gallery ++ ofLe 1 0
    ++ ofLe 4 c.firstPos ++ ofLe 2 c.tokens ++ ofLe 2 0 ++ ofLe 8 c.srcAddr ++ ofLe 8 0

/-- Two 32-byte halves to a beat. -/
def pairBeats : List (List Byte) → List (List Byte)
  | [] => []
  | [a] => [slice a 0 64]
  | a :: b :: rest => (a ++ b) :: pairBeats rest

/-- The beats of a step descriptor. -/
def State.descriptorBeats (s : State) (w : Nat) (t : Step) : List (List Byte) :=
  s.headerBeat w t :: (pairBeats (t.rows.map (·.bytes)) ++ pairBeats (t.chunks.map (·.bytes)))

/-- Writes that a descriptor waits for: page tables of the wing, and areas of its requests (R217, R222). -/
def State.writesDone (s : State) (w : Nat) (t : Step) : Bool :=
  !((s.path.smp ++ s.path.smpWait).any fun r => decide (r.wing = w) && match r.use with
    | .pageTable _ _ => true
    | .setup acc => t.hasWork acc
    | _ => false)

/-- Noise-key operations of the wing are acknowledged (R224). -/
def State.keysDone (s : State) (w : Nat) : Bool := !(s.path.kyb.any fun o => o.noise && decide (o.wing = w))

/-- DESCRIPTOR (R208): the composed step's descriptor is transferred and pending at the wing. -/
def execDescriptor (wing : Fin 4) (s : State) : Host.Outcome State Fault Refusal :=
  if s.dead then .next s else
  let w := wing.val
  let x := s.wingAt w
  match x.composed with
  | none => .next s
  | some t =>
    let due := decide (t.gap = 0) || decide (t.planned ≤ s.now + 1)
    if x.pending.isNone && !x.stopped && !s.kpr.halted && !s.resetLow && due && s.writesDone w t && s.keysDone w then
      let s1 := s.updWing w fun y => { y with composed := none, pending := some t }
      let s2 := s1.emit (.descriptor w (s.descriptorBeats w t))
      .next (s2.event 3 0x20 w t.tag.toNat (t.shape.shapeId + b2n t.replay * 2 ^ 31))
    else .next s

/-- REPLAY (R378): the replay of the discarded step takes the next tag, restores its noise keys and is entered in the Daybook; its descriptor follows as any other. It is issued within the power window, as every step is (R173). DEDUCED, log entry 120. -/
def execReplay (wing : Fin 4) (s : State) : Host.Outcome State Fault Refusal :=
  if s.dead then .next s else
  let w := wing.val
  let x := s.wingAt w
  match x.replayOf with
  | none => .next s
  | some d =>
    if s.kpr.ready && s.active .curator && !s.kpr.halted && !x.stopped && x.pending.isNone && x.composed.isNone
        && (d.fixed || s.powerOk w d.shape) then
      let t : Step := { tag := x.nextTag, shape := d.shape, index := d.index, composeKtime := d.composeKtime, rows := d.rows
                        chunks := d.chunks, replay := true, replayTag := some d.tag, fixed := d.fixed, gap := s.gapTo w d.shape
                        planned := s.plannedStart w d.shape, replays := d.replays + 1, throttled := s.throttled }
      let s1 := (s.noiseKeys w x.lastRows d.rows).updWing w fun y => { y with
        replayOf := none, composed := some t, nextTag := y.nextTag + 1, lastRows := rowHolders d.rows }
      .next (((s1.enterStep w t false false [] []).count (1 + w) 2 1).ledgerAdd (ledgerWing w 2) 1)
    else .next s

end Sys2Proof.Machine
end

