-- ==== Sys2Proof/Machine/WingStep.lean ====
section
/-! DEFINITION. A step as it runs: the wing's events, intake windows, breaches and their measures, discards, and what a step boundary does (03 R48 to R55; 01 R9, R20, R21; 07 R454; 09 R193 to R201; 11 R238, R239; 17 R375 to R381): STEP_START, STEP_END, FEED_TAKEN, ENERGY, ERROR_UE, EVENT_RESERVED, HUNG, WINDOW_OPEN, WINDOW_CLOSE, TAIL_OVERRUN. -/

namespace Sys2Proof.Machine

open Sys2Proof.Bytes

/-! ## Steps by tag -/

/-- A step that has begun, by its tag. -/
def Wing.begun (x : Wing) (tag : W16) : Option Step :=
  (x.running.toList ++ x.tails ++ x.past).find? fun t => decide (t.tag = tag)

/-- The wing with a begun step changed. -/
def Wing.mapBegun (x : Wing) (tag : W16) (f : Step → Step) : Wing :=
  let g := fun (t : Step) => if t.tag = tag then f t else t
  { x with running := x.running.map g, tails := x.tails.map g, past := x.past.map g }

/-- The state with a begun step of a wing changed. -/
def State.updStep (s : State) (w : Nat) (tag : W16) (f : Step → Step) : State := s.updWing w fun x => x.mapBegun tag f

/-! ## Breaches (R193, R194, R197, R198, R420) -/

abbrev brDuration : Nat := 0x01
abbrev brOverlap : Nat := 0x03
abbrev brWindow : Nat := 0x04
abbrev brHeader : Nat := 0x05
abbrev brIncomplete : Nat := 0x06
abbrev brStall : Nat := 0x07
abbrev brEnergy : Nat := 0x08
abbrev brLateError : Nat := 0x09
abbrev brHung : Nat := 0x0A

/-- The codes that measure time, bit 31 for TAIL_OVERRUN (R194). -/
def timeCodes : W32 := BitVec.ofNat 32 (2 ^ 0x01 + 2 ^ 0x04 + 2 ^ 0x07 + 2 ^ 0x0A + 2 ^ 31)

/-- Breach codes of a step that count: an excluded step loses those that measure time, one that a late acknowledge covers loses all (R77, R194). -/
def Step.codes (t : Step) : W32 :=
  if t.lateAck then 0 else if t.excluded then t.breaches &&& ~~~ timeCodes else t.breaches

/-- Codes of the shape, without Basam's own. -/
def shapeCodes (c : W32) : W32 := c &&& 0x7FFFFFFF#32

/-- A shape is to be quarantined: three of its last 256 measured steps on the wing have a breach (R198). -/
def ShapeSt.tooMany (t : ShapeSt) : Bool := decide (3 ≤ (t.history.filter id).length)

/-- A step with a breach counted once against its shape (R197, R198, R399, R420). -/
def State.countBreach (s : State) (w : Nat) (t : Step) : State :=
  let codes := shapeCodes t.codes
  if codes = 0 then s
  else
    let fp := fingerprint t.shape.raw
    let s1 := s.breachEntry w fp fun b => { b with
      steps := b.steps + b2n (!t.counted), lastS := s.ledgerAt 0, codes := b.codes ||| codes }
    if t.counted then s1
    else
      let s2 := (s1.updStep w t.tag fun y => { y with counted := true }).count (1 + w) 9 1
      s2.updWing w fun x => x.updShape (shapeKey t.shape) fun y =>
        let y1 := { y with
          breaches := if y.breaches = 0xFFFFFFFF then y.breaches else y.breaches + 1
          history := setNth y.history (y.measured - t.measuredNo) true }
        { y1 with wantQuarantine := y1.wantQuarantine || (!y1.quarantined && !y1.disabled && y1.tooMany) }

/-- The BREACH report of a step, naming the codes not reported before (R197). -/
def State.reportBreaches (s : State) (w : Nat) (tag : W16) : State :=
  match (s.wingAt w).begun tag with
  | none => s
  | some t =>
    let new := t.codes &&& ~~~ t.reported
    if new = 0 then s
    else
      let fp := (fingerprint t.shape.raw).toNat
      let s1 := s.updStep w tag fun y => { y with reported := y.reported ||| new }
      s1.report 0x0001 1 0x03 w 255
        [tag.toNat, t.shape.shapeId, fp % 2 ^ 32, fp / 2 ^ 32, (shapeCodes new).toNat, b2n (new.getLsbD 31)]

/-- A breach of a step found: marked once, entered in the Intake ring where the intake finds it; behind STEP_END it is counted, and behind the report it is reported again. -/
def State.breach (s : State) (w : Nat) (tag : W16) (code : Nat) : State :=
  match (s.wingAt w).begun tag with
  | none => s
  | some t =>
    let b := if code = 0x80 then 31 else code
    if t.breaches.getLsbD b then s
    else
      let s1 := s.updStep w tag fun y => { y with breaches := y.breaches ||| BitVec.ofNat 32 (2 ^ b) }
      let s2 := if [brWindow, brHeader, brIncomplete].contains code then s1.event 4 0x30 w code tag.toNat else s1
      let s3 := if decide (code = 0x80) && !t.excluded then (s2.count (1 + w) 10 1).ledgerAdd 22 1 else s2
      match (s3.wingAt w).begun tag with
      | none => s3
      | some t' =>
        if t'.measuredNo = 0 then s3
        else
          let s4 := s3.countBreach w t'
          if (s4.wingAt w).past.any fun y => y.tag = tag then s4.reportBreaches w tag else s4

/-- Bin of a duration deviation in ticks (R419): 4 to 11 of the wing's Ledger entries. -/
def deviationBin (d : Int) : Nat :=
  if d ≤ -2 then 4 else if d = -1 then 5 else if d = 0 then 6 else if d = 1 then 7
  else if d ≤ 9 then 8 else if d ≤ 99 then 9 else 10

/-- A step measured at its STEP_END (R193, R198, R419). -/
def State.measure (s : State) (w : Nat) (tag : W16) : State :=
  match (s.wingAt w).begun tag with
  | none => s
  | some t =>
    let dur : Int := (s.now : Int) - ((t.started.map (·.toNat)).getD s.now : Nat)
    let dev := dur - (shapeTicks t.shape : Nat)
    let late := !t.excluded && (decide (dev < -1) || decide (1 < dev))
    let s0 := if late then s.breach w tag brDuration else s
    let hung := t.breaches.getLsbD brHung
    let s1 := if t.excluded then s0.ledgerAdd (ledgerWing w 1) 1
      else
        let b := s0.ledgerAdd (ledgerWing w 0) 1
        b.ledgerAdd (ledgerWing w (if hung then 11 else deviationBin dev)) 1
    let key := shapeKey t.shape
    let n := ((s1.wingAt w).shapeSt t.shape).measured + 1
    let s2 := (s1.updWing w fun x => x.updShape key fun y => { y with measured := n, history := (false :: y.history).take 256 }).updStep
      w tag fun y => { y with measuredNo := n }
    match (s2.wingAt w).begun tag with
    | none => s2
    | some t' => s2.countBreach w t'

/-! ## Energy (R454) -/

/-- The step's energy divided among galleries. -/
def State.attribute (s : State) (t : Step) : State :=
  let e := (t.energy.map (·.toNat)).getD t.shape.energyUj
  let slots := t.shape.rows + t.shape.chunkSlots
  let share := e / max 1 slots
  let charge := fun (s : State) (g n : Nat) => s.updGal g fun x => { x with counts := { x.counts with energy := x.counts.energy + BitVec.ofNat 64 n } }
  let s1 := t.rows.foldl (fun u r => charge u (if r.type = 0 then 0 else r.gallery) share) s
  let s2 := t.chunks.foldl (fun u c => charge u c.gallery share) s1
  charge s2 0 (e - share * (t.rows.length + t.chunks.length))

/-! ## Steps that are over -/

/-- Every row of the step is committed, void or padding. -/
def Step.finished (t : Step) : Bool :=
  t.rows.all fun r => decide (r.type = 0) || r.void || t.committed.contains r.row

/-- A step kept by its tag alone. -/
def Step.bare (t : Step) : Step :=
  { t with rows := [], chunks := [], bursts := [], headers := [], released := [], freed := [], units := [], committed := [], read := [] }

/-- A step leaves: its breaches are reported, and its tag is kept. -/
def State.retireStep (s : State) (w : Nat) (tag : W16) : State :=
  let s1 := s.reportBreaches w tag
  match (s1.wingAt w).begun tag with
  | none => s1
  | some t => s1.updWing w fun x => { x with
      tails := x.tails.filter fun y => decide (y.tag ≠ tag), past := (t.bare :: x.past).take 256 }

/-- Ended steps of a wing whose rows are all done leave. -/
def State.settle (s : State) (w : Nat) : State :=
  ((s.wingAt w).tails.filter Step.finished).foldl (fun u t => u.retireStep w t.tag) s

/-! ## Discards (R239, R375 to R381) -/

/-- Units of a step taken out of the merge queue and the dispatcher, its row areas freed (R239). -/
def State.purgeUnits (s : State) (w : Nat) (tag : W16) : State :=
  let s1 := { s with path := { s.path with
    mergeQueue := s.path.mergeQueue.filter fun (u : MUnit) => !(decide (u.wing = w) && decide (u.tag = tag))
    dispatch := s.path.dispatch.filter fun (u : MergeRes) => !(decide (u.wing = w) && decide (u.tag = tag)) } }
  s1.updStep w tag fun t => { t with bursts := [], headers := [], units := [], freed := List.range t.shape.rows }

/-- The composition of a step is void (R379): its chunks are owed again, and a changed adjustment area is to be written again, into the half that the request's last descriptor does not name (R222). -/
def State.voidComposition (s : State) (t : Step) : State :=
  let s1 := t.chunks.foldl (fun u c => u.updReq c.acc fun x => { x with covered := min x.covered c.firstPos }) s
  (t.rows.filter fun a => decide (a.type ≠ 0) && decide (a.adjSel ≠ a.adjBefore)).foldl
    (fun u a => u.updReq a.acc fun x => { x with adjHalf := a.adjBefore, adjDirty := true }) s1

/-- The stream of a dropped step releases the gate (R54). -/
def Wing.openGate (x : Wing) (t : Step) : Wing := if x.feedGate = some t.tag then { x with feedGate := none } else x

/-- The next tag once a composed step goes: the tag of a descriptor never issued is the next to be issued (R48), unless a stream carried it. DEDUCED, log entry 119. -/
def Wing.tagBack (x : Wing) : W16 :=
  match x.composed with
  | some t => if t.fedBeats = 0 then t.tag else x.nextTag
  | none => x.nextTag

/-- A replay not begun, waiting again as the discarded step it repeats. -/
def Step.replayAgain (t : Step) : Step :=
  { t with replays := t.replays - 1, tag := t.replayTag.getD t.tag, fedAt := none, fedBeats := 0, taken := false }

/-- The steps composed or pending behind a discarded one dropped (R376, R377). -/
def State.dropBehind (s : State) (w : Nat) : State :=
  let x := s.wingAt w
  let dropped := x.pending.toList ++ x.composed.toList
  (dropped.foldl State.voidComposition s).updWing w fun y =>
    { dropped.foldl Wing.openGate y with
      pending := none, composed := none, nextTag := x.tagBack }

/-- A descriptor pending behind a step already discarded is dropped once more (R376): it can only be that step's replay, which waits again. DEDUCED, log entry 118. -/
def State.dropReplay (s : State) (w : Nat) : State :=
  match (s.wingAt w).pending with
  | none => s
  | some p => s.updWing w fun y =>
      { y.openGate p with pending := none, replayOf := some p.replayAgain }

/-- REPLAYS of every gallery with a row in a step that is to be replayed (R157). -/
def State.galleryReplays (s : State) (t : Step) : State :=
  (((t.rows.filter fun r => decide (r.type ≠ 0)).map (·.gallery)).eraseDups).foldl (fun u g =>
    u.updGal g fun x => { x with counts := { x.counts with replays := x.counts.replays + 1 } }) s

/-- The step waits for its replay, or the wing's issue ends with the third replay discarded (R381). -/
def State.askReplay (s : State) (w : Nat) (t : Step) : State :=
  if t.replays < 3 then (s.galleryReplays t).updWing w fun x => { x with replayOf := some t }
  else ((s.updWing w fun x => { x with stopped := true }).report 0x0021 2 0x03 w 255 [t.tag.toNat, t.shape.shapeId]).ledgerAdd 23 1

/-- A drop notice ends a stream in progress: the running step's begins again (R377). -/
def Wing.endStream (x : Wing) (t : Step) : Wing :=
  if t.fedAt.isNone && decide (0 < t.fedBeats) then
    { x.openGate t with running := x.running.map fun y => { y with fedBeats := 0 } }
  else x

/-- The running step discarded with a cause of R407: 1 ERROR_UE, 2 incomplete row, 3 intake read, 4 soft reset. -/
def State.discardRunning (s : State) (w cause : Nat) : State :=
  match (s.wingAt w).running with
  | none => s
  | some t =>
    if t.discarded ≠ 0 then s
    else
      let s1 := (s.updStep w t.tag fun y => { y with discarded := cause }).purgeUnits w t.tag
      let s2 := s1.event 3 0x26 w t.tag.toNat cause
      let s3 := if cause = 1 then s2 else (s2.updWing w fun x => x.endStream t).emit (.dropNotice w t.tag)
      (s3.dropBehind w).askReplay w { t with discarded := 0 }

/-- The commit is one of a step's, and has committed a token. -/
def CommitJob.holds (j : CommitJob) (w : Nat) (tag : W16) (begun : Bool) : Bool :=
  decide (j.wing = w) && decide (j.tag = tag) && ((!j.done.isEmpty || decide (j.firstPos ≠ j.runPos)) == begun)

/-- The rows of an ended step as its replay carries them: a row that has committed a token is void there (DEDUCED, log entry 25). -/
def State.replayRows (s : State) (w : Nat) (t : Step) : Step :=
  { t with discarded := 0, rows := t.rows.map fun (r : RowAsg) =>
      if t.committed.contains r.row || s.path.jobs.any fun j => j.holds w t.tag true && decide (j.row = r.row) && decide (j.acc = r.acc)
      then { r with void := true } else r }

/-- The commits of a step that is discarded end (R18): tokens committed stand, with the checks of the last of them; no later token of the run is committed, and the answer to the write of the next commits nothing. -/
def State.stopJobs (s : State) (w : Nat) (tag : W16) : State :=
  let accs := (s.path.jobs.filter fun j => j.holds w tag false).map (·.acc)
  let mute := fun (q : SmpReq) => match q.use with
    | .history acc _ => if accs.contains acc then { q with use := .setup acc } else q
    | _ => q
  { s with path := { s.path with
    smp := s.path.smp.map mute, smpWait := s.path.smpWait.map mute
    jobs := (s.path.jobs.filter fun j => !j.holds w tag false).map fun j =>
      if j.holds w tag true then { j with todo := [], noCandidate := false } else j } }

/-- An ended step discarded while its rows commit: a chained discard where the next step has begun (R380); the next step runs through with void rows and its composition is void. -/
def State.discardTail (s : State) (w : Nat) (tag : W16) (cause : Nat) : State :=
  match (s.wingAt w).tails.find? fun t => t.tag = tag with
  | none => s
  | some t =>
    let s1 := (s.updStep w tag fun y => { y with discarded := cause }).purgeUnits w tag
    let s2 := s1.event 3 0x26 w tag.toNat cause
    let s2a := match (s2.wingAt w).replayOf with
      | some d => s2.voidComposition d
      | none => s2
    let s3 := (s2a.stopJobs w tag).dropBehind w
    let s4 := match (s3.wingAt w).running with
      | none => s3
      | some n =>
        if n.discarded ≠ 0 then s3.updStep w n.tag fun y => { y with rows := y.rows.map fun (r : RowAsg) => { r with void := true } }
        else
          let u := (s3.voidComposition n).ledgerAdd (ledgerWing w 3) 1
          (((u.updStep w n.tag fun y => { y with
            discarded := cause, rows := y.rows.map fun (r : RowAsg) => { r with void := true } }).purgeUnits w n.tag).event 3 0x26 w n.tag.toNat cause)
    ((s4.updWing w fun x => { x with replayOf := none }).askReplay w (s.replayRows w t)).retireStep w tag

/-- A step discarded, running or ended. -/
def State.discardStep (s : State) (w : Nat) (tag : W16) (cause : Nat) : State :=
  if ((s.wingAt w).running.map (·.tag)) = some tag then s.discardRunning w cause else s.discardTail w tag cause

/-! ## Windows (R51, R238) -/

/-- The run of a step overlaps a throttling period (R201). -/
def Step.overlaps (t : Step) (s : State) : Bool := s.throttled || (t.throttled && t.excluded)

/-- Time is measured for a step (R194). -/
def Step.free (t : Step) (s : State) : Bool := !t.excluded && !s.throttled

/-- A row of a window has not been released. -/
def Step.lacksRow (t : Step) (win : Window) : Bool :=
  (List.range win.rowCount).any fun i => !t.released.contains (win.firstRow + i)

/-- WINDOW_OPEN (R51, R77): the window takes beats; an Intake/Merge domain not yet active at the first open is a late acknowledge. -/
def execWindowOpen (wing : Fin 4) (window : Nat) (s : State) : Host.Outcome State Fault Refusal :=
  if s.dead then .next s else
  let w := wing.val
  match (s.wingAt w).running with
  | none => .next s
  | some t =>
    match t.shape.windows[window]? with
    | none => .next s
    | some win =>
      if t.openWindows.contains window || t.closedWindows.contains window || decide (s.now < t.startAt + win.openAt) then .next s
      else
        let first := t.openWindows.isEmpty && t.closedWindows.isEmpty
        let s1 := s.updStep w t.tag fun y => { y with openWindows := window :: y.openWindows }
        if first && !s.active .intake then
          let x := s.power.intake
          let lat := s.now - x.wokenAt.toNat
          let s2 := ((s1.updStep w t.tag fun y => { y with excluded := true, lateAck := true }).count 0 13 1).ledgerAdd 10 1
          .next (s2.report 0x0002 1 0x08 w 255 [t.tag.toNat, lat, b2n (!s.power.fclkAck) + 2 * b2n (!s.power.registrar.ack) + b2n (!x.ack) * 2 ^ 3])
        else .next s1

/-- A window of the running step closed (R238): an unreleased row discards the step; in a throttling period the test waits for STEP_END. -/
def State.closeWindow (s : State) (w window : Nat) : State :=
  match (s.wingAt w).running with
  | none => s
  | some t =>
    match t.shape.windows[window]? with
    | none => s
    | some win =>
      let all := decide (t.closedWindows.length + 1 = t.shape.windows.length)
      let s1 := s.updStep w t.tag fun y => { y with
        openWindows := y.openWindows.filter (· != window), closedWindows := window :: y.closedWindows
        closing := y.closing.filter (· != window)
        lastClose := if all then some (BitVec.ofNat 64 (t.startAt + win.closeAt)) else y.lastClose }
      if !t.overlaps s && decide (t.discarded = 0) && t.lacksRow win then (s1.breach w t.tag brIncomplete).discardRunning w 2
      else s1

/-- Windows whose CLOSE tick has passed since their WINDOW_CLOSE arrived in it. -/
def State.closeDue (s : State) (w : Nat) : State :=
  match (s.wingAt w).running with
  | none => s
  | some t => t.closing.foldl (fun u i => u.closeWindow w i) s

/-- WINDOW_CLOSE (R238): the window closes at the end of its CLOSE tick, which still admits beats (R182, R242). DEDUCED, log entry 115. -/
def execWindowClose (wing : Fin 4) (window : Nat) (s : State) : Host.Outcome State Fault Refusal :=
  if s.dead then .next s else
  let w := wing.val
  match (s.wingAt w).running with
  | none => .next s
  | some t =>
    match t.shape.windows[window]? with
    | none => .next s
    | some win =>
      let at_ := t.startAt + win.closeAt
      if t.closedWindows.contains window || t.closing.contains window || decide (s.now < at_) then .next s
      else if s.now = at_ then .next (s.updStep w t.tag fun y => { y with closing := window :: y.closing })
      else .next (s.closeWindow w window)

/-! ## Events of a step (R48 to R50) -/

/-- The Curator's entry of a word that names no begun step, or has a reserved TYPE (R49). -/
def State.reservedEvent (s : State) (w : Nat) (tag : W16) (high : Nat) : State := s.event 3 0x25 w tag.toNat high

/-- Bits [63:32] of an event word. -/
def eventHigh (type : Nat) (tag : W16) : Nat := type * 2 ^ 24 + tag.toNat

/-- The FLAG entry of a step whose STEP entry lacks THROTTLED, and its exclusion (R194, R201, R225). Bytes 4 to 31 of the entry are not laid out: free values (log entry 5). -/
def State.flagStep (s : State) (w : Nat) (t : Step) : State :=
  let s1 := s.updStep w t.tag fun y => { y with excluded := true, throttled := true }
  if t.throttled || (s.wingAt w).dbkSelect then s1
  else { s1.daybook w [ofLe 1 3 ++ ofLe 1 w ++ ofLe 2 t.tag.toNat ++ (List.range 28).map (Config.flagByte s1.free)] with free := s1.free + 1 }

/-- Timers of a step that begins (R75). -/
def Wing.armTimers (x : Wing) (t : Step) (now : Nat) : Wing :=
  let at_ := fun (d : Nat) => BitVec.ofNat 64 (now + d)
  let opens := t.shape.windows.map (·.openAt)
  let cp := shapeTicks t.shape - 4000
  { x with
    preWake := (minOf opens).map at_, composeWake := some (at_ cp), composeAt := some (at_ cp), armedAt := BitVec.ofNat 64 now }

/-- The policy a step was composed under comes into force as it begins (R154). -/
def Wing.takePolicy (x : Wing) (t : Step) : Wing :=
  match t.policyNew, x.policyNext with
  | some p, some n => { x with policy := p, policyNext := if n = p then none else some n }
  | _, _ => x

/-- STEP_START (R49): the pending descriptor's step begins in this tick. A tag that names no pending step, that of a step begun before included, is a reserved event (DESIGN CHOICE, log entry 111). -/
def execStepStart (wing : Fin 4) (tag : W16) (s : State) : Host.Outcome State Fault Refusal :=
  if s.dead then .next s else
  let w := wing.val
  let x := s.wingAt w
  match x.pending, x.running with
  | some t, none =>
    if t.tag ≠ tag then .next (s.reservedEvent w tag (eventHigh 1 tag))
    else
      let t1 := { t with started := some s.kpr.ktime }
      let s1 := s.updWing w fun y =>
        ({ y with pending := none, running := some t1 }).armTimers t1 s.now
      let s2 := (if t.sectionNew then s1.flip w else s1).updWing w fun y => y.takePolicy t
      let s3 := (s2.event 3 0x21 w tag.toNat t.shape.shapeId).count (1 + w) 1 1
      .next (if s.throttled then s3.flagStep w t1 else s3)
  | _, _ => .next (s.reservedEvent w tag (eventHigh 1 tag))

/-- Positions whose KV a step has written, kept on its requests (R219). -/
def State.kvWritten (s : State) (t : Step) : State :=
  let mark := fun (u : State) (acc lo hi : Nat) => u.updReq acc fun x => { x with
    kvDone := max x.kvDone hi
    variantFrom := if t.shape.rowInvariant then x.variantFrom else some (min lo (x.variantFrom.getD lo)) }
  let s1 := t.chunks.foldl (fun u c => mark u c.acc c.firstPos (c.firstPos + c.tokens)) s
  (t.rows.filter fun r => decide (r.type = 2)).foldl (fun u r => mark u r.acc r.position (r.position + 1)) s1

/-- PREFILL ends with the step of the last chunk (R20). -/
def State.prefillEnds (s : State) (t : Step) : State :=
  (t.chunks.filter (·.last)).foldl (fun u c => (u.updReq c.acc fun x =>
    if x.state == .prefill then { x with state := if x.kind = 1 then .prefill else .running, reprefill := false } else x).checkHeld c.acc) s

/-- A row of the request in a step that has ended is still to be committed. -/
def State.committing (s : State) (r : Req) : Bool :=
  (s.wingAt r.wing).tails.any (fun t => t.rows.any fun a => a.of r.acc && !a.void && !t.committed.contains a.row)
    || s.path.jobs.any fun j => decide (j.acc = r.acc)

/-- Requests with a deaccession that waits end at the boundary: a deadline once no row of the ended step is left to commit, the others once no row is left at all (R23, R171). -/
def State.boundaryEnds (s : State) (w : Nat) : State :=
  (s.liveReqs.filter fun r => decide (r.wing = w) && decide (r.pendingReason ≠ 0) && r.state != .deaccessioned).foldl (fun u r =>
    if (if r.pendingReason = 5 then u.committing r else u.holdsRow r) then u else (u.updReq r.acc fun x => { x with pendingReason := 0 }).deaccession r.acc r.pendingReason) s

/-- A read of the KV mirror's drop count on a paired wing (R359). -/
def State.readMirrorStatus (s : State) (w : Nat) : State :=
  if (s.wingAt w).paired && s.mirroring then
    s.smpSend { wing := w, op := 0, addr := (s.site w).mirrorStatus / 64 * 64, keySlot := 64, use := .mirrorStatus w }
  else s

/-- STEP_END of the running step (R9, R20, R21, R195, R238, R454). -/
def State.endStep (s : State) (w : Nat) (t : Step) : State :=
  let tag := t.tag
  let tests := if !t.overlaps s then (t.shape.windows.zipIdx.filter fun p => !t.closedWindows.contains p.2).map (·.1) else t.shape.windows
  let s1 := if decide (t.discarded = 0) && tests.any t.lacksRow then (s.breach w tag brIncomplete).discardRunning w 2 else s
  match (s1.wingAt w).running with
  | none => s1
  | some t1 =>
    let dur := s.now - t1.startAt
    let s2 := s1.updWing w fun x => { x with
      running := none, lastEnd := some (s.now, t1.shape), composeAt := none, composeWake := none, preWake := none
      tails := x.tails ++ [{ t1 with ended := some s.kpr.ktime, openWindows := [] }] }
    let s3 := (((s2.measure w tag).attribute t1).count (1 + w) 14 t1.shape.energyUj).count (1 + w) 15 ((t1.energy.map (·.toNat)).getD 0)
    let s4 := if t1.throttled && t1.excluded then s3.count (1 + w) 13 1 else s3
    let s5 := s4.event 3 0x22 w tag.toNat dur
    let s6 := if t1.discarded = 0 then (s5.kvWritten t1).prefillEnds t1 else s5.retireStep w tag
    (((s6.boundaryEnds w).boundaryFrees w).sweepAids.settle w).readMirrorStatus w

/-- STEP_END (R9): the boundary of the wing. -/
def execStepEnd (wing : Fin 4) (tag : W16) (s : State) : Host.Outcome State Fault Refusal :=
  if s.dead then .next s else
  let w := wing.val
  let x := s.wingAt w
  match x.running with
  | some t =>
    if t.tag = tag then .next (s.endStep w t)
    else if (x.begun tag).isSome then .next s else .next (s.reservedEvent w tag (eventHigh 2 tag))
  | none => if (x.begun tag).isSome then .next s else .next (s.reservedEvent w tag (eventHigh 2 tag))

/-- FEED_TAKEN (R54): the gate opens; a wait although the stream was complete before the feed point is a stall. -/
def execFeedTaken (wing : Fin 4) (tag : W16) (info : W32) (s : State) : Host.Outcome State Fault Refusal :=
  if s.dead then .next s else
  let w := wing.val
  match (s.wingAt w).begun tag with
  | none => .next (s.reservedEvent w tag (eventHigh 3 tag))
  | some t =>
    let s1 := (s.event 3 0x23 w tag.toNat info.toNat).count (1 + w) 11 info.toNat
    let s2 := s1.updWing w fun x => { (x.mapBegun tag fun y => { y with taken := true }) with
      feedGate := if x.feedGate = some tag then none else x.feedGate }
    let inTime := match t.fedAt with
      | none => false
      | some f => decide (f.toNat < t.startAt + t.shape.feedOffset)
    .next (if decide (info ≠ 0) && inTime && t.free s then s2.breach w tag brStall else s2)

/-- ENERGY (R48, R193, R454). -/
def execEnergy (wing : Fin 4) (tag : W16) (info : W32) (s : State) : Host.Outcome State Fault Refusal :=
  if s.dead then .next s else
  let w := wing.val
  match (s.wingAt w).begun tag with
  | none => .next (s.reservedEvent w tag (eventHigh 4 tag))
  | some t =>
    let s1 := if t.ended.isNone then s.updStep w tag fun y => { y with energy := some info } else s
    .next (if t.shape.energyUj < info.toNat then s1.breach w tag brEnergy else s1)

/-- ERROR_UE (R50): the running step is discarded; behind STEP_END it is a late error. -/
def execErrorUe (wing : Fin 4) (tag : W16) (info : W32) (s : State) : Host.Outcome State Fault Refusal :=
  if s.dead then .next s else
  let w := wing.val
  match (s.wingAt w).begun tag with
  | none => .next (s.reservedEvent w tag (eventHigh 0x10 tag))
  | some t =>
    let s1 := s.event 3 0x24 w tag.toNat info.toNat
    .next (if t.ended.isSome then s1.breach w tag brLateError else if t.discarded ≠ 0 then s1.dropReplay w else s1.discardRunning w 1)

/-- Types of event words that are defined (R48). -/
def eventTypes : List Nat := [0x01, 0x02, 0x03, 0x04, 0x10]

/-- EVENT_RESERVED (R49): an event word of a reserved TYPE, or that names no begun step, is entered and otherwise ignored. -/
def execEventReserved (wing : Fin 4) (word : W64) (s : State) : Host.Outcome State Fault Refusal :=
  if s.dead then .next s else
  let x := s.wingAt wing.val
  let type := bits word.toNat 63 56
  let tag := BitVec.ofNat 16 (bits word.toNat 47 32)
  let starts := decide (type = 1) && decide ((x.pending.map (·.tag)) = some tag)
  if eventTypes.contains type && ((x.begun tag).isSome || starts) then .next s
  else .next (s.reservedEvent wing.val tag (word.toNat / 2 ^ 32))

/-- HUNG (R193, R196): no STEP_END 1,000 ticks behind the declared end. -/
def execHung (wing : Fin 4) (s : State) : Host.Outcome State Fault Refusal :=
  if s.dead then .next s else
  let w := wing.val
  match (s.wingAt w).running with
  | none => .next s
  | some t =>
    if decide (t.startAt + shapeTicks t.shape + 1000 ≤ s.now) && !t.breaches.getLsbD brHung && t.free s then
      .next ((s.breach w t.tag brHung).report 0x0004 2 0x03 w 255 [t.tag.toNat, t.shape.shapeId])
    else .next s

/-- The step that follows a step on its wing and reads a feed stream. -/
def Wing.nextFed (x : Wing) (t : Step) : Option Step :=
  let later := if (x.running.map (·.tag)) = some t.tag then x.pending.toList ++ x.composed.toList
    else x.running.toList ++ x.pending.toList ++ x.composed.toList
  (later.head?).filter fun n => hasFeed n.shape

/-- TAIL_OVERRUN (R192, R193): the next step's feed stream is incomplete 4,000 ticks behind the last close. -/
def execTailOverrun (wing : Fin 4) (s : State) : Host.Outcome State Fault Refusal :=
  if s.dead then .next s else
  let w := wing.val
  let x := s.wingAt w
  match (x.running.toList ++ x.tails.reverse).find? fun t => t.lastClose.isSome with
  | none => .next s
  | some t =>
    let due := decide (((t.lastClose.map (·.toNat)).getD 0) + 4000 ≤ s.now)
    match x.nextFed t with
    | none => .next s
    | some n => if due && decide (t.discarded = 0) && n.fedAt.isNone && t.free s then .next (s.breach w t.tag 0x80) else .next s

end Sys2Proof.Machine
end

