-- ==== Sys2Proof/Machine/Intake.lean ====
section
/-! DEFINITION. Candidate intake and the tournament merge (11 R227 to R254): CANDIDATE_BURST, SHARD_HEADER, TREE_TAKE, ROW_AREA_FREE, MERGE_RESULT. -/

namespace Sys2Proof.Machine

open Sys2Proof.Bytes

/-! ## The ring layout (R227, R228, R231) -/

/-- The window of a shape that holds a row. -/
def windowOf (e : CatEntry) (r : Nat) : Option Window :=
  e.windows.find? fun w => decide (w.firstRow ≤ r) && decide (r < w.firstRow + w.rowCount)

/-- A_j of a row. -/
def areaOf (e : CatEntry) (r : Nat) : Nat := ((windowOf e r).map (rowArea e)).getD 0

/-- c_r: the start of a row's area, not reduced modulo the ring. -/
def areaStart (e : CatEntry) (r : Nat) : Nat := sumOf ((List.range r).map (areaOf e))

/-- Offset of a ring position in the area of a row, if the area contains it. -/
def offsetIn (n : Nat) (e : CatEntry) (r p : Nat) : Option Nat :=
  let off := (p + n - areaStart e r % n) % n
  if off < areaOf e r then some off else none

/-- The row to which a burst at a ring position is attributed: the earliest whose area contains it and is not freed (R231). -/
def Step.attribute (t : Step) (n p : Nat) : Option Nat :=
  (List.range t.shape.rows).find? fun r => !t.freed.contains r && (offsetIn n t.shape r p).isSome

/-- A burst's place: row, slot, shard, burst number, and its window. -/
structure Place where
  row : Nat
  slot : Nat
  shard : Nat
  burst : Nat
  win : Window
deriving DecidableEq, Repr

/-- The place of a ring position (R228). -/
def Step.place (t : Step) (n p : Nat) : Option Place := do
  let r ← t.attribute n p
  let off ← offsetIn n t.shape r p
  let w ← windowOf t.shape r
  let per := w.candBursts + 1
  return { row := r, slot := off / per / max 1 w.shards, shard := off / per % max 1 w.shards, burst := off % per, win := w }

/-- Ring position of a burst of a place's shard. -/
def Place.position (q : Place) (n : Nat) (e : CatEntry) (b : Nat) : Nat :=
  (areaStart e q.row + (q.slot * q.win.shards + q.shard) * (q.win.candBursts + 1) + b) % n

/-- Key of a merge unit, and of a shard's header. -/
def unitKey (row slot : Nat) : Nat := row * 16 + slot
def headerKey (row slot shard : Nat) : Nat := unitKey row slot * 64 + shard

/-! ## Records and headers (R232 to R236) -/

/-- The candidate record of 8 bytes of a shard. -/
def parseCand (bs : List Byte) (shard number : Nat) : Cand :=
  let v := field bs 0 8
  { index := bits v 63 40, value := s32 (bits v 31 0), noised := bit v 32, shard := shard, number := number }

/-- RECORDS of a header. -/
def headerRecords (h : List Byte) : Nat := field h 6 2

/-- SHARD_MAX of a header. -/
def headerMax (h : List Byte) : Int := s32 (field h 8 4)

/-- The records a shard sent, as its bursts hold them. -/
def Step.shardRecords (t : Step) (n : Nat) (q : Place) (count : Nat) : List Cand :=
  (List.range count).map fun i =>
    let bs := SMap.getD t.bursts (q.position n t.shape (i / 8)) []
    parseCand (slice bs (i % 8 * 8) 8) q.shard i

/-- Records that take part in the merge (R233). -/
def State.takesPart (s : State) (c : Cand) : Bool := decide (c.index < s.tokenLimit)

/-- Checks 2 to 5 of R236. -/
def Step.headerOk (t : Step) (n : Nat) (q : Place) (h : List Byte) : Bool :=
  decide (bits (field h 0 2) 10 0 = q.row) && decide (bits (field h 2 1) 3 0 = q.slot) && decide (bits (field h 3 1) 5 0 = q.shard)
    && decide (field h 4 1 = q.win.shards)
    && (SMap.find t.headers (headerKey q.row q.slot q.shard)).isNone
    && decide (headerRecords h ≤ 8 * q.win.candBursts)
    && (List.range (ceilDiv (headerRecords h) 8)).all fun b => (SMap.find t.bursts (q.position n t.shape b)).isSome

/-- Check 6 of R236. -/
def maxOk (h : List Byte) (cs : List Cand) : Bool :=
  decide (headerRecords h = 0) || cs.all fun c => c.noised || decide (c.value ≤ headerMax h)

/-! ## Release (R237, R240) -/

/-- A slot of a row holds all its headers. -/
def Step.unitComplete (t : Step) (row slot shards : Nat) : Bool :=
  (List.range shards).all fun sh => (SMap.find t.headers (headerKey row slot sh)).isSome

/-- Every slot of a row is complete. -/
def Step.rowComplete (t : Step) (row shards : Nat) : Bool :=
  (List.range (t.shape.specWidth + 1)).all fun d => t.unitComplete row d shards

/-- Order of the merge queue: release tick, wing, row, slot. -/
def MUnit.before (a b : MUnit) : Bool :=
  let k := fun (u : MUnit) => [u.queuedAt.toNat, u.wing, u.row, u.slot]
  lexLt (k a) (k b)

/-- A row released: its units are queued, or discarded where they need no merge (R237). -/
def State.releaseRow (s : State) (w : Nat) (t : Step) (row : Nat) : State :=
  let asg := nth t.rows row {}
  let wanted := fun (d : Nat) => (decide (asg.type = 1) || decide (asg.type = 2)) && !asg.void && decide (d ≤ asg.drafts.length)
  let slots := List.range (t.shape.specWidth + 1)
  let gone := slots.filter fun d => !wanted d
  let s1 := s.updStep w t.tag fun y => { y with
    released := row :: y.released
    units := gone.foldl (fun m d => SMap.put m (unitKey row d) .discarded) y.units
    read := gone.map (unitKey row) ++ y.read }
  let us := (slots.filter wanted).map fun d => (MUnit.mk w t.tag row d s.kpr.ktime)
  { s1 with path := { s1.path with mergeQueue := sortBy MUnit.before (s1.path.mergeQueue ++ us) } }

/-! ## Bursts (R51, R231, R236) -/

/-- A header burst that passed its checks: kept, its failures counted, its row released when it was the last. -/
def State.headerArrives (s : State) (w : Nat) (t : Step) (n : Nat) (q : Place) (h : List Byte) : State :=
  let all := t.shardRecords n q (headerRecords h)
  let cs := all.filter s.takesPart
  let s1 := if decide (cs.length < all.length) || !maxOk h cs then s.breach w t.tag brHeader else s
  let t1 := { t with headers := SMap.put t.headers (headerKey q.row q.slot q.shard) (slice h 0 32) }
  let s2 := (s1.wrote 7).updStep w t.tag fun y => { y with headers := t1.headers }
  if t1.rowComplete q.row q.win.shards then s2.releaseRow w t1 q.row else s2

/-- One enabled burst of a beat in an open window. -/
def State.burstArrives (s : State) (w p : Nat) (marked : Bool) (bs : List Byte) : State :=
  match (s.wingAt w).running with
  | none => s
  | some t =>
    let n := intakeBursts s.kpr.size
    match t.place n p with
    | none => s.breach w t.tag brWindow
    | some q =>
      let arrived := (SMap.find t.headers (headerKey q.row q.slot q.shard)).isSome
      if t.released.contains q.row then s.breach w t.tag brWindow
      else if q.burst = q.win.candBursts then
        (if marked && t.headerOk n q bs then s.headerArrives w t n q bs else s.breach w t.tag brHeader)
      else if marked || arrived then s.breach w t.tag brHeader
      else (s.wrote 7).updStep w t.tag fun y => { y with bursts := SMap.put y.bursts p (slice bs 0 64) }

/-- A window opened, and its CLOSE tick has not passed (R182). -/
def Step.admits (t : Step) (now window : Nat) : Bool :=
  (t.shape.windows[window]?).any fun win => decide (now ≤ t.startAt + win.closeAt)

/-- Beats of the running step are taken now: a window is open, or in a throttling period one has been (R51, R182, R201). -/
def Step.windowOpen (t : Step) (s : State) : Bool :=
  t.openWindows.any (t.admits s.now) || (t.overlaps s && !(t.openWindows.isEmpty && t.closedWindows.isEmpty))

/-- Areas of rows whose every unit is read or discarded, freed with their written bits (R229). -/
def Step.freeAreas (t : Step) (n : Nat) : Step :=
  let due := t.released.filter fun r => !t.freed.contains r && (List.range (t.shape.specWidth + 1)).all fun d => t.read.contains (unitKey r d)
  due.foldl (fun y r => { y with freed := r :: y.freed, bursts := y.bursts.filter fun b => (offsetIn n y.shape r b.1).isNone }) t

/-- A burst at a ring position belongs to a row not yet released (R231). -/
def Step.takes (t : Step) (n p : Nat) : Bool := ((t.place n p).map fun q => !t.released.contains q.row).getD false

/-- A beat on CIP of a wing whose step runs: bursts given as (position, header mark, bytes). A freeing that is due comes first (R242), and a burst that belongs to no row, or to a released one, discards the beat (R231). -/
def State.beat (s : State) (w : Nat) (ok : Bool) (bursts : List (Nat × Bool × List Byte)) : State :=
  match (s.wingAt w).running with
  | none => s
  | some t =>
    let s1 := s.count 9 (8 + w) 1
    if bursts.isEmpty then s1
    else if !t.windowOpen s then s1.breach w t.tag brWindow
    else if t.discarded ≠ 0 then s1
    else
      let n := intakeBursts s.kpr.size
      let t1 := t.freeAreas n
      let s2 := s1.updStep w t.tag fun y => y.freeAreas n
      if !ok || bursts.any (fun b => !t1.takes n b.1) then s2.breach w t.tag brWindow
      else bursts.foldl (fun u b => u.burstArrives w b.1 b.2.1 b.2.2) s2

/-- CIP_READY of a running wing needs the Intake/Merge domain (R51, R77). -/
def State.cipReady (s : State) : Bool := s.active .intake && !s.kpr.halted && !s.resetLow

/-- CANDIDATE_BURST (R231): one beat, its first burst at CIP_ADDR, its second behind it. -/
def execCandidateBurst (wing : Fin 4) (addr : Nat) (ben hdr : BitVec 2) (data : List Byte) (s : State) : Host.Outcome State Fault Refusal :=
  if s.dead then .next s else
  let n := intakeBursts s.kpr.size
  let lo := if ben.getLsbD 0 then [(addr, hdr.getLsbD 0, slice data 0 64)] else []
  let hi := if ben.getLsbD 1 then [((addr + 1) % n, hdr.getLsbD 1, slice data 64 64)] else []
  if s.cipReady then .next (s.beat wing.val (decide (addr < n)) (lo ++ hi)) else .next s

/-- SHARD_HEADER (R236): one beat that carries one burst, marked as a header or not. -/
def execShardHeader (wing : Fin 4) (pos : Nat) (marked : Bool) (data : List Byte) (s : State) : Host.Outcome State Fault Refusal :=
  if s.dead then .next s else
  if s.cipReady then .next (s.beat wing.val (decide (pos < intakeBursts s.kpr.size)) [(pos, marked, slice data 0 64)]) else .next s

/-- ROW_AREA_FREE (R229): every unit of a released row is read or discarded, so its area is freed and its written bits are cleared. -/
def execRowAreaFree (wing : Fin 4) (row : Nat) (s : State) : Host.Outcome State Fault Refusal :=
  if s.dead then .next s else
  let w := wing.val
  let x := s.wingAt w
  let n := intakeBursts s.kpr.size
  match (x.tails ++ x.running.toList).find? fun t =>
      t.released.contains row && !t.freed.contains row
        && (List.range (t.shape.specWidth + 1)).all fun d => t.read.contains (unitKey row d) with
  | none => .next s
  | some t =>
    .next (s.updStep w t.tag fun y => { y with
      freed := row :: y.freed, bursts := y.bursts.filter fun b => (offsetIn n y.shape row b.1).isNone })

/-! ## The merge (R243 to R252) -/

/-- Key order (R243): VALUE descending, INDEX ascending, then record number. -/
def Cand.before (a b : Cand) : Bool :=
  decide (b.value < a.value) || (decide (a.value = b.value) && (decide (a.index < b.index)
    || (decide (a.index = b.index) && (decide (a.shard < b.shard) || (decide (a.shard = b.shard) && decide (a.number < b.number))))))

/-- Order of the duplicate pass (R247): INDEX, SHARD, record number. -/
def Cand.dupBefore (a b : Cand) : Bool := lexLt [a.index, a.shard, a.number] [b.index, b.shard, b.number]

/-- The spans of two shards intersect (R247). -/
def spansMeet (a b : List Cand) : Bool :=
  match minOf (a.map (·.index)), minOf (b.map (·.index)) with
  | some x, some y => decide (x ≤ maxOf (b.map (·.index))) && decide (y ≤ maxOf (a.map (·.index)))
  | _, _ => false

/-- Any two shards' spans intersect. -/
def overlap : List (List Cand) → Bool
  | [] => false
  | a :: rest => rest.any (spansMeet a) || overlap rest

/-- Only the first record of each INDEX of a list in the order of the duplicate pass; `last` is the INDEX before it. -/
def keepFirst : Option Nat → List Cand → List Cand
  | _, [] => []
  | last, a :: rest => if last = some a.index then keepFirst last rest else a :: keepFirst (some a.index) rest

/-- Entries of a sorted list behind the k-th that share its VALUE (R245). -/
def tiesCut (k : Nat) (cs : List Cand) : Nat :=
  match cs[k - 1]? with
  | none => 0
  | some c => if k = 0 then 0 else ((cs.drop k).takeWhile fun d => decide (d.value = c.value)).length

/-- A 16-bit exponent of a header. -/
def headerExp (h : List Byte) (off : Nat) : Int := s16 (field h off 2)

/-- A 62-bit mantissa of a header. -/
def headerMant (h : List Byte) (off : Nat) : Nat := field h off 8 % 2 ^ 62

/-- Exponents of the non-zero masses of headers. -/
def massExps (hs : List (List Byte)) : List Int :=
  hs.flatMap fun h => (if headerMant h 16 ≠ 0 then [headerExp h 12] else []) ++ (if headerMant h 24 ≠ 0 then [headerExp h 14] else [])

/-- eg (R251). -/
def normExp (hs : List (List Byte)) : Int :=
  match massExps hs with
  | [] => 0
  | x :: xs => xs.foldl max x

/-- One accumulator of R251: mantissas shifted to eg and summed. -/
def massSum (eg : Int) (hs : List (List Byte)) (expOff mantOff : Nat) : Nat :=
  sumOf (hs.map fun h => headerMant h mantOff / 2 ^ (eg - headerExp h expOff).toNat)

/-- Row maximum M (R252), over every record that takes part: a duplicate removed later counts too. -/
def rowMaxOf (hs : List (List Byte)) (cs : List Cand) : Int :=
  ((hs.map headerMax) ++ (cs.filter fun c => !c.noised).map (·.value)).foldl max (-(2 ^ 31))

/-- The headers of a merge unit in shard order. -/
def Step.unitHeaders (t : Step) (row slot shards : Nat) : List (List Byte) :=
  (List.range shards).map fun sh => SMap.getD t.headers (headerKey row slot sh) []

/-- The records of a merge unit that take part, by shard. -/
def State.unitRecords (s : State) (t : Step) (row slot : Nat) (win : Window) : List (List Cand) :=
  let n := intakeBursts s.kpr.size
  (List.range win.shards).map fun sh =>
    let h := SMap.getD t.headers (headerKey row slot sh) []
    (t.shardRecords n (Place.mk row slot sh 0 win) (headerRecords h)).filter s.takesPart

/-- The sentinel (R244). -/
def sentinel : Cand := { index := 0xFFFFFF, value := -(2 ^ 31) }

/-- Lists of at most 64, as chunks of a shard and leaves of a piece (R249). -/
def chunksOf64 {α : Type} : Nat → List α → List (List α)
  | 0, _ => []
  | n + 1, xs => if xs.isEmpty then [] else xs.take 64 :: chunksOf64 n (xs.drop 64)

/-- The records of a unit by pieces (R249). -/
def unitPieces (shards : List (List Cand)) : List (List Cand) :=
  let chunks := shards.flatMap fun cs => chunksOf64 (cs.length / 64 + 1) cs
  (chunksOf64 (chunks.length / 64 + 1) chunks).map List.flatten

/-- Cycles within which a tree completes a unit (R254); a unit of one piece is merged directly. -/
def treeBound (shards : List (List Cand)) (k : Nat) : Nat :=
  let all := shards.flatten
  let pieces := unitPieces shards
  let ps := pieces.map fun p =>
    let sorted := sortBy Cand.before p
    ceilDiv p.length 8 + 24 + 12 + ceilDiv (min k p.length + tiesCut k sorted) 2
  let whole := sortBy Cand.before all
  (if overlap shards then all.length + 64 else 0) + sumOf ps
    + if pieces.length ≤ 1 then 0 else 12 + ceilDiv (min k all.length + tiesCut k whole) 2

/-- Result of the merge of a unit (R244 to R252). -/
def State.mergeUnit (s : State) (t : Step) (tree : Nat) (u : MUnit) (win : Window) : MergeRes :=
  let shards := s.unitRecords t u.row u.slot win
  let all := shards.flatten
  let sent := sortBy Cand.dupBefore all
  let kept := if overlap shards then keepFirst none sent else all
  let dup := decide (kept.length < all.length)
  let hs := t.unitHeaders u.row u.slot win.shards
  let asg := nth t.rows u.row {}
  let k := mergeDepth asg.sampling
  let sorted := sortBy Cand.before kept
  let eg := normExp hs
  { tree := tree, wing := u.wing, tag := u.tag, row := u.row, slot := u.slot, acc := asg.acc
    entries := sorted.take k ++ List.replicate (k - sorted.length) sentinel, n := min k sorted.length, km := k
    tiesCut := tiesCut k sorted, dup := dup, inexact := dup, pieced := decide (64 < sumOf (hs.map fun h => ceilDiv (headerRecords h) 64))
    rowMax := rowMaxOf hs all, eg := eg, sel := massSum eg hs 12 16, res := massSum eg hs 14 24 }

/-! ## Trees (R240, R250, R253) -/

/-- The step a unit belongs to. -/
def State.unitStep (s : State) (w : Nat) (tag : W16) : Option Step :=
  let x := s.wingAt w
  (x.running.toList ++ x.tails).find? fun t => decide (t.tag = tag)

/-- The passes in which a lane takes a unit's result slots: 256 each, the last filled with sentinels (R250). -/
def MergeRes.passes (r : MergeRes) : List (List Cand) :=
  (List.range (ceilDiv r.km 256)).map fun i =>
    let p := (r.entries.drop (256 * i)).take 256
    p ++ List.replicate (256 - p.length) sentinel

/-- Ticks until a lane that took a unit has taken its last pass (R260). -/
def MergeRes.loadTicks (r : MergeRes) : Nat := ceilDiv (16 + 32 * r.passes.length) 36

/-- Results of a tree that still hold an output buffer: at the dispatcher, or in a lane that has yet to take the last pass (R250). -/
def Path.buffered (p : Path) (now tree : Nat) : Nat :=
  (p.dispatch.filter fun r => decide (r.tree = tree)).length
    + (p.lanes.filter fun l => decide (l.2.result.tree = tree) && decide (now < l.2.takenAt.toNat + l.2.result.loadTicks)).length

/-- TREE_TAKE (R240): an idle tree with a free output buffer takes the unit at the front of the merge queue and reads it. -/
def execTreeTake (tree : Nat) (s : State) : Host.Outcome State Fault Refusal :=
  if s.dead then .next s else
  match s.path.mergeQueue with
  | [] => .next s
  | u :: rest =>
    if decide (s.kpr.caps.trees ≤ tree) || (SMap.find s.path.trees tree).isSome || decide (2 ≤ s.path.buffered s.now tree) || !s.cipReady then .next s
    else
      let s1 := { s with path := { s.path with mergeQueue := rest } }
      match s.unitStep u.wing u.tag with
      | none => .next s1
      | some t =>
        match windowOf t.shape u.row with
        | none => .next s1
        | some win =>
          let r := s.mergeUnit t tree u win
          let s2 := s1.updStep u.wing u.tag fun y => { y with read := unitKey u.row u.slot :: y.read }
          let held : TreeSt :=
            { unit := u, takenAt := s.kpr.ktime, bound := treeBound (s.unitRecords t u.row u.slot win) r.km, result := r }
          let s3 := { s2 with path := { s2.path with trees := SMap.put s2.path.trees tree held } }
          .next (if r.dup then (s3.event 5 0x38 u.wing u.row u.tag.toNat).breach u.wing u.tag brOverlap else s3)

/-- A unit handed to the dispatcher: behind those of earlier ticks, among those of its own in order of wing, row, slot (R259). DEDUCED, log entry 121. -/
def handOver (ds : List MergeRes) (r : MergeRes) : List MergeRes :=
  (ds.filter fun d => decide (d.madeAt ≠ r.madeAt))
    ++ sortBy (fun a b => lexLt [a.wing, a.row, a.slot] [b.wing, b.row, b.slot]) ((ds.filter fun d => decide (d.madeAt = r.madeAt)) ++ [r])

/-- MERGE_RESULT (R253): the tree's result goes to the dispatcher, unless its step is discarded (R239). -/
def execMergeResult (tree : Nat) (s : State) : Host.Outcome State Fault Refusal :=
  if s.dead then .next s else
  match SMap.find s.path.trees tree with
  | none => .next s
  | some ts =>
    let r := ts.result
    let s1 := ({ s with path := { s.path with trees := SMap.drop s.path.trees tree } }).count 9 1 ((s.now - ts.takenAt.toNat) * 36)
    let live := ((s.unitStep r.wing r.tag).map fun t => decide (t.discarded = 0)).getD false
    if live then
      let s2 := { s1 with path := { s1.path with dispatch := handOver s1.path.dispatch { r with madeAt := s.kpr.ktime } } }
      let s3 := if r.dup then s2.count (1 + r.wing) 17 1 else s2
      .next (if r.tiesCut ≠ 0 then s3.count (1 + r.wing) 18 1 else s3)
    else .next s1

end Sys2Proof.Machine
end

