-- ==== Sys2Proof/Machine/Docent.lean ====
section
/-! DEFINITION. The Docent: powers of two, restriction, the counter generator and its transforms, sampling, logprobs (12 R257 to R268; 13 R280 to R293): LANE_DISPATCH, UNIT_SAMPLED. -/

namespace Sys2Proof.Machine

open Sys2Proof.Bytes

/-! ## Powers of two (R262) -/

/-- floor(sqrt n), by bits from `k` downward. -/
def isqrtFrom (n : Nat) : Nat → Nat → Nat
  | 0, r => r
  | k + 1, r => let c := r + 2 ^ k; isqrtFrom n k (if c * c ≤ n then c else r)

/-- floor(sqrt n) of a number below 2^(2 * bits). -/
def isqrt (bits n : Nat) : Nat := isqrtFrom n bits 0

/-- 2^(1 / 2^k) in units of 2^-200, each root truncated. -/
def rootTwo : Nat → Nat
  | 0 => 2 ^ 201
  | k + 1 => isqrt 202 (rootTwo k * 2 ^ 200)

/-- x^n of a number in units of 2^-200, by bits of n from bit `k` downward. -/
def powFix (x n : Nat) : Nat → Nat → Nat
  | 0, acc => acc
  | k + 1, acc =>
    let sq := acc * acc / 2 ^ 200
    powFix x n k (if bit n k then sq * x / 2 ^ 200 else sq)

/-- floor(2^(30 + i / 2^k) + 1/2) for i below 1,024: the tables of R262. No entry lies within 2^-60 of a tie, so 200 fraction bits decide it (DEDUCED, log entry 20). -/
def powTable (k i : Nat) : Nat := (powFix (rootTwo k) i 10 (2 ^ 200) + 2 ^ 169) / 2 ^ 170

/-- T1 and T2. -/
def tableT1 (a : Nat) : Nat := powTable 10 a
def tableT2 (b : Nat) : Nat := powTable 20 b

/-- exp2m: (e, ip) with 2^v = e * 2^(ip - 30). -/
def exp2m (v : Int) : Nat × Int :=
  let f := (v % 2 ^ 20).toNat
  ((tableT1 (f / 1024) * tableT2 (f % 1024) + 2 ^ 29) / 2 ^ 30, v / 2 ^ 20)

/-- A number shifted by a signed count, truncating to the right. -/
def shiftBy (x : Nat) (k : Int) : Nat := if 0 ≤ k then x * 2 ^ k.toNat else x / 2 ^ (-k).toNat

/-! ## Restriction (R261, R263, R264) -/

/-- m_j of an entry. -/
def massOf (eg v : Int) : Nat :=
  let (e, ip) := exp2m v
  min (shiftBy e (ip + 32 - eg)) (2 ^ 72 - 1)

/-- J_p: entries until the partial sum reaches TOP_P of the total. -/
def nucleus (eg : Int) (need : Nat) : Nat → List Cand → Nat
  | _, [] => 0
  | sum, c :: cs =>
    let sum' := min (sum + massOf eg c.value) (2 ^ 72 - 1)
    if need ≤ sum' * 2 ^ 16 then 1 else 1 + nucleus eg need sum' cs

/-- The test of R264. -/
def minpOk (minP : Nat) (m : Int) (c : Cand) : Bool :=
  let (e, ip) := exp2m (sat32 (c.value - m))
  decide (minP * 2 ^ 14 ≤ if 0 ≤ ip then e else e / 2 ^ (-ip).toNat)

/-- J_m: entry 0 and the leading entries that pass. -/
def minpLength (minP : Nat) (m : Int) : List Cand → Nat
  | [] => 0
  | _ :: cs => 1 + (cs.takeWhile (minpOk minP m)).length

/-- The entries returned: the result slots without their sentinels (R244, R261). -/
def MergeRes.returned (r : MergeRes) : List Cand := r.entries.take r.n

/-- J of a unit (R261). -/
def restricted (b : Sampling) (r : MergeRes) : Nat :=
  let n := r.n
  let jk := if b.method = 2 then b.k else 1
  let jp := if b.topP ≠ 0 then nucleus r.eg (b.topP * (r.sel + r.res)) 0 r.returned else n
  let jm := if b.minP ≠ 0 then minpLength b.minP r.rowMax r.returned else n
  min (min jk jp) (min jm n)

/-! ## The counter generator (R280 to R282) -/

/-- One round of Philox-4x32. -/
def philoxRound (k c : Nat × Nat × Nat × Nat) : Nat × Nat × Nat × Nat :=
  let p0 := 0xD2511F53 * c.1
  let p1 := 0xCD9E8D57 * c.2.2.1
  (Nat.xor (Nat.xor (p1 / 2 ^ 32) c.2.1) k.1, p1 % 2 ^ 32, Nat.xor (Nat.xor (p0 / 2 ^ 32) c.2.2.2) k.2.1, p0 % 2 ^ 32)

/-- Rounds with the key bumped before every one but the first. -/
def philoxRounds : Nat → Nat × Nat → Nat × Nat × Nat × Nat → Nat × Nat × Nat × Nat
  | 0, _, c => c
  | n + 1, k, c =>
    philoxRounds n ((k.1 + 0x9E3779B9) % 2 ^ 32, (k.2 + 0xBB67AE85) % 2 ^ 32) (philoxRound (k.1, k.2, 0, 0) c)

/-- Philox-4x32-10 (R280). -/
def philox (k0 k1 : Nat) (w : Nat × Nat × Nat × Nat) : Nat × Nat × Nat × Nat := philoxRounds 10 (k0, k1) w

/-- Word 0 of the draw of a purpose (R281, R282). -/
def counterDraw (key : W64) (purpose element draw position sub : Nat) : Nat :=
  (philox (key.toNat % 2 ^ 32) (key.toNat / 2 ^ 32)
    (element % 2 ^ 32, draw * 2 ^ 24 + purpose * 2 ^ 16 + element / 2 ^ 32, position, sub)).1

/-! ## Transforms (R288, R289) -/

/-- Fraction bits of a base-2 logarithm by repeated squaring of u in units of 2^-p. -/
def lgBits (p : Nat) : Nat → Nat → Nat → Nat
  | 0, _, frac => frac
  | n + 1, u, frac =>
    let sq := u * u / 2 ^ p
    if 2 ^ (p + 1) ≤ sq then lgBits p n (sq / 2) (2 * frac + 1) else lgBits p n sq (2 * frac)

/-- lg(X, n) (R288). -/
def lg (x n : Nat) : Nat := Nat.log2 x * 2 ^ n + lgBits 62 n (x * 2 ^ (62 - Nat.log2 x)) 0

/-- C20 (R289). -/
def c20 : Int := 554452

/-- GUMBEL of a word (R289). -/
def gumbel (x : Nat) : Int :=
  let t := 33 * 2 ^ 40 - lg (2 * x + 1) 40
  c20 + 40 * 2 ^ 20 - (lg t 20 : Nat)

/-- g of a token at a position under a request key (R265). -/
def gumbelAt (key : W64) (position index : Nat) : Int := gumbel (counterDraw key 1 index 0 position 0)

/-! ## The token (R265) and its logprobs (R267, R268) -/

/-- z_j of a kept entry. -/
def noisedValue (key : W64) (position : Nat) (c : Cand) : Int := sat32 (c.value + gumbelAt key position c.index)

/-- The better of two (z, entry): the greater z, then the lower INDEX. -/
def betterOf (a b : Int × Cand) : Int × Cand :=
  if a.1 < b.1 ∨ (a.1 = b.1 ∧ b.2.index < a.2.index) then b else a

/-- The entry with the greatest z_j, the lowest INDEX among equals. -/
def bestNoised (key : W64) (position : Nat) : List Cand → Option Cand
  | [] => none
  | c :: cs =>
    let z := fun (d : Cand) => (noisedValue key position d, d)
    some ((cs.map z).foldl betterOf (z c)).2

/-- The sampled entry of a unit. -/
def sampled (b : Sampling) (key : W64) (position : Nat) (r : MergeRes) : Option Cand :=
  if b.method = 2 then bestNoised key position (r.returned.take (restricted b r)) else r.returned.head?

/-- log2z(X, eg) (R267). -/
def log2z (x : Nat) (eg : Int) : Int :=
  let q := Nat.log2 x
  let u := if 31 ≤ q then x / 2 ^ (q - 31) else x * 2 ^ (31 - q)
  sat32 (((q : Int) + eg - 62) * 2 ^ 20 + (lgBits 31 20 u 0 : Nat))

/-- A logprob entry of 8 bytes as a number. -/
def lpEntry (index : Nat) (sentinel notKept inexact : Bool) (lp : Int) : Nat :=
  index * 2 ^ 40 + b2n sentinel * 2 ^ 34 + b2n notKept * 2 ^ 33 + b2n inexact * 2 ^ 32 + twos 32 lp

/-- The logprob block of a unit (R268). -/
def lpBlock (b : Sampling) (key : W64) (position : Nat) (r : MergeRes) (pick : Cand) : List Nat :=
  let x := r.sel + r.res
  let lz := log2z x r.eg
  let kept := restricted b r
  let lp := fun (y : Int) => if x = 0 then -(2 ^ 31) else min 0 (sat32 (y - lz))
  let y0 := if b.method = 1 then sat32 (pick.value - gumbelAt key position pick.index) else pick.value
  let first := lpEntry pick.index (decide (x = 0)) false r.inexact (lp y0)
  let rest := (List.range (b.logprobs - 1)).map fun i =>
    match r.returned[i]? with
    | some c => lpEntry c.index (decide (x = 0)) (decide (kept ≤ i)) r.inexact (lp c.value)
    | none => lpEntry 0xFFFFFF true true r.inexact (-(2 ^ 31))
  if b.logprobs = 0 then [] else first :: rest

/-- A record whose NOISED does not match the row's METHOD (R258). -/
def noiseMismatch (b : Sampling) (r : MergeRes) : Bool := r.returned.any fun c => c.noised != decide (b.method = 1)

/-- The outcome of a unit (R265, R266). -/
def sampleUnit (b : Sampling) (key : W64) (position : Nat) (r : MergeRes) : UnitOut :=
  match sampled b key position r with
  | none => .noCandidate
  | some c => .token c.index r.dup (decide (r.tiesCut ≠ 0)) (lpBlock b key position r c)

/-! ## Lanes (R259) -/

/-- The lowest idle lane: every idle lane asks, and the lowest receives the first unit (R259). -/
def State.lowestIdle (s : State) (lane : Nat) : Bool :=
  (SMap.find s.path.lanes lane).isNone && (List.range lane).all fun l => (SMap.find s.path.lanes l).isSome

/-- LANE_DISPATCH (R259): the lowest idle lane takes the first unit handed over. -/
def execLaneDispatch (lane : Nat) (s : State) : Host.Outcome State Fault Refusal :=
  if s.dead then .next s else
  match s.path.dispatch with
  | [] => .next s
  | r :: rest =>
    if decide (s.kpr.caps.lanes ≤ lane) || !s.lowestIdle lane || !s.active .docent || s.kpr.halted then .next s
    else .next (({ s with path := { s.path with
        dispatch := rest, lanes := SMap.put s.path.lanes lane (LaneSt.mk r s.kpr.ktime) } }).count 9 3 ((s.now - r.madeAt.toNat) * 36))

/-- UNIT_SAMPLED (R265): the lane's outcome goes to the commit stage. -/
def execUnitSampled (lane : Nat) (s : State) : Host.Outcome State Fault Refusal :=
  if s.dead then .next s else
  match SMap.find s.path.lanes lane with
  | none => .next s
  | some l =>
    let r := l.result
    let s1 := ({ s with path := { s.path with lanes := SMap.drop s.path.lanes lane } }).count 9 2 ((s.now - l.takenAt.toNat) * 36)
    match s.unitStep r.wing r.tag with
    | none => .next s1
    | some t =>
      if t.discarded ≠ 0 then .next s1
      else
        let a := nth t.rows r.row {}
        let out := sampleUnit a.sampling a.key (a.inputPos + 1 + r.slot) r
        let s2 := s1.updStep r.wing r.tag fun y => { y with units := SMap.put y.units (unitKey r.row r.slot) out }
        let s3 := if noiseMismatch a.sampling r then s2.event 6 0x40 r.wing r.row r.acc else s2
        .next (if out = .noCandidate then s3.event 6 0x41 r.wing r.row r.acc else s3)

end Sys2Proof.Machine
end

