-- ==== Sys2Proof/Machine/Ecc.lean ====
section
/-! DEFINITION. The two error codes of the SRAM regions: the Reed-Solomon code S35 and byte mode (17 R383, R384). -/

namespace Sys2Proof.Machine

open Sys2Proof.Bytes

/-- What a read of a codeword finds: no error, an error corrected at a position, or an uncorrectable word. -/
inductive EccResult where
  | clean
  | corrected (position : Nat)
  | uncorrectable
deriving DecidableEq, Repr

/-! ## GF(2^8) with field polynomial 0x11D (R383) -/

/-- A field element times α. -/
def gfDouble (a : Nat) : Nat := if 128 ≤ a then Nat.xor (2 * a) 0x11D else 2 * a

/-- Product of field elements, over the bits of the second. -/
def gfMulBits : Nat → Nat → Nat → Nat
  | 0, _, _ => 0
  | n + 1, a, b => Nat.xor (if b % 2 = 1 then a else 0) (gfMulBits n (gfDouble a) (b / 2))

/-- Product of two field elements. -/
def gfMul (a b : Nat) : Nat := gfMulBits 8 a b

/-- α to a power. -/
def gfPow : Nat → Nat
  | 0 => 1
  | n + 1 => gfDouble (gfPow n)

/-- Value of a polynomial, its coefficients from the highest down, at a point. -/
def gfEval (x : Nat) (cs : List Nat) : Nat := cs.foldl (fun acc c => Nat.xor (gfMul acc x) c) 0

/-! ## S35 (R383) -/

/-- Remainder of d(x)·x^3 by g(x) as (C0, C1, C2): one data byte taken in. -/
def s35Step (r : Nat × Nat × Nat) (d : Nat) : Nat × Nat × Nat :=
  let f := Nat.xor r.1 d
  (Nat.xor r.2.1 (gfMul f 0x07), Nat.xor r.2.2 (gfMul f 0x0E), gfMul f 0x08)

/-- The check bytes of 32 data bytes. -/
def s35Check (data : List Byte) : List Byte :=
  let r := data.foldl (fun acc b => s35Step acc b.toNat) (0, 0, 0)
  [BitVec.ofNat 8 r.1, BitVec.ofNat 8 r.2.1, BitVec.ofNat 8 r.2.2]

/-- Decision on 35 bytes, D0 to D31 and C0 to C2. -/
def s35Read (word : List Byte) : EccResult :=
  let cs := word.map (·.toNat)
  let s0 := gfEval 1 cs
  let s1 := gfEval 2 cs
  let s2 := gfEval 4 cs
  if s0 = 0 ∧ s1 = 0 ∧ s2 = 0 then .clean
  else if s0 ≠ 0 ∧ gfMul s1 s1 = gfMul s0 s2 then
    match (List.range 35).find? fun e => decide (gfMul s0 (gfPow e) = s1) with
    | some e => .corrected (34 - e)
    | none => .uncorrectable
  else .uncorrectable

/-- The word with the byte at a corrected position mended: S_0 is added to it. -/
def s35Mend (word : List Byte) : List Byte :=
  match s35Read word with
  | .corrected p => setNth word p (BitVec.ofNat 8 (Nat.xor (nth word p 0).toNat (gfEval 1 (word.map (·.toNat)))))
  | _ => word

/-! ## Byte mode (R384) -/

/-- Syndrome of a 13-bit word: the exclusive or of the indices of its set bits 1 to 12. -/
def byteSyndrome (w : Nat) : Nat := (List.range 13).foldl (fun acc i => if bit w i then Nat.xor acc i else acc) 0

/-- Parity of all 13 bits is odd. -/
def byteOdd (w : Nat) : Bool := decide (((List.range 13).filter fun i => bit w i).length % 2 = 1)

/-- Decision on one 13-bit word. A single error at a position above 12 cannot be corrected: it is uncorrectable. -/
def byteRead (w : Nat) : EccResult :=
  let s := byteSyndrome w
  if byteOdd w then (if s ≤ 12 then .corrected s else .uncorrectable)
  else if s = 0 then .clean else .uncorrectable

/-- The 13-bit word of a data byte: data bits at positions 3, 5, 6, 7, 9 to 12, check bits at 1, 2, 4, 8, overall parity at 0. -/
def byteEncode (d : Nat) : Nat :=
  let put := sumOf (([3, 5, 6, 7, 9, 10, 11, 12].zipIdx.filter fun p => bit d p.2).map fun p => 2 ^ p.1)
  let s := byteSyndrome put
  let w := put + sumOf (([1, 2, 4, 8].zipIdx.filter fun p => bit s p.2).map fun p => 2 ^ p.1)
  w + b2n (byteOdd w)

/-- 16-bit groups of a byte list. -/
def words16 : List Byte → List Nat
  | a :: b :: rest => le [a, b] :: words16 rest
  | _ => []

/-- Decision on the 32 bytes of a codeword's place in byte mode, each a 13-bit word in two bytes: the worst of them. -/
def byteModeRead (word : List Byte) : EccResult :=
  let rs := (words16 word).map byteRead
  if rs.any (· == .uncorrectable) then .uncorrectable
  else match (rs.zipIdx.find? fun p => p.1 != .clean) with
    | some p => .corrected p.2
    | none => .clean

end Sys2Proof.Machine
end

