-- ==== Sys2Proof/Machine/Commit.lean ====
section
/-! DEFINITION. The commit stage: verification of drafts, the commit of a run token by token, stop checks, finding-aid walks, and the loss of a request's control data (12 R269 to R278; 01 R18 to R23; 10 R214, R215; 17 R391): ROW_COMMIT. -/

namespace Sys2Proof.Machine

open Sys2Proof.Bytes

/-! ## Drafts verified (R270) -/

/-- The run of a row's outcomes against its drafts: the tokens to commit, and whether NO_CANDIDATE ends it. -/
def runOf : List Nat → List UnitOut → List UnitOut × Bool
  | _, [] => ([], false)
  | drafts, u :: rest =>
    match u with
    | .token t _ _ _ =>
      match drafts with
      | d :: ds => if d = t then (u :: (runOf ds rest).1, (runOf ds rest).2) else ([u], false)
      | [] => ([u], false)
    | _ => ([], true)

/-- The token of an outcome. -/
def UnitOut.id : UnitOut → Nat
  | .token t _ _ _ => t
  | _ => 0

/-- Leading outcomes of a run that equal the drafts. -/
def acceptedDrafts (run : List UnitOut) (drafts : List Nat) : Nat :=
  ((run.zip drafts).takeWhile fun p => decide (p.1.id = p.2)).length

/-! ## Finding-aid words (R275) -/

/-- Offset of the bucket of a token in a state word's table, from the aid's base. -/
def bucketAt (word : W64) (t : Nat) : Nat := word.toNat / 2 ^ 32 + bucketOf t (bits word.toNat 29 25)

/-- The state has no table. -/
def noTable (word : W64) : Bool := decide (word.toNat / 2 ^ 32 = 0xFFFFFFFF)

/-- NEXT of a bucket's valid entry for a token. -/
def nextIn (bucket : List Byte) (t : Nat) : Option W64 :=
  ((List.range 4).find? fun i => decide (field bucket (16 * i) 4 = 2 ^ 31 + t)).map fun i => BitVec.ofNat 64 (field bucket (16 * i + 8) 8)

/-- The next state word, none for DEAD. -/
def stepWord (word : W64) (found : Option W64) : Option W64 :=
  match found with
  | some w => some w
  | none => if bit word.toNat 31 then some word else none

/-- A walk to this word yields MASK_EMPTY. -/
def maskEmpty : Option W64 → Bool
  | none => true
  | some w => bit w.toNat 30

/-- Address of a bucket on the request's wing. -/
def State.bucketAddr (s : State) (r : Req) (word : W64) (t : Nat) : Nat :=
  let a := SMap.getD (s.galAt r.gallery).aids r.sampling.aid {}
  (s.site r.wing).aidBase + 64 * (nth a.base r.wing 0 + bucketAt word t)

/-- The SMP READ of a bucket (R275). -/
def State.readBucket (s : State) (r : Req) (word : W64) (t : Nat) (use : SmpUse) : State :=
  s.smpSend { wing := r.wing, op := 0, addr := s.bucketAddr r word t, keySlot := r.gallery, use := use }

/-! ## Jobs -/

/-- The commit in progress of a request. -/
def State.job? (s : State) (acc : Nat) : Option CommitJob := s.path.jobs.find? fun j => decide (j.acc = acc)

/-- A request's commit in progress changed. -/
def State.updJob (s : State) (acc : Nat) (f : CommitJob → CommitJob) : State :=
  { s with path := { s.path with jobs := s.path.jobs.map fun j => if j.acc = acc then f j else j } }

/-- Lists of at most eight outcomes. -/
def groupsOf8 : Nat → List UnitOut → List (List UnitOut)
  | 0, _ => []
  | n + 1, us => if us.isEmpty then [] else us.take 8 :: groupsOf8 n (us.drop 8)

/-- Token records of a job's committed tokens, and a tokenless final record where the reason carries none (R179, R300). -/
def jobRecords (r : Req) (j : CommitJob) (row : Option Nat) (reason : Nat) (now : W64) : List OutRec :=
  let carries := [1, 2, 3].contains reason
  let groups := groupsOf8 2 j.done
  let n := groups.length
  let base : OutRec := { acc := r.acc, gallery := r.gallery, wing := r.wing, slot := slotOf r.acc, row := row
                         replayed := j.replayed, madeAt := now }
  let toks := groups.zipIdx.map fun g =>
    let last := carries && decide (g.2 + 1 = n)
    { base with seq := r.nextSeq + g.2, tokens := g.1, firstPos := j.firstPos + 8 * g.2
                reason := if last then reason else 0, final := last }
  let tail : List OutRec := if reason = 0 || (carries && decide (n ≠ 0)) then []
    else [{ base with seq := r.nextSeq + n, firstPos := j.firstPos + j.done.length, reason := reason, final := true, replayed := false }]
  toks ++ tail

/-- Drafts below the commit position dropped (R211). -/
def dropDrafts (r : Req) : Req :=
  let gone := reqPosition r - r.draftFirst
  { r with drafts := r.drafts.drop gone, draftFirst := r.draftFirst + gone }

/-- The reason with which a job ends, 0 where the request goes on (R22, R271). -/
def CommitJob.reason (j : CommitJob) (pending extra : Nat) : Nat :=
  let own := j.causes.foldl firstReason extra
  let none_ := if own = 0 && j.noCandidate && j.todo.isEmpty then 7 else 0
  firstReason (firstReason own none_) pending

/-- The deaccession that waits and acts at the commit of a step: a deadline acts from the step that ends behind its firing on (R23, R171). -/
def dueReason (r : Req) (ended : Option W64) : Nat :=
  if r.pendingReason = 5 && !(ended.any fun e => decide (r.pendingAt.toNat ≤ e.toNat)) then 0 else r.pendingReason

/-- Records put behind a request's others, numbered from its next SEQ. -/
def State.addRecords (s : State) (acc : Nat) (recs : List OutRec) : State :=
  ({ s with path := { s.path with records := s.path.records ++ recs } }).updReq acc fun x => { x with nextSeq := x.nextSeq + recs.length }

/-- The record of a run's first eight tokens, made at the commit of the eighth where the run goes on (R300, R303). -/
def State.flushRun (s : State) (acc : Nat) : State :=
  match s.job? acc, s.req? acc with
  | some j, some r =>
    if j.done.length = 8 && !j.todo.isEmpty && j.causes.isEmpty then
      let fixed := ((s.unitStep j.wing j.tag).map (·.fixed)).getD false
      (s.addRecords acc (jobRecords r j (if fixed then some j.row else none) 0 s.kpr.ktime)).updJob acc fun k =>
        { k with done := [], firstPos := k.firstPos + 8 }
    else s
  | _, _ => s

/-- A job ended: the row is committed, its records go to the Egress, and a cause ends the request; `extra` is a reason found outside the run. -/
def State.finishJob (s : State) (acc extra : Nat) : State :=
  match s.job? acc, s.req? acc with
  | some j, some r =>
    let s1 := { s with path := { s.path with jobs := s.path.jobs.filter fun k => decide (k.acc ≠ acc) } }
    let s2 := s1.updStep j.wing j.tag fun t => { t with committed := j.row :: t.committed }
    let reason := j.reason (dueReason r ((s.unitStep j.wing j.tag).bind (·.ended))) extra
    let fixed := ((s.unitStep j.wing j.tag).map (·.fixed)).getD false
    let recs := jobRecords r j (if fixed then some j.row else none) reason s.kpr.ktime
    let s3 := if reason = 9 then s2.report 0x0022 1 0x02 r.wing r.gallery [acc, 0xFF] else s2
    let s4 := if reason = 0 then s3 else s3.markDeaccessioned acc reason
    let s5 := (s4.addRecords acc recs).updReq acc dropDrafts
    s5.settle j.wing
  | _, _ => s

/-! ## Loss of control data (R58, R391) -/

/-- A request deaccessioned with DATA_LOST: the tokens of a run committed before stand (R18). -/
def State.loseRequest (s : State) (acc : Nat) : State :=
  if (s.job? acc).isSome then s.finishJob acc 9 else s.dataLost acc 0xFF

/-- Every request naming an aid loses its data, and the aid is removed (R277, R391). -/
def State.loseAid (s : State) (g n : Nat) : State :=
  let rs := s.liveReqs.filter fun r => decide (r.gallery = g) && decide (r.sampling.aid = n) && r.state != .deaccessioned
  (rs.foldl (fun t r => t.loseRequest r.acc) s).removeAid g n

/-- The gallery that an SMP request concerns: its request's, else that of its key slot; none for control structures. -/
def State.smpGallery (s : State) (q : SmpReq) (acc : Nat) : Nat :=
  ((s.req? acc).map fun (r : Req) => r.gallery).getD (if q.keySlot < 64 then q.keySlot else 255)

/-- The UNCORRECTABLE report of a failed SMP response: unit, action by row of the table of R391, accession number; UNCORRECTABLE counts it in the bank and in the Ledger (R399, R418). -/
def State.smpReport (s : State) (q : SmpReq) (status unit action acc : Nat) : State :=
  ((s.report 0x0012 (if status = 1 then 1 else 2) unit q.wing (s.smpGallery q acc)
    [0xFF, q.addr % 2 ^ 32, q.addr / 2 ^ 32, action, acc, status]).count 6 11 1).ledgerAdd 12 1

/-! ## Commit of one token (R18) -/

/-- Address of a request's history entry for a generated token (R214). -/
def State.historyAddr (s : State) (r : Req) (i : Nat) : Nat := (s.site r.wing).histBase + s.areaSlot r * 4096 + 4 * (i % 1024)

/-- Step 1 of R18: the history entry written by one WRITE_MASKED (R215). -/
def State.writeHistory (s : State) (r : Req) (t : Nat) : State :=
  let at_ := s.historyAddr r r.gen.length
  s.smpSend { wing := r.wing, op := 2, addr := at_ / 64 * 64, keySlot := r.gallery, ben := BitVec.ofNat 64 (15 * 2 ^ (at_ % 64))
              data := slice (List.replicate (at_ % 64) 0 ++ ofLe 4 t) 0 64, use := .history r.acc t }

/-- The next token of a run is begun, or the run ends. -/
def State.nextToken (s : State) (acc : Nat) : State :=
  match s.job? acc, s.req? acc with
  | some j, some r =>
    match j.todo with
    | [] => s.finishJob acc 0
    | u :: _ => if j.causes.isEmpty then s.writeHistory r u.id else s.finishJob acc 0
  | _, _ => s

/-- A token whose checks are complete (R271). -/
def State.tokenChecked (s : State) (acc : Nat) : State :=
  match s.job? acc with
  | none => s
  | some j => if j.reads.isEmpty then (s.flushRun acc).nextToken acc else s

/-- Stop sequences that a token may end: those whose last token it is (R271). -/
def stopReads (r : Req) (t : Nat) : List Nat :=
  (List.range r.stopSeqs.length).filter fun i => decide ((nth r.stopSeqs i []).getLast? = some t)

/-- Step 4 of R18: stop token, completion, and the reads of stop sequences; the stop set and MAX_TOKENS are those of the row (R28, R30). -/
def State.stopChecks (s : State) (acc t : Nat) : State :=
  match s.job? acc, s.req? acc with
  | some j, some r =>
    let causes := (if j.stopTokens.contains t then [2] else []) ++ (if j.maxTokens ≤ r.gen.length then [1] else [])
    let reads := stopReads r t
    let s1 := s.updJob acc fun j => { j with causes := j.causes ++ causes, reads := reads }
    let s2 := reads.foldl (fun u i => u.smpSend
      { wing := r.wing, op := 0, addr := (s.site r.wing).stopBase + s.areaSlot r * 512 + 64 * i, keySlot := r.gallery
        use := .stopRead acc i }) s1
    s2.tokenChecked acc
  | _, _ => s

/-- Step 3 of R18: the record takes the next state word; DEAD or an empty mask is a cause. -/
def State.walked (s : State) (acc t : Nat) (word : Option W64) : State :=
  let s1 := s.updReq acc fun x => { x with aidWord := word.getD x.aidWord }
  let s2 := if maskEmpty word then s1.updJob acc fun j => { j with causes := j.causes ++ [8] } else s1
  s2.stopChecks acc t

/-- The finding aid advanced by a token: an accepted draft's state stands with the row, else the walker reads its bucket (R275, R276). -/
def State.advanceAid (s : State) (acc t : Nat) : State :=
  match s.job? acc, s.req? acc with
  | some j, some r =>
    if r.sampling.aid = 0 then s.stopChecks acc t
    else match j.words with
      | w :: ws => (s.updJob acc fun k => { k with words := ws }).walked acc t (some w)
      | [] => if noTable r.aidWord then s.walked acc t (stepWord r.aidWord none) else s.readBucket r r.aidWord t (.walk acc t)
  | _, _ => s

/-- A token whose history write has completed is committed (R18); one of a run that a discard has ended is not. -/
def State.commitToken (s : State) (acc t : Nat) : State :=
  match s.job? acc, s.req? acc with
  | some j, some r =>
    if j.todo.isEmpty then s.finishJob acc 0 else
    let s1 := s.updReq acc fun x => { x with gen := x.gen ++ [t] }
    let s2 := s1.updJob acc fun k => { k with done := k.done ++ j.todo.take 1, todo := k.todo.drop 1 }
    let s3 := (s2.charge r.gallery 1).updGal r.gallery fun x => { x with counts := { x.counts with tokens := x.counts.tokens + 1 } }
    ((s3.count (1 + r.wing) 16 1).ledgerAdd (ledgerWing r.wing 24) 1).advanceAid acc t
  | _, _ => s

/-- The last generated tokens of a request equal the sequence that a stop burst holds (R271). -/
def endsWith (gen : List Nat) (burst : List Byte) : Bool :=
  let seq := ((List.range 16).map fun i => field burst (4 * i) 4).takeWhile fun e => bit e 31
  let toks := seq.map fun e => e % 2 ^ 21
  !toks.isEmpty && decide (toks.length ≤ gen.length) && decide (gen.drop (gen.length - toks.length) = toks)

/-- The read of a stop sequence answered. -/
def State.stopAnswer (s : State) (acc i : Nat) (burst : List Byte) : State :=
  match s.req? acc with
  | none => s
  | some r =>
    let hit := if endsWith r.gen burst then [3] else []
    (s.updJob acc fun j => { j with causes := j.causes ++ hit, reads := j.reads.filter (· != i) }).tokenChecked acc

/-! ## Rows (R269) -/

/-- Every unit of a row that can be used is sampled or discarded. -/
def Step.rowSampled (t : Step) (a : RowAsg) : Bool :=
  (a.type != 1 && a.type != 2) || (List.range (a.drafts.length + 1)).all fun d => (SMap.find t.units (unitKey a.row d)).isSome

/-- The row may be committed now: its step ended undiscarded, it is neither padding nor void, its units are in, and no earlier step owes a row of its request. -/
def State.commitRow? (s : State) (w row : Nat) : Option (Step × RowAsg) :=
  ((s.wingAt w).tails.filterMap fun t => (t.rows.find? fun a => decide (a.row = row)).map fun a => (t, a)).find? fun p =>
    decide (p.1.discarded = 0) && decide (p.2.type ≠ 0) && !p.2.void && !p.1.committed.contains row && p.1.rowSampled p.2
      && (s.job? p.2.acc).isNone
      && (((s.wingAt w).tails.find? fun t => t.rows.any fun a => a.of p.2.acc && !a.void && !t.committed.contains a.row).map (·.tag)) == some p.1.tag

/-- A kind-1 or kind-2 result is complete: the request is deaccessioned, and the Egress reads its result area (R178, R311). -/
def State.resultDone (s : State) (r : Req) (shapeId : Nat) : State :=
  let s1 := (s.markDeaccessioned r.acc 1).mirrorEvent r.acc .commit
  { s1 with path := { s1.path with
    results := SMap.put s1.path.results r.acc { acc := r.acc, wing := r.wing, shapeId := shapeId } } }

/-- Commit of a row of kind 1 or 2 (R14, R146, R178). -/
def State.commitResult (s : State) (t : Step) (a : RowAsg) (r : Req) : State :=
  let s1 := s.updStep r.wing t.tag fun y => { y with committed := a.row :: y.committed }
  let s2 :=
    if r.kind = 1 then (s1.charge r.gallery (ceilDiv r.prompt.length 16)).resultDone r t.shape.shapeId
    else
      let u := (s1.charge r.gallery 1).updReq r.acc fun x => { x with iters := x.iters + 1 }
      if a.maxTokens ≤ r.iters + 1 then u.resultDone r t.shape.shapeId
      else if dueReason r t.ended ≠ 0 then u.deaccession r.acc (dueReason r t.ended)
      else u.mirrorEvent r.acc .commit
  s2.settle r.wing

/-- ROW_COMMIT (R269): the commit stage takes a row; a kind-0 row's run is begun with the write of its first token. -/
def execRowCommit (wing : Fin 4) (row : Nat) (s : State) : Host.Outcome State Fault Refusal :=
  if s.dead then .next s else
  let w := wing.val
  match s.commitRow? w row with
  | none => .next s
  | some (t, a) =>
    match s.req? a.acc with
    | none => .next ((s.updStep w t.tag fun y => { y with committed := row :: y.committed }).settle w)
    | some r =>
      if r.kind ≠ 0 then .next (s.commitResult t a r)
      else
        let outs := (List.range (a.drafts.length + 1)).map fun d => SMap.getD t.units (unitKey row d) .discarded
        let run := runOf a.drafts outs
        let j : CommitJob := { wing := w, tag := t.tag, row := row, acc := a.acc, todo := run.1, noCandidate := run.2
                               stopTokens := a.sampling.stopTokens, maxTokens := a.maxTokens
                               words := a.draftWords.take (acceptedDrafts run.1 a.drafts), firstPos := reqPosition r, runPos := reqPosition r, replayed := t.replay }
        .next (({ s with path := { s.path with jobs := s.path.jobs ++ [j] } }).nextToken a.acc)

end Sys2Proof.Machine
end

