-- ==== Sys2Proof/Machine/Egress.lean ====
section
/-! DEFINITION. The Egress: sealing, release, holding, fixed-shape release sequences, results, the token feed (14 R298 to R316; 07 R155; 08 R170; 12 R276; 16 R354, R359): RECORD_SEAL, RECORD_RELEASE, RELEASE_TICK, RESULT_GROUP, FEED_STREAM. -/

namespace Sys2Proof.Machine

open Sys2Proof.Bytes

/-! ## Ring entries (R298 to R301, R332, R333) -/

/-- The clear header of an entry, PHASE zero. -/
def entryHeader (acc seq type g keyGen part : Nat) : List Byte :=
  ofLe 4 acc ++ ofLe 4 seq ++ ofLe 1 type ++ ofLe 1 g ++ ofLe 2 keyGen ++ ofLe 1 part ++ ofLe 3 0

/-- The nonce of an entry (R332). -/
def entryNonce (type part seq : Nat) : List Byte := ofLe 1 2 ++ ofLe 1 type ++ ofLe 1 part ++ ofLe 1 0 ++ ofLe 4 seq ++ ofLe 4 0

/-- KEY_GEN of an entry sealed now. -/
def State.keyGenOf (s : State) (g : Nat) : Nat := if g = 0 then 0 else ((s.galAt g).egressAt s.kpr.ktime).2.toNat

/-- Plaintext sealed for an entry of a request: ciphertext and tag, in clear in gallery 0. -/
def State.sealEntry (s : State) (r : Req) (type part seq : Nat) (pt : List Byte) : List Byte × List Byte :=
  if r.gallery = 0 then (pt, List.replicate 16 0)
  else gcmSeal (recordKey ((s.galAt r.gallery).egressAt s.kpr.ktime).1 r.acc r.submitCtr) (entryNonce type part seq)
    (entryHeader r.acc seq type r.gallery (s.keyGenOf r.gallery) part) pt

/-- An entry of 64 bytes with a 32-byte plaintext. -/
def State.entry64 (s : State) (r : Req) (type part seq : Nat) (pt : List Byte) : List Byte :=
  let e := s.sealEntry r type part seq pt
  entryHeader r.acc seq type r.gallery (s.keyGenOf r.gallery) part ++ e.1 ++ e.2

/-- Logprob entries of an outcome. -/
def UnitOut.logprobs : UnitOut → List Nat
  | .token _ _ _ lps => lps
  | _ => []

/-- DUP and TIES_CUT of an outcome. -/
def UnitOut.dup : UnitOut → Bool
  | .token _ d _ _ => d
  | _ => false
def UnitOut.ties : UnitOut → Bool
  | .token _ _ t _ => t
  | _ => false

/-- Logprob entries of a record, in token order. -/
def OutRec.logprobs (o : OutRec) : List Nat := o.tokens.flatMap UnitOut.logprobs

/-- LP_PARTS of a record. -/
def OutRec.parts (o : OutRec) : Nat := ceilDiv o.logprobs.length 4

/-- The plaintext of a TOKEN entry (R300). -/
def OutRec.tokenPlain (o : OutRec) (late : Bool) : List Byte :=
  let flags := b2n late + 2 * b2n o.replayed + 4 * b2n (o.tokens.any UnitOut.dup) + 8 * b2n (o.tokens.any UnitOut.ties) + 16 * b2n o.final
  ofLe 1 o.tokens.length ++ ofLe 1 flags ++ ofLe 1 (if o.final then o.reason else 0) ++ ofLe 1 o.parts ++ ofLe 4 o.firstPos
    ++ slice (o.tokens.flatMap fun u => ofLe 3 u.id) 0 24

/-- The entries of a TOKEN group. -/
def State.tokenEntries (s : State) (r : Req) (o : OutRec) (late : Bool) : List (List Byte) :=
  s.entry64 r 1 0 o.seq (o.tokenPlain late)
    :: (List.range o.parts).map fun i => s.entry64 r 2 (i + 1) o.seq (slice (o.logprobs.flatMap fun n => ofLe 8 n) (32 * i) 32)

/-! ## Deadlines at a release stamp (R170, R303) -/

/-- A release at a Basam time misses a deadline. -/
def missed (now d : Nat) : Bool := passed now d && decide (now % 2 ^ 40 ≠ d % 2 ^ 40)

/-- Cause under which the Ledger counts a miss: 0 normal, 1 throttled, 2 reset, 3 takeover (R171, R418). -/
def State.missCause (s : State) (r : Req) (d : Nat) : Nat :=
  if s.throttled then 1
  else if r.adopted && (s.pair.survivorUs.any fun t => passed t d) then 3
  else if passed s.kpr.readyUs d then 2 else 0

/-- A missed deadline counted once, under the class of its request and its own kind; while throttled in the throttle-miss counters instead (R170). -/
def State.countMiss (s : State) (r : Req) (kind d : Nat) : State :=
  let s1 := s.count 5 (if s.throttled then 19 else 16 + r.cls) 1
  let s2 := s1.ledgerAdd (ledgerWing r.wing (12 + 4 * r.cls + s.missCause r d)) 1
  if s.throttled then s2 else s2.updGal r.gallery fun g => { g with counts := { g.counts with
    misses := SMap.modify g.counts.misses (r.cls * 3 + kind) 0 (· + 1) } }

/-- Deadlines that govern a record of a request: (kind, deadline). -/
def governing (r : Req) (o : OutRec) : List (Nat × Nat) :=
  (if r.firstDone || (o.isResult && decide (r.kind ≠ 1)) then [] else r.ttft.toList.map fun d => (0, d))
    ++ (if o.isResult then [] else r.itlNext.toList.map fun d => (1, d))
    ++ (if o.final then r.completion.toList.map fun d => (2, d) else [])

/-- The request behind a release stamp: its TTFT deadline is spent, its inter-token deadline armed. -/
def State.stamped (s : State) (r : Req) (o : OutRec) : State :=
  let itl := if s.throttled then 2 * r.itlUs else r.itlUs
  (s.updReq r.acc fun x => { x with
    firstDone := x.firstDone || !o.isResult || decide (x.kind = 1)
    itlNext := if o.isResult then x.itlNext else if o.final || decide (r.itlUs = 0) then none else some ((s.nowUs + itl) % 2 ^ 40) }).armWheel r.acc

/-! ## Sealing (R303) -/

/-- The drop count of a wing's KV mirror is being read (R359). -/
def State.statusRead (s : State) (w : Nat) : Bool :=
  (s.path.smp ++ s.path.smpWait).any fun q => decide (q.use = .mirrorStatus w)

/-- A record changed. -/
def State.updRec (s : State) (acc seq : Nat) (f : OutRec → OutRec) : State :=
  { s with path := { s.path with records := s.path.records.map fun (o : OutRec) => if o.acc = acc ∧ o.seq = seq then f o else o } }

/-- Records sealed and not yet acknowledged: MIRROR_LAG (R356). -/
def State.mirrorLag (s : State) : Nat :=
  (s.path.records.filter fun o => o.sealed && (o.mirrorDue || decide (s.pair.acked < o.fseq))).length

/-- The REC frame of a request's commit, with every entry sealed for it (R354). -/
def State.sendCommit (s : State) (acc : Nat) : State :=
  let due := s.path.records.filter fun o => decide (o.acc = acc) && o.mirrorDue
  match s.req? acc with
  | none => s
  | some r =>
    if due.isEmpty || !s.mirrored r then s
    else
      let s1 := s.sendRec r { op := .commit, releasedSeq := s.releasedSeq r
                              hist := due.flatMap fun o => o.tokens.map (·.id), entries := due.flatMap fun o => o.entries.map fun e => (o.seq, e) }
      let s2 := due.foldl (fun t o => t.updRec acc o.seq fun x => { x with mirrorDue := false, fseq := s1.fenceNow }) s1
      s2.gaugeMax 8 8 s2.mirrorLag

/-- Commits of a wing whose REC frames waited for the drop count. -/
def State.sendCommits (s : State) (w : Nat) : State :=
  (((s.path.records.filter fun o => decide (o.wing = w) && o.mirrorDue).map (·.acc)).eraseDups).foldl (fun t a => t.sendCommit a) s

/-- One record sealed: flags, release stamp and entries are fixed. -/
def State.sealRecord (s : State) (o : OutRec) : State :=
  match s.req? o.acc with
  | none => s
  | some r =>
    let ms := (governing r o).filter fun d => missed s.nowUs d.2
    let late := !ms.isEmpty
    let s1 := ms.foldl (fun t d => t.countMiss r d.1 d.2) s
    let s2 := if late then (s1.count 5 20 1).updGal r.gallery fun g => { g with counts := { g.counts with late := g.counts.late + 1 } } else s1
    (s2.updRec o.acc o.seq fun x => { x with
      sealed := true, late := late, stamp := s.kpr.ktime, entries := s.tokenEntries r o late, mirrorDue := s.mirrored r }).stamped r o

/-- RECORD_SEAL (R303): the records of a request made in an earlier tick are sealed, and their REC frame follows. -/
def execRecordSeal (acc : W32) (s : State) : Host.Outcome State Fault Refusal :=
  if s.dead then .next s else
  let a := acc.toNat
  let due := s.path.records.filter fun o => decide (o.acc = a) && !o.sealed && decide (o.madeAt.toNat < s.now)
  match due with
  | [] => .next s
  | o :: _ =>
    let s1 := due.foldl State.sealRecord s
    .next (if s1.statusRead o.wing then s1 else s1.sendCommit a)

/-! ## Release (R305 to R310) -/

/-- Ring of a gallery. -/
def ringOf (g : Nat) : Nat := g % 8

/-- The ring has room for a group. -/
def State.ringRoom (s : State) (g n : Nat) : Bool :=
  let q := s.resAt (ringOf g)
  !q.resetBusy && decide (occupancy q.pi q.ci + n ≤ 4096)

/-- An entry with PHASE. -/
def withPhase (phase : Bool) (e : List Byte) : List Byte := setNth e 13 (BitVec.ofNat 8 (b2n phase))

/-- A group written to its ring: the entries after the first, the first, the producer index, then the vector (R306). RESULT_DATA entries hold 64 bytes of ciphertext and no header (R312; DESIGN CHOICE, log entry 21). -/
def State.writeGroup (s : State) (o : OutRec) : State :=
  let i := ringOf o.gallery
  let q := s.resAt i
  let put := fun (m : Memory) (p : List Byte × Nat) =>
    let at_ := q.pi + BitVec.ofNat 13 p.2
    let bs := if o.isResult && decide (p.2 ≠ 0) then p.1 else withPhase (!at_.getLsbD 12) p.1
    Memory.writeBytes m (0x200000 + i * 0x40000 + at_.toNat % 4096 * 64) bs
  let s1 := { s with mem := (o.entries.zipIdx.reverse).foldl put s.mem, sec := s.sec.wrote 2 }
  (s1.updRes i fun x => { x with pi := x.pi + BitVec.ofNat 13 o.entries.length }).raiseVec i

/-- A record released: written, counted, and no longer kept; a final record frees its request's slot (R21). -/
def State.releaseRecord (s : State) (o : OutRec) : State :=
  let s1 := (s.writeGroup o).count 5 21 1
  let s2 := { s1 with path := { s1.path with records := s1.path.records.filter fun x => !(decide (x.acc = o.acc) && decide (x.seq = o.seq)) } }
  if o.final then s2.freeSlot o.acc else (s2.mirrorEvent o.acc .watermark).checkHeld o.acc

/-- The mirror of a record is acknowledged, or none is needed, and release is not withheld (R19, R309, R363). -/
def State.mayRelease (s : State) (o : OutRec) : Bool :=
  match s.req? o.acc with
  | none => false
  | some r => o.sealed && !s.withheld r.wing && (!s.awaitsAck r || (!o.mirrorDue && decide (o.fseq ≤ s.pair.acked)))

/-- The step is a fixed-shape step whose release sequence is still to come (R155). -/
def Step.turnsAhead (t : Step) : Bool := t.fixed && !t.releaseDone && !t.shape.windows.isEmpty

/-- A release sequence of the wing is still to come: its policy in force is fixed-shape, or a fixed-shape step has not had its own (R154, R155). -/
def Wing.turnsAhead (x : Wing) : Bool :=
  x.policy.fixed || (x.past ++ x.tails ++ x.running.toList ++ x.pending.toList ++ x.composed.toList).any Step.turnsAhead

/-- The record stems from a row of a fixed-shape step, and waits for that row's turn (R309). -/
def State.awaitsTurn (s : State) (o : OutRec) : Bool := o.row.isSome && (s.wingAt o.wing).turnsAhead

/-- Order of held groups of one ring: release stamp, slot, sequence number. -/
def OutRec.before (a b : OutRec) : Bool :=
  decide (a.stamp.toNat < b.stamp.toNat) || (decide (a.stamp = b.stamp) &&
    (decide (a.slot < b.slot) || (decide (a.slot = b.slot) && decide (a.seq < b.seq))))

/-- Held groups of a ring that room would let go before a record. -/
def State.heldBefore (s : State) (o : OutRec) : Bool :=
  s.path.records.any fun x => x.held && decide (ringOf x.gallery = ringOf o.gallery) && !s.awaitsTurn x
    && !(decide (x.acc = o.acc) && decide (x.seq = o.seq)) && (!o.held || x.before o)

/-- A record that may be released is written where its ring has room and nothing held goes before it, else held (R309). -/
def State.releaseOrHold (s : State) (o : OutRec) (behind : Bool) : State :=
  if s.ringRoom o.gallery o.entries.length && !behind then s.releaseRecord o
  else if o.held || o.isResult then s
  else (s.updRec o.acc o.seq fun x => { x with held := true }).checkHeld o.acc

/-- The oldest record of a request on its way. -/
def State.firstRecord (s : State) (acc : Nat) : Option OutRec :=
  (sortBy (fun (a b : OutRec) => decide (a.seq < b.seq)) (s.path.records.filter fun o => decide (o.acc = acc))).head?

/-- One record that may be released now: the oldest of its request is written or held, one behind a held record is held. -/
def State.releaseOne (s : State) (o : OutRec) (behind : Bool) : State :=
  match s.firstRecord o.acc with
  | none => s
  | some f =>
    if f.seq = o.seq then s.releaseOrHold o behind
    else if f.held && !o.held && !o.isResult then (s.updRec o.acc o.seq fun x => { x with held := true }).checkHeld o.acc
    else s

/-- Records of a request in order of SEQ. -/
def State.recordsOf (s : State) (acc : Nat) : List OutRec :=
  sortBy (fun (x y : OutRec) => decide (x.seq < y.seq)) (s.path.records.filter fun o => decide (o.acc = acc))

/-- RECORD_RELEASE (R309): records of a request are written in order of SEQ where their rings have room, or held. -/
def execRecordRelease (acc : W32) (s : State) : Host.Outcome State Fault Refusal :=
  if s.dead then .next s else
  .next ((s.recordsOf acc.toNat).foldl (fun t o => if t.mayRelease o && !t.awaitsTurn o then t.releaseOne o (t.heldBefore o) else t) s)

/-! ## Fixed-shape release (R155) -/

/-- The step whose release sequence is due: the oldest fixed-shape step that has not had it. -/
def State.releaseDue (s : State) (w : Nat) : Option Step :=
  let x := s.wingAt w
  (x.past.reverse ++ x.tails ++ x.running.toList).find? fun t =>
    t.turnsAhead && decide (t.startAt + lastClose t.shape + 5000 ≤ s.now)

/-- An isolation slip of a gallery. -/
def State.slip (s : State) (g : Nat) : State :=
  s.updGal g fun x => { x with counts := { x.counts with slips := x.counts.slips + 1 } }

/-- One record at its row's turn: written, held for room, or a slip. -/
def State.turn (s : State) (o : OutRec) : State :=
  if s.mayRelease o then s.releaseOne o false else s.slip o.gallery

/-- A row's turn: its records in order of SEQ, and a slip where the step's row has not committed yet. -/
def State.rowTurn (s : State) (w : Nat) (t : Step) (row : Nat) : State :=
  let os := sortBy (fun (a b : OutRec) => decide (a.seq < b.seq))
    (s.path.records.filter fun o => decide (o.wing = w) && decide (o.row = some row))
  let s1 := os.foldl State.turn s
  let late := (t.rows.find? fun a => decide (a.row = row)).filter fun a => decide (a.type ≠ 0) && !a.void && !t.committed.contains row
  match late with
  | some a => if t.discarded = 0 then s1.slip a.gallery else s1
  | none => s1

/-- RELEASE_TICK (R155): the release sequence of a fixed-shape step, in row order. -/
def execReleaseTick (wing : Fin 4) (s : State) : Host.Outcome State Fault Refusal :=
  if s.dead then .next s else
  let w := wing.val
  match s.releaseDue w with
  | none => .next s
  | some t =>
    let s1 := s.updStep w t.tag fun y => { y with releaseDone := true }
    .next ((List.range t.shape.rows).foldl (fun u r => u.rowTurn w t r) s1)

/-! ## Results (R311, R312) -/

/-- Address of a request's result area. -/
def State.resultArea (s : State) (r : Req) : Nat :=
  (s.site r.wing).resAreaBase + s.areaSlot r * (s.site r.wing).resultBytes

/-- A result job changed. -/
def State.updResult (s : State) (acc : Nat) (f : ResultJob → ResultJob) : State :=
  { s with path := { s.path with results := SMap.adjust s.path.results acc f } }

/-- The next SMP READ of a result: its first burst, or the next burst of the group. -/
def State.readResult (s : State) (r : Req) (j : ResultJob) : State :=
  let off := if j.length.isNone then 0 else 64 + j.next + j.buf.length
  (s.updResult r.acc fun x => { x with reading := true }).smpSend
    { wing := r.wing, op := 0, addr := s.resultArea r + off, keySlot := r.gallery, use := .result r.acc }

/-- Bytes of the group that begins at the job's next byte. -/
def ResultJob.groupLength (j : ResultJob) : Nat := min 4032 (j.length.getD 0 - j.next)

/-- The answer to a result's SMP READ: LENGTH, or a burst of the group. -/
def State.resultRead (s : State) (acc : Nat) (burst : List Byte) : State :=
  match SMap.find s.path.results acc, s.req? acc with
  | some j, some r =>
    if j.length.isNone then
      let n := field burst 0 4
      let cap := (s.site r.wing).resultBytes - 64
      let s1 := s.updResult acc fun x => { x with length := some (min n cap), truncated := decide (cap < n), reading := false }
      if cap < n then s1.report 0x000B 1 0x07 r.wing r.gallery [acc, j.shapeId, n] else s1
    else
      let j1 := { j with buf := j.buf ++ slice burst 0 64, reading := false }
      let s1 := s.updResult acc fun _ => j1
      if j1.buf.length < j1.groupLength then s1.readResult r j1 else s1
  | _, _ => s

/-- The RESULT group of a job's buffer (R312). -/
def State.resultEntries (s : State) (r : Req) (j : ResultJob) : List (List Byte) :=
  let n := j.groupLength
  let parts := ceilDiv n 64
  let last := decide (j.next + n = j.length.getD 0)
  let desc := ofLe 4 j.next ++ ofLe 4 n ++ ofLe 1 (b2n last + 2 * b2n j.truncated) ++ ofLe 23 0
  let e := s.sealEntry r 3 parts r.nextSeq (desc ++ slice (j.buf.take n) 0 (64 * parts))
  (entryHeader r.acc r.nextSeq 3 r.gallery (s.keyGenOf r.gallery) parts ++ e.1.take 32 ++ e.2)
    :: (List.range parts).map fun i => slice e.1 (32 + 64 * i) 64

/-- A group sealed: its deadlines, its REC frame, and behind the last group the final TOKEN record. -/
def State.sealResult (s : State) (r : Req) (j : ResultJob) : State :=
  let n := j.groupLength
  let o : OutRec := { acc := r.acc, gallery := r.gallery, wing := r.wing, slot := slotOf r.acc, seq := r.nextSeq, isResult := true
                      sealed := true, stamp := s.kpr.ktime, madeAt := s.kpr.ktime, entries := s.resultEntries r j, mirrorDue := s.mirrored r }
  let s0 := ((governing r o).filter fun d => missed s.nowUs d.2).foldl (fun t d => t.countMiss r d.1 d.2) s
  let s1 := ({ s0 with path := { s0.path with records := s0.path.records ++ [o] } }).updReq r.acc fun x => { x with nextSeq := x.nextSeq + 1 }
  let s2 := (s1.stamped r o).sendCommit r.acc
  if j.next + n = j.length.getD 0 then
    ({ s2 with path := { s2.path with results := SMap.drop s2.path.results r.acc } }).tokenlessFinal r.acc r.reason
  else s2.updResult r.acc fun x => { x with next := x.next + n, buf := [] }

/-- RESULT_GROUP (R312): a group is read when its ring has room for it, sealed when it is read, and released as any record; an empty result has no group. -/
def execResultGroup (acc : W32) (s : State) : Host.Outcome State Fault Refusal :=
  if s.dead then .next s else
  let a := acc.toNat
  match SMap.find s.path.results a, s.req? a with
  | some j, some r =>
    if j.reading || (s.path.records.any fun o => decide (o.acc = a)) then .next s
    else match j.length with
      | none => .next (s.readResult r j)
      | some n =>
        if n = 0 then .next (({ s with path := { s.path with results := SMap.drop s.path.results a } }).tokenlessFinal a r.reason)
        else if !s.ringRoom r.gallery (1 + ceilDiv j.groupLength 64) then .next s
        else if j.buf.length < j.groupLength then .next (s.readResult r j)
        else .next (s.sealResult r j)
  | _, _ => .next s

/-! ## The token feed (R211, R276, R313 to R315) -/

/-- STRIDE of a shape. -/
def feedStride (e : CatEntry) : Nat := max 3 (1 + e.specWidth)

/-- A feed word. -/
def feedWord (token mask aux : Nat) : W64 := BitVec.ofNat 64 (token * 2 ^ 43 + mask * 2 ^ 23 + aux)

/-- The VOID flag of a row's words. -/
def RowAsg.voidWord (a : RowAsg) : Bool := a.sentVoid.getD a.void

/-- The words of one row (R313, R314). -/
def RowAsg.words (a : RowAsg) (stride : Nat) : List W64 :=
  let v := a.voidWord
  let live := (decide (a.type = 1) || decide (a.type = 2)) && !v
  let masks := if a.sampling.aid = 0 then [] else (a.word :: a.draftWords).map maskIdOf
  let mask := fun (k : Nat) => if live then nth masks k 0 else 0
  let draft := fun (k : Nat) => if live && decide (k ≠ 0) then nth a.drafts (k - 1) 0 else 0
  if a.type = 0 then List.replicate stride 0
  else (List.range stride).map fun k =>
    if k = 0 then feedWord (if live then a.inToken else 0) (mask 0) (b2n v * 2 ^ 22 + (if live then a.sampling.scale % 2 ^ 22 else 0))
    else if k = 1 then feedWord (draft 1) (mask 1) (a.inputPos % 2 ^ 23)
    else if k = 2 then feedWord (draft 2) (mask 2) (bits a.inputPos 31 23 * 2 ^ 14 + (if live then a.drafts.length * 2 ^ 10 else 0))
    else feedWord (draft k) (mask k) 0

/-- The words of a stream. -/
def Step.feedWords (t : Step) : List W64 := t.rows.flatMap fun a => a.words (feedStride t.shape)

/-- The wing's step whose stream is the next to be sent; a running step that is discarded still reads one at its feed point (R376, R380). -/
def Wing.feedStep (x : Wing) : Option Step :=
  (x.running.toList ++ x.pending.toList ++ x.composed.toList).find? fun t => hasFeed t.shape && t.fedAt.isNone

/-- The wing with a row of a running, pending or composed step changed. -/
def Wing.mapRow (x : Wing) (tag : W16) (row : Nat) (f : RowAsg → RowAsg) : Wing :=
  let g := fun (t : Step) => if t.tag = tag then { t with rows := t.rows.map fun a => if a.row = row then f a else a } else t
  { x with running := x.running.map g, pending := x.pending.map g, composed := x.composed.map g }

/-- A row of a running, pending or composed step changed. -/
def State.updRow (s : State) (w : Nat) (tag : W16) (row : Nat) (f : RowAsg → RowAsg) : State :=
  s.updWing w fun x => x.mapRow tag row f

/-- A row of a running, pending or composed step. -/
def State.rowAt (s : State) (w : Nat) (tag : W16) (row : Nat) : Option RowAsg :=
  let x := s.wingAt w
  ((x.running.toList ++ x.pending.toList ++ x.composed.toList).find? fun t => decide (t.tag = tag)).bind fun t => t.rows.find? fun a => decide (a.row = row)

/-- State word behind a row's walks so far. -/
def RowAsg.lastWord (a : RowAsg) : W64 := (a.draftWords.getLast?).getD a.word

/-- The row after the walk of its next draft: the draft is supplied, or the run ends before it. -/
def RowAsg.walkedDraft (a : RowAsg) (word : Option W64) : RowAsg :=
  match a.toWalk with
  | [] => { a with prepared := true }
  | d :: ds =>
    if maskEmpty word then { a with toWalk := [], prepared := true }
    else { a with drafts := a.drafts ++ [d], draftWords := a.draftWords ++ [word.getD 0], toWalk := ds, prepared := ds.isEmpty }

/-- Draft walks of a row, each by one SMP READ where the state has a table (R276). -/
def State.walkDrafts (s : State) (w : Nat) (tag : W16) (row : Nat) : Nat → State
  | 0 => s
  | n + 1 =>
    match s.rowAt w tag row with
    | none => s
    | some a =>
      match a.toWalk, s.req? a.acc with
      | d :: _, some r =>
        if noTable a.lastWord then
          State.walkDrafts (s.updRow w tag row fun x => x.walkedDraft (stepWord a.lastWord none)) w tag row n
        else s.readBucket r a.lastWord d (.draftWalk w tag row d)
      | _, _ => s.updRow w tag row fun x => { x with toWalk := [], prepared := true }

/-- The answer to a draft's walk. -/
def State.draftAnswer (s : State) (w : Nat) (tag : W16) (row token : Nat) (bucket : List Byte) : State :=
  match s.rowAt w tag row with
  | none => s
  | some a =>
    let s1 := s.updRow w tag row fun x => x.walkedDraft (stepWord a.lastWord (nextIn bucket token))
    match s1.rowAt w tag row with
    | some b => if b.prepared then s1 else s1.walkDrafts w tag row (b.toWalk.length + 1)
    | none => s1

/-- An earlier step still owes a row of a request. -/
def State.owed (s : State) (w : Nat) (tag : W16) (acc : Nat) : Bool :=
  let x := s.wingAt w
  (s.job? acc).isSome || (x.stepsInOrder.takeWhile fun t => decide (t.tag ≠ tag)).any fun t =>
    decide (t.discarded = 0) && t.rows.any fun a => a.of acc && !a.void && !t.committed.contains a.row

/-- The walks of a row's drafts begun, if there are any. -/
def State.beginWalks (s : State) (w : Nat) (tag : W16) (row : Nat) (ds : List Nat) : State :=
  let s1 := s.updRow w tag row fun x => { x with toWalk := ds, walking := true, prepared := ds.isEmpty }
  if ds.isEmpty then s1 else s1.walkDrafts w tag row (ds.length + 1)

/-- The feed words of a row made where its values are final (R314, R315): those of a DIRECT row, its drafts included, stand since the compose point, but for the masks of its drafts. -/
def State.prepareRow (s : State) (w : Nat) (tag : W16) (a : RowAsg) : State :=
  if a.prepared || a.walking then s
  else if a.type ≠ 1 && a.type ≠ 2 then s.updRow w tag a.row fun x => { x with prepared := true }
  else
    let void_ := fun (u : State) => u.updRow w tag a.row fun x => { x with
      prepared := true, inputPos := ((SMap.find s.reg.reqs a.acc).map fun r => reqPosition r - 1).getD x.inputPos }
    match s.req? a.acc with
    | none => void_ s
    | some r =>
      if a.void then void_ s
      else if a.type = 2 then s.beginWalks w tag a.row a.toWalk
      else if s.owed w tag a.acc then s
      else
        let c := reqPosition r - 1
        let ds := heldDrafts r c a.spec
        let plain := decide (a.sampling.aid = 0)
        (s.updRow w tag a.row fun x => { x with
          inputPos := c, inToken := reqToken r c, word := r.aidWord, drafts := if plain then ds else [], draftWords := [] }).beginWalks
          w tag a.row (if plain then [] else ds)

/-- Beats of a stream whose every word is final (R315). -/
def Step.finalBeats (t : Step) : Nat :=
  let ready := (t.rows.takeWhile fun a => a.prepared).length
  let n := feedStride t.shape * ready
  if ready = t.rows.length then ceilDiv n 4 else n / 4

/-- The stream is complete. -/
def Step.fedWhole (t : Step) : Bool := t.rows.all fun a => a.prepared

/-- Beat b of a stream of words (R313): four words, those beyond the last not present. -/
def feedBeat (words : List W64) (b : Nat) : FeedBeat :=
  let ws := (words.drop (4 * b)).take 4
  { words := ws ++ List.replicate (4 - ws.length) 0, wen := BitVec.ofNat 4 (2 ^ ws.length - 1)
    first := decide (b = 0), last := decide (words.length ≤ 4 * b + 4) }

/-- The step with the beats of its stream sent that are final; the words of a row that has begun to go keep their VOID flag. -/
def Step.feedOn (t : Step) (now : W64) : Step :=
  let n := t.finalBeats
  { t with
    rows := t.rows.zipIdx.map fun p => if p.2 * feedStride t.shape < 4 * n then { p.1 with sentVoid := some p.1.voidWord } else p.1
    fedBeats := n, fedAt := if t.fedWhole then some now else none }

/-- Beats of a stream sent as far as they are final: the gate closes until FEED_TAKEN (R54). The replay of a discarded step takes the same words (R53). -/
def State.sendFeed (s : State) (w : Nat) (t : Step) : State :=
  let t1 := t.feedOn s.kpr.ktime
  let put := fun (y : Step) => if y.tag = t.tag then t1 else if y.replayTag = some t.tag then { y with rows := t1.rows } else y
  let s1 := s.updWing w fun x => { x with
    running := x.running.map put, pending := x.pending.map put, composed := x.composed.map put, feedGate := some t.tag
    replayOf := x.replayOf.map fun (y : Step) => if y.tag = t.tag then { y with rows := t1.rows } else y }
  s1.emit (.feed w t.tag (((List.range t1.fedBeats).drop t.fedBeats).map (feedBeat t1.feedWords)))

/-- FEED_STREAM (R315): rows whose values are final get their words, and the beats whose words are final go where the gate is open to this stream. -/
def execFeedStream (wing : Fin 4) (s : State) : Host.Outcome State Fault Refusal :=
  if s.dead then .next s else
  let w := wing.val
  match (s.wingAt w).feedStep with
  | none => .next s
  | some t =>
    let s1 := t.rows.foldl (fun u a => u.prepareRow w t.tag a) s
    match (s1.wingAt w).feedStep with
    | none => .next s1
    | some t1 =>
      let gate := (s1.wingAt w).feedGate
      let open_ := decide (gate = none) || decide (gate = some t1.tag)
      .next (if open_ && (t1.fedWhole || decide (t1.fedBeats < t1.finalBeats)) && !s1.kpr.halted then s1.sendFeed w t1 else s1)

end Sys2Proof.Machine
end

