-- ==== Sys2Proof/Machine/Smp.lean ====
section
/-! DEFINITION. Answers from stack memory: what each SMP response completes, and what a failed one costs (03 R56 to R59; 12 R278; 16 R359; 17 R391): SMP_RESPONSE. -/

namespace Sys2Proof.Machine

open Sys2Proof.Bytes

/-- Tag of the step of a wing that ended last. -/
def Wing.endedTag (x : Wing) : Nat := (((x.tails.getLast?).toList ++ x.past).head?.map fun t => t.tag.toNat).getD 0

/-- The drop count of a wing's KV mirror read: a rise keeps the step's REC frames back and counts as a failure of the partner (R359). -/
def State.mirrorStatusRead (s : State) (w drops : Nat) : State :=
  let old := (s.wingAt w).mirrorDrops.toNat
  let s1 := s.updWing w fun x => { x with mirrorDrops := BitVec.ofNat 64 drops }
  if old < drops then
    let s2 := (s1.count 8 9 (drops - old)).report 0x0009 2 0x0B w 255 [(s.wingAt w).endedTag, drops % 2 ^ 32, drops / 2 ^ 32]
    s2.detectFailure
  else s1.sendCommits w

/-- What a response with status OK completes. -/
def State.smpDone (s : State) (q : SmpReq) (data : List Byte) : State :=
  match q.use with
  | .history acc t => s.commitToken acc t
  | .walk acc t =>
    match s.job? acc, s.req? acc with
    | some _, some r => s.walked acc t (stepWord r.aidWord (nextIn data t))
    | _, _ => s
  | .stopRead acc i => s.stopAnswer acc i data
  | .draftWalk w tag row t => s.draftAnswer w tag row t data
  | .result acc => s.resultRead acc data
  | .mirrorStatus w => if w < 4 then s.mirrorStatusRead w (field data ((s.site w).mirrorStatus % 64) 8) else s
  | .pageTable _ _ => s
  | .setup _ => s
  | .aid _ _ => s

/-- A request not deaccessioned, to which a failed response matters (R278). -/
def State.concerns (s : State) (acc : Nat) : Bool := ((s.req? acc).map fun r => r.state != .deaccessioned).getD false

/-- A result area that cannot be read: the request's reason becomes DATA_LOST (R391). -/
def State.loseResult (s : State) (acc : Nat) : State :=
  match SMap.find s.path.results acc, s.req? acc with
  | some _, some r =>
    let s1 := (s.report 0x0022 1 0x02 r.wing r.gallery [acc, 0xFF]).updReq acc fun x => { x with reason := 9 }
    let s2 := ({ s1 with path := { s1.path with results := SMap.drop s1.path.results acc } }).count 5 14 1
    (s2.updGal r.gallery fun g => { g with counts := { g.counts with
      deaccessions := SMap.modify g.counts.deaccessions 9 0 (· + 1) } }).tokenlessFinal acc 9
  | _, _ => s

/-- The result of a request is discarded with the records of a gallery that closes or is closed: KEY_EMPTY or RANGE then costs nothing (R58, R278). -/
def State.closedUnder (s : State) (q : SmpReq) (status : Nat) : Bool :=
  decide (status ≠ 1) && decide (q.keySlot < 64) && decide ((s.galAt q.keySlot).state ≠ 1)

/-- Loss of what a request of Basam's own was made for: the report is written in every case (R391); the request is deaccessioned if it is live here. -/
def State.smpLoses (s : State) (q : SmpReq) (status unit acc : Nat) : State :=
  let s1 := s.smpReport q status unit (if (s.req? acc).isSome then 16 else 0) acc
  if s.concerns acc then s1.loseRequest acc else s1

/-- The same for a finding aid: it is removed with the requests that name it, if it is still held. -/
def State.smpLosesAid (s : State) (q : SmpReq) (status g n acc : Nat) : State :=
  let s1 := s.smpReport q status 0x06 17 acc
  if (SMap.find (s.galAt g).aids n).isSome then s1.loseAid g n else s1

/-- What a response with a status other than OK costs (R18, R58, R278, R391). The reserved codes 4 to 7 of SMP_RSP_STATUS are treated as a failed request of module severity: the spec reserves them and gives them no effect (DESIGN CHOICE, log entry 104). -/
def State.smpFailed (s : State) (q : SmpReq) (status : Nat) : State :=
  if s.closedUnder q status then s else
  let own := fun (unit acc : Nat) => s.smpLoses q status unit acc
  let aid := fun (g n acc : Nat) => s.smpLosesAid q status g n acc
  match q.use with
  | .history acc _ => own 0x02 acc
  | .stopRead acc _ => own 0x02 acc
  | .pageTable _ acc => own 0x03 acc
  | .setup acc => own 0x01 acc
  | .walk acc _ =>
    match s.req? acc with
    | some r => aid r.gallery r.sampling.aid acc
    | none => s.smpReport q status 0x06 17 acc
  | .draftWalk w tag row _ =>
    match s.rowAt w tag row with
    | some a => aid a.gallery a.sampling.aid a.acc
    | none => s.smpReport q status 0x06 17 0
  | .aid g n => aid g n 0
  | .result acc => (s.smpReport q status 0x07 18 acc).loseResult acc
  | .mirrorStatus w => if w < 4 then (s.smpReport q status 0x0B 0 0).sendCommits w else s.smpReport q status 0x0B 0 0

/-- SMP_RESPONSE (R58): the request of a tag is answered; requests that waited for a tag follow. -/
def execSmpResponse (tag : Nat) (status : Nat) (data : List Byte) (s : State) : Host.Outcome State Fault Refusal :=
  if s.dead then .next s else
  match s.path.smp.find? fun q => decide (q.tag = tag) with
  | none => .next s
  | some q =>
    let lat := s.now - q.issued.toNat
    let s1 := { s with path := { s.path with smp := s.path.smp.filter fun (x : SmpReq) => decide (x.tag ≠ tag) } }
    let s2 := (s1.count 9 5 lat).gaugeMax 9 6 lat
    .next (if status = 0 then s2.smpDone q data else s2.smpFailed q status).smpFlush

end Sys2Proof.Machine
end

