-- ==== Sys2Proof/Machine/Heartbeat.lean ====
section
/-! DEFINITION. Heartbeats, clock offset, failure detection, the fence, takeover and adoption (16 R342 to R345, R361 to R371): HEARTBEAT_TX, HEARTBEAT, ECHO, FAILURE, YIELD, HEARTBEAT_TIMEOUT, FENCE_TIMEOUT, FENCE_CONFIRMED, FENCE_DENIED, ADOPTION, MIRROR_LATE. -/

namespace Sys2Proof.Machine

open Sys2Proof.Bytes

/-! ## Heartbeat frames (R342, R343) -/

/-- A frame of TYPE, HSEQ and VALUE with its CRC. -/
def beatFrame (type hseq value : Nat) : W64 :=
  let hi := type * 2 ^ 28 + hseq % 2 ^ 12 * 2 ^ 16 + value % 2 ^ 16
  BitVec.ofNat 64 (hi * 2 ^ 32 + crc32c (ofLe 4 hi))

/-- CRC of a received frame holds. -/
def beatValid (f : W64) : Bool := decide (crc32c (ofLe 4 (f.toNat / 2 ^ 32)) = f.toNat % 2 ^ 32)

def beatType (f : W64) : Nat := bits f.toNat 63 60
def beatSeq (f : W64) : Nat := bits f.toNat 59 48
def beatValue (f : W64) : Nat := bits f.toNat 47 32

/-- The part is a pair member and out of reset: its heartbeat interface runs. -/
def State.beats (s : State) : Bool := s.partner?.isSome && s.kpr.ready && !s.resetLow && decide (s.kpr.haltCode = 0)

/-- A valid frame of a TYPE received. -/
def State.heard (s : State) (f : W64) (type : Nat) : Bool := s.beats && beatValid f && decide (beatType f = type)

/-- A valid frame noted: its arrival (R361). -/
def State.noteFrame (s : State) : State := { s with pair := { s.pair with lastFrame := some s.kpr.ktime } }

/-- A valid frame of a partner that goes on: a fence that waits is withdrawn behind the tick (R362, R371). -/
def State.noteAlive (s : State) : State := { s.noteFrame with pair := { s.noteFrame.pair with withdrawDue := true } }

/-- A yielded member's paired wings have completed their steps (R363). -/
def State.yieldDone (s : State) : Bool :=
  (List.range 4).all fun w => !(s.wingAt w).paired || (s.wingAt w).running.isNone

/-- HEARTBEAT_TX (R343): every 10,000 ticks a HEARTBEAT, or a YIELD from a yielded member. -/
def execHeartbeatTx (s : State) : Host.Outcome State Fault Refusal :=
  if s.beats && decide (s.now % 10000 = 0) && decide ((s.pair.sentAt.map (·.2)) ≠ some s.kpr.ktime) then
    let type := if s.pair.state == .yielded && s.yieldDone then 4 else 1
    let h := s.pair.hseq + 1
    .next ({ s with pair := { s.pair with hseq := h, sentAt := some (h, s.kpr.ktime) } }.emit
      (.heartbeat (beatFrame type h.toNat (s.now % 2 ^ 16))))
  else .next s

/-- HEARTBEAT (R343, R344): answered with an ECHO. -/
def execGrvHeartbeat (frame : W64) (s : State) : Host.Outcome State Fault Refusal :=
  if s.heard frame 1 then
    let e := (s.now % 2 ^ 16 + 2 ^ 16 - beatValue frame) % 2 ^ 16
    let s1 := s.noteAlive.count 8 4 1
    .next ({ s1 with pair := { s1.pair with ownEcho := some (e, s1.kpr.ktime) } }.emit (.heartbeat (beatFrame 2 (beatSeq frame) e)))
  else .next s

/-- FAILURE sent by a pair member before it stops releasing, with the halt code as its cause, which is informative (R343). -/
def State.sendFailure (s : State) (code : Nat) : State :=
  if s.partner?.isSome && s.kpr.ready then
    let h := s.pair.hseq + 1
    { s with pair := { s.pair with hseq := h } }.emit (.heartbeat (beatFrame 3 h.toNat code))
  else s

/-! ## Clock offset (R344, R345) -/

/-- Twice the raw offset: the value nearest to an estimate (both in half ticks) congruent to a difference modulo 2^16. -/
def rawOffset (est : Int) (eP eO : Nat) : Int :=
  let d := ((eP : Int) - (eO : Int) - est) % 65536
  est + (if 32768 ≤ d then d - 65536 else d)

/-- The exchange with the smallest round trip, the newest among equals. -/
def bestExchange : List (Int × Nat) → Option (Int × Nat)
  | [] => none
  | e :: es => some (es.foldl (fun best x => if x.2 < best.2 then x else best) e)

/-- An exchange taken in: the estimate follows, and the alarm of R345. -/
def State.exchange (s : State) (theta2 : Int) (trip : Nat) : State :=
  let es := ((theta2, trip) :: s.pair.exchanges).take 16
  match bestExchange es with
  | none => s
  | some (est, best) =>
    let moved := s.pair.thetaKnown && decide (200 < (est - s.pair.theta).natAbs)
    let s1 := { s with pair := { s.pair with exchanges := es, theta := est, thetaKnown := true } }
    if decide (2000 < best) || moved then (s1.report 0x0007 1 0x0B 255 255 [best, twos 32 (est / 2)]).keeperCause 3 else s1

/-- ECHO (R344). The partner's HEARTBEAT left half a round trip before it came, by the offset that the exchange itself gives. -/
def execGrvEcho (frame : W64) (s : State) : Host.Outcome State Fault Refusal :=
  if s.heard frame 2 then
    let s1 := s.noteAlive
    match s.pair.sentAt, s.pair.ownEcho with
    | some (h, sent), some (eO, came) =>
      let eP := beatValue frame
      let trip := (eP + eO) % 2 ^ 16
      let left := came.toNat - trip / 2
      let apart := max sent.toNat left - min sent.toNat left
      if h.toNat = beatSeq frame ∧ apart ≤ 10000 then .next (s1.exchange (rawOffset s.pair.theta eP eO) trip)
      else .next s1
    | _, _ => .next s1
  else .next s

/-- θ × 10 in ns, saturated to 32 bits (R345). -/
def State.offsetNs (s : State) : Int := sat32 (s.pair.theta * 5)

/-- A partner's deadline in own Basam time (R353, R364). -/
def State.ownTime (s : State) (d : Nat) : Nat := twos 40 ((d : Int) - s.thetaUs)

/-! ## Detection (R361) -/

/-- FAILURE (R361). -/
def execGrvFailure (frame : W64) (s : State) : Host.Outcome State Fault Refusal :=
  if s.heard frame 3 then .next s.noteFrame.detectFailure else .next s

/-- HEARTBEAT_TIMEOUT (R361): 31,000 ticks without a valid frame. -/
def execHeartbeatTimeout (s : State) : Host.Outcome State Fault Refusal :=
  match s.pair.lastFrame with
  | none => .next s
  | some t => .next (if t.toNat + 31000 ≤ s.now then s.detectFailure else s)

/-- FENCE_TIMEOUT (R341): 5,000 µs after detection with no confirmation: DEGRADED behind the tick, since a confirmation of the same tick applies (R371). DEDUCED, log entry 108. -/
def execFenceTimeout (s : State) : Host.Outcome State Fault Refusal :=
  .next (if s.pair.state == .fencing && decide (s.pair.detectedAt.toNat + 500000 ≤ s.now) then
    { s with pair := { s.pair with expireDue := true } } else s)

/-! ## Takeover (R364 to R367) -/

/-- Entry into TAKEOVER: the fence is held, the journal is at phase 2, replies that waited are written (R371). -/
def State.enterTakeover (s : State) : State :=
  let s1 := (s.setPair .takeover).lowerFence.endSession
  { s1 with pair := { s1.pair with journal := some (2, s1.kpr.ktime) } }.flushReplies

/-- YIELD (R361, R363): detection and fence in one; two yielded members are resolved by side. -/
def execGrvYield (frame : W64) (s : State) : Host.Outcome State Fault Refusal :=
  if s.heard frame 4 then
    let s1 := s.noteFrame
    .next (match s1.pair.state with
      | .paired => s1.enterTakeover
      | .joining => s1.enterTakeover
      | .fencing => s1.enterTakeover
      | .yielded => if s1.side = 0 then s1.setPair .alone else s1
      | _ => s1)
  else .next s

/-- A mirrored record as an adopted request (R364). -/
def State.adoptedReq (s : State) (r : Req) : Req :=
  { mapDeadlines r s.ownTime with
    pages := r.pages.map fun p => (s.mapTarget r.wing p.1, p.2)
    covered := min r.covered r.kvDone, adopted := true, degraded := false, mirrorCovered := false, pendingReason := 0, gone := false, restored := true }

/-- Records for the sealed entries kept for a request, in order of SEQ; the last of a request that is deaccessioned is final. -/
def keptRecords (r : Req) (released : Nat) (entries : List (Nat × List Byte)) (now : W64) : List OutRec :=
  let due := entries.filter fun e => decide (released ≤ e.1)
  let seqs := sortBy (fun (a b : Nat) => decide (a < b)) ((due.map (·.1)).eraseDups)
  seqs.map fun n =>
    let es := (due.filter fun e => decide (e.1 = n)).map (·.2)
    { acc := r.acc, gallery := r.gallery, wing := r.wing, slot := slotOf r.acc, seq := n, sealed := true, stamp := now, madeAt := now
      entries := es, isResult := decide (field (es.headD []) 8 1 = 3), reason := r.reason
      final := r.state == .deaccessioned && decide (n + 1 = r.nextSeq) && decide (field (es.headD []) 8 1 ≠ 3) }

/-- One slot of the mirror half adopted: a lost record ends with DATA_LOST, and so does a result whose area only the partner holds (DESIGN CHOICE, log entry 22). -/
def State.adoptSlot (s : State) (m : MirrorSlot) : State :=
  let r := s.adoptedReq m.record
  let recs := keptRecords r m.releasedSeq m.entries s.kpr.ktime
  let s1 := { s with
    reg := { s.reg with reqs := SMap.put s.reg.reqs r.acc r }
    path := { s.path with records := s.path.records ++ recs } }
  let s2 := s1.updGal r.gallery fun g => { g with lastCtr := BitVec.ofNat 64 (max g.lastCtr.toNat r.submitCtr) }
  if r.state == .deaccessioned then
    (if recs.any (·.final) then s2
     else ((s2.report 0x0022 1 0x02 r.wing r.gallery [r.acc, 0xFF]).updReq r.acc fun x => { x with reason := 9 }).tokenlessFinal r.acc 9)
  else if m.lost then s2.dataLost r.acc 1
  else s2

/-- ADOPTION (R364): every request of the mirror half whose home side is the partner's is adopted; the journal passes phase 3 and is complete on entry to SURVIVOR. -/
def execAdoption (s : State) : Host.Outcome State Fault Refusal :=
  if s.dead then .next s else
  if s.pair.state == .takeover then
    let mine := s.reg.mirror.filter fun m => decide (homeSide m.2.record.acc ≠ s.side)
    let s1 := mine.foldl (fun t m => t.adoptSlot m.2) { s with reg := { s.reg with mirror := [] } }
    let s2 := { s1 with pair := { s1.pair with journal := none, survivorUs := some s1.nowUs } }
    .next (((s2.setPair .survivor).count 8 6 1).ledgerAdd 14 1)
  else .next s

/-! ## Fence answers (R362, R367, R88) -/

/-- Message types of channel 1. -/
def fenceMails : List (Nat × Nat × Nat) := [(0x10, 1, 0), (0x11, 1, 0)]

/-- A fence answer of a type: acted on and acknowledged in one act; a message that fails its checks is acknowledged with its code, a side that is not the partner's with BAD_PARAM, the member's own included (R121, R127, R129; log entry 94). -/
def State.fenceMail (s : State) (type : Nat) (act : State → State) : State :=
  if !s.active .control || s.kpr.halted then s
  else match s.mail 1 fenceMails with
    | .empty => s
    | .refuse code => s.ackMessage 1 code
    | .message t words =>
      if t ≠ type then s
      else if nth words 0 0 ≠ 1 - s.side then s.ackMessage 1 0x8014
      else (act s).ackMessage 1 0

/-- The journal resumed by a fence that still holds (R88). -/
def State.journalHeld (s : State) : State :=
  { s with
    kpr := { s.kpr with journalResumed := true }
    pair := { s.pair with journalAsked := none } }

/-- What a live journal preserved is cleared: records, gallery tables, held records; slot generations and GALLERY_GEN stay (R80, R88, R139). -/
def State.clearPreserved (s : State) : State :=
  { s with
    reg := { gens := s.reg.gens }, path := { s.path with records := [] }
    wings := s.wings.map fun (e : Nat × Wing) => (e.1, { e.2 with paired := false }), pair := { s.pair with partner := none }
    galleries := s.galleries.map fun (e : Nat × Gallery) => (e.1, { gen := e.2.gen }) }

/-- FENCE_CONFIRMED (R362, R367): a takeover begins, also late; after a block reset it confirms the journal (R88). -/
def execFenceConfirmed (s : State) : Host.Outcome State Fault Refusal :=
  .next (s.fenceMail 0x10 fun t =>
    if t.pair.journalAsked.isSome then t.journalHeld
    else if t.pair.state == .fencing || t.pair.state == .degraded then t.enterTakeover
    else t)

/-- FENCE_DENIED (R362): DEGRADED, and FENCE_REQ falls, also with a late answer (R65); after a block reset the journal is discarded (R88). -/
def execFenceDenied (s : State) : Host.Outcome State Fault Refusal :=
  .next (s.fenceMail 0x11 fun t =>
    if t.pair.journalAsked.isSome then t.dropJournal.clearPreserved
    else if t.pair.state == .fencing then t.enterDegraded.lowerFence
    else if t.pair.state == .degraded then t.lowerFence
    else t)

/-! ## Late mirrors (R356) -/

/-- MIRROR_LATE (R356): a record unacknowledged 1,000 µs after sealing is reported once. -/
def execMirrorLate (acc : W32) (seq : Nat) (s : State) : Host.Outcome State Fault Refusal :=
  if s.dead then .next s else
  match s.path.records.find? fun o => decide (o.acc = acc.toNat) && decide (o.seq = seq) with
  | none => .next s
  | some o =>
    let waits := ((s.req? o.acc).map s.awaitsAck).getD false && (o.mirrorDue || decide (s.pair.acked < o.fseq))
    if s.pair.state == .paired && o.sealed && waits && !o.mirrorLate && decide (o.stamp.toNat + 100000 ≤ s.now) then
      .next ((s.updRec o.acc o.seq fun x => { x with mirrorLate := true }).report 0x0008 1 0x0B o.wing o.gallery [o.acc, o.seq])
    else .next s

end Sys2Proof.Machine
end

