-- ==== Sys2Proof/Machine/Ledger.lean ====
section
/-! DEFINITION. The Ledger body, its checkpoints and the journal; telemetry, the power cap check and throttling (19 R418 to R426; 08 R170, R174; 09 R201): LEDGER_CHECKPOINT, LEDGER_READ, PERIODIC_CHECKPOINT, CHECKPOINT_COMPLETE, TELEMETRY, THROTTLE_END. -/

namespace Sys2Proof.Machine

open Sys2Proof.Bytes

/-! ## The body (R418, R420) -/

/-- A firmware activation entry. -/
def activationBytes (e : W32 × Nat × W16 × Bool) : List Byte :=
  ofLe 4 e.1.toNat ++ ofLe 4 e.2.1 ++ ofLe 2 e.2.2.1.toNat ++ ofLe 1 (b2n e.2.2.2) ++ ofLe 5 0

/-- A sticky list entry: POWER_ON_S, region, codeword, row, marks. -/
def stickyBytes (e : Nat × Nat × Nat × Nat × Nat) : List Byte :=
  ofLe 4 e.1 ++ ofLe 1 e.2.1 ++ ofLe 1 0 ++ ofLe 2 e.2.2.1 ++ ofLe 4 e.2.2.2.1 ++ ofLe 4 e.2.2.2.2

/-- A breach table entry. -/
def BreachEntry.bytes (e : BreachEntry) : List Byte :=
  ofLe 8 e.fingerprint.toNat ++ ofLe 1 e.wing ++ ofLe 1 0 ++ ofLe 2 e.quarantines ++ ofLe 4 e.firstS ++ ofLe 4 e.lastS
    ++ ofLe 4 e.steps ++ ofLe 4 e.codes.toNat ++ ofLe 4 0

/-- `n` entries of a list section, absent ones zero. -/
def section_ {α : Type} (m : SMap α) (n size : Nat) (f : α → List Byte) : List Byte :=
  (List.range n).flatMap fun i => match SMap.find m i with
    | none => List.replicate size 0
    | some e => f e

/-- The body of 11,952 bytes. -/
def Ledger.body (l : Ledger) : List Byte :=
  ((List.range 309).flatMap fun i => ofLe 8 (SMap.getD l.words i 0).toNat)
    ++ section_ l.activations 16 16 activationBytes ++ section_ l.sticky 64 16 stickyBytes
    ++ section_ l.breaches 256 32 BreachEntry.bytes ++ ofLe 8 l.evicted.toNat

/-! ## Checkpoints (R421 to R424) -/

/-- Bytes 0 to 63 of a checkpoint: its first 28 bytes, HEADER_CRC over them and bytes 32 to 63, and 32 zero bytes. -/
def checkpointHeader (head : List Byte) : List Byte :=
  let rest := List.replicate 32 (0 : Byte)
  head ++ ofLe 4 (crc32c (head ++ rest)) ++ rest

/-- Bytes 0 to 27 of a checkpoint. -/
def checkpointHead (seq ktime epoch cause : Nat) : List Byte :=
  ofLe 8 seq ++ ofLe 8 ktime ++ ofLe 2 1 ++ ofLe 2 epoch ++ ofLe 1 cause ++ ofLe 3 0 ++ ofLe 4 11952

/-- A checkpoint complete: header, body, TAG, SIGNATURE (R422). -/
def sealCheckpoint (seq : Nat) (head body : List Byte) : List Byte :=
  let clear := checkpointHeader head ++ body
  let nonce := ofLe 1 5 ++ ofLe 3 0 ++ ofLe 8 seq
  let tagged := clear ++ ofBe 16 (Config.gcmTag ledgerKey nonce clear []).toNat
  tagged ++ deviceSign tagged

/-- The journal's slots with a valid checkpoint, the newest first. -/
def Ledger.newest (l : Ledger) : List (Nat × Checkpoint) :=
  sortBy (fun (a b : Nat × Checkpoint) => decide (b.2.seq < a.2.seq)) (l.journal.filter fun e => e.2.valid)

/-- The slot the next checkpoint goes to (R423). -/
def Ledger.nextSlot (l : Ledger) : Nat :=
  match l.newest.head? with
  | none => 0
  | some e => (e.1 + 1) % 256

/-- CKPT_SEQ of the next checkpoint: one above the highest in the journal; 1 in an empty journal (DESIGN CHOICE, log entry 23). -/
def Ledger.nextSeq (l : Ledger) : Nat := maxOf (l.journal.map fun e => e.2.seq) + 1

/-- A checkpoint begins: the body is copied in this tick (R421). While it is programmed, `bytes` holds header bytes 0 to 27 without CAUSE and the body. -/
def State.beginCheckpoint (s : State) (cause : Nat) (seq : Option W32) : State :=
  let n := s.ledger.nextSeq
  let c : Checkpoint := { seq := n, bytes := checkpointHead n s.now s.kpr.blockEpoch.toNat 0 ++ s.ledger.body }
  ({ s with ledger := { s.ledger with running := some (s.ledger.nextSlot, c), cause := cause } }.wake [.control]).startActivity 2 255 seq 0

/-- A cause of a checkpoint: it begins one, or is noted by the one that runs, the lower code standing (R421). -/
def State.checkpoint (s : State) (cause : Nat) (seq : Option W32) : State :=
  match s.ledger.running with
  | some _ => { s with ledger := { s.ledger with cause := min s.ledger.cause cause } }
  | none => s.beginCheckpoint cause seq

/-- Basam's own starts that wait, decided behind the commands of the tick: a cause joins the running checkpoint, else one begins when no activity refuses it (R397, R421). -/
def State.ownStarts (s : State) : State :=
  match s.ledger.waiting with
  | [] => s
  | c :: cs =>
    if s.ledger.running.isNone && (s.conflict 2 255).isSome then s
    else
      let s1 := { s with ledger := { s.ledger with waiting := [] } }
      s1.checkpoint (cs.foldl min c) none

/-- LEDGER_CHECKPOINT (R421). -/
def execLedgerCheckpoint (ring : Fin 8) (s : State) : Host.Outcome State Fault Refusal :=
  .next (clearCommand 0x52 noPayload (fun _ s =>
    match s.conflict 2 255 with
    | some k => .busy s k
    | none => { state := s.checkpoint 2 (some s.rings.applySeq), status := stPending }) ring s)

/-- PERIODIC_CHECKPOINT (R421): every 600,000,000 µs from READY; the start is Basam's own. -/
def execPeriodicCheckpoint (s : State) : Host.Outcome State Fault Refusal :=
  if s.dead then .next s else
  if s.kpr.ready && decide (s.ledger.nextPeriodic ≤ s.now) then
    .next { s with ledger := { s.ledger with waiting := s.ledger.waiting ++ [3], nextPeriodic := s.ledger.nextPeriodic + 60000000000 } }
  else .next s

/-- CHECKPOINT_COMPLETE (R423): the header is programmed last, the activity ends, the following slot is erased. -/
def execCheckpointComplete (s : State) : Host.Outcome State Fault Refusal :=
  if s.dead then .next s else
  match s.ledger.running with
  | none => .next s
  | some (slot, c) =>
    let head := setNth (c.bytes.take 28) 20 (BitVec.ofNat 8 s.ledger.cause)
    let done : Checkpoint := { c with bytes := sealCheckpoint c.seq head (c.bytes.drop 28) }
    let s1 := { s with ledger := { s.ledger with
      running := none, cause := 0, journal := SMap.drop (SMap.put s.ledger.journal slot done) ((slot + 1) % 256) } }
    .next ((s1.ledgerAdd 24 1).endActivity 2 255 stOk)

/-! ## LEDGER_READ (R426) -/

/-- `n` bytes of a journal slot from an offset; erased bytes read 0xFF. -/
def Ledger.slotBytes (l : Ledger) (slot off n : Nat) : List Byte :=
  let bs := ((SMap.find l.journal slot).map (·.bytes)).getD []
  let part := (bs.drop off).take n
  part ++ List.replicate (n - part.length) 0xFF

/-- Bytes of the journal by absolute offset, over slots of 64 KiB. -/
def Ledger.journalBytes (l : Ledger) (off n : Nat) : List Byte :=
  let first := min n (65536 - off % 65536)
  l.slotBytes (off / 65536) (off % 65536) first ++ l.slotBytes (off / 65536 + 1) 0 (n - first)

/-- What OFFSET and COUNT name: the bytes, or none where they are out of range. -/
def Ledger.readAt (l : Ledger) (off n : Nat) : Option (List Byte) :=
  if n % 16 ≠ 0 ∨ n < 16 ∨ 32720 < n then none
  else if bit off 31 then
    if bits off 30 24 ≠ 0 then none
    else match l.newest[bits off 23 16]? with
      | none => none
      | some e => some (l.slotBytes e.1 (bits off 15 0) (min n (65536 - bits off 15 0)))
  else if 2 ^ 24 ≤ off then none
  else some (l.journalBytes off (min n (2 ^ 24 - off)))

/-- Layout of LEDGER_READ: a range of the Ledger (R109, R426). -/
def ledgerReadLayout : Layout :=
  layout 16 [(8, 8)] fun s pl => badParamIf (s.ledger.readAt (field pl 0 4) (field pl 4 4)).isNone

/-- LEDGER_READ (R426). -/
def execLedgerRead (ring : Fin 8) (s : State) : Host.Outcome State Fault Refusal :=
  .next (clearCommand 0x56 ledgerReadLayout (fun c s =>
      if s.runs 6 none then .busy s 6
      else
        let bs := (s.ledger.readAt (field c.payload 0 4) (field c.payload 4 4)).getD []
        { state := s, data := ofLe 4 bs.length ++ ofLe 12 0 ++ bs }) ring s)

/-! ## The power cap check (R174) -/

/-- The word of a wing in a CAP_EXCESS report: the tag of the running step and VALID. -/
def State.runningWord (s : State) (w : Nat) : Nat :=
  match (s.wingAt w).running with
  | none => 0
  | some t => t.tag.toNat + 2 ^ 16

/-- A report's PKG_MW compared with P_pkg: the third report above it in a row is reported and counted, once for a run of them. -/
def State.capCheck (s : State) (pkg : Nat) : State :=
  if !s.capped || decide (pkg ≤ pPkg s.cap.capMw s.cap.efficiency) then
    { s with cap := { s.cap with aboveCap := [], overReported := false } }
  else
    let above := (s.cap.aboveCap ++ [BitVec.ofNat 32 pkg]).drop (s.cap.aboveCap.length - 2)
    let s1 := { s with cap := { s.cap with aboveCap := above } }
    if decide (above.length = 3) && !s.cap.overReported then
      let s2 := { s1 with cap := { s1.cap with overReported := true } }
      ((s2.report 0x0003 2 0x08 255 255 (above.map (·.toNat) ++ (List.range 4).map s2.runningWord)).count 7 2 1).ledgerAdd 20 1
    else s1

/-! ## Telemetry (R118, R121, R170, R201, R419, R425) -/

/-- Temperature bin of a junction temperature in 0.1 °C (R419). -/
def tjBin (tj : Int) : Nat := if tj < 0 then 0 else if 1050 ≤ tj then 22 else 1 + tj.toNat / 50

/-- A temperature entered: its bin, and the extremes TJ_MAX and TJ_MIN, which the first report sets (DESIGN CHOICE, log entry 24). -/
def State.temperature (s : State) (tj : Int) : State :=
  let first := (List.range 23).all fun i => decide (s.ledgerAt (244 + i) = 0)
  let old := fun (i : Nat) => (SMap.getD s.ledger.words i 0).toInt
  let s1 := if first || decide (old 26 < tj) then s.ledgerSet 26 (twos 64 tj) else s
  let s2 := if first || decide (tj < old 27) then s1.ledgerSet 27 (twos 64 tj) else s1
  s2.ledgerAdd (244 + tjBin tj) 1

/-- A report that carries THROTTLING: a period begins, or goes on (R201). -/
def State.throttleReport (s : State) : State :=
  let s1 := { s with cap := { s.cap with throttleAt := s.kpr.ktime } }
  if s.cap.inPeriod then s1
  else
    let s2 := ({ s1 with cap := { s1.cap with inPeriod := true } }.count 7 3 1).ledgerAdd 21 1
    s.servedWings.foldl (fun t w => match (t.wingAt w).running with
      | none => t
      | some r => t.flagStep w r) s2

/-- A telemetry report recorded: words VRAIL_MV, IRAIL_MA, PKG_MW, TJ with THROTTLING. -/
def State.telemetry (s : State) (vrail irail pkg last : Nat) : State :=
  let thr := bit last 16
  let low := decide (vrail < s.cfg.powerWarnMv)
  let s1 := { s with
    cap := { s.cap with
      vrail := BitVec.ofNat 32 vrail, irail := BitVec.ofNat 32 irail, pkgMw := BitVec.ofNat 32 pkg
      tj := BitVec.ofNat 16 last, throttling := thr }
    ledger := { s.ledger with
      warned := low, waiting := if low && !s.ledger.warned then s.ledger.waiting ++ [1] else s.ledger.waiting } }
  let s2 := (((s1.count 7 1 1).gaugeMax 7 5 pkg).ledgerMax 28 pkg).temperature (s16 (last % 2 ^ 16))
  (if thr then s2.throttleReport else s2).capCheck pkg

/-- Message types of channel 0. -/
def telemetryMails : List (Nat × Nat × Nat) := [(0x01, 4, 0xFFFE0000)]

/-- The message on channel 0: the Keeper records the report and acknowledges it in one act (R118, R170). -/
def State.telemetryMail (s : State) : State :=
  match s.mail 0 telemetryMails with
  | .empty => s
  | .refuse code => s.ackMessage 0 code
  | .message _ ws => (s.telemetry (nth ws 0 0) (nth ws 1 0) (nth ws 2 0) (nth ws 3 0)).ackMessage 0 0

/-- The Keeper acts on a channel bound to it in the tick of the post (R118, R124): telemetry on channel 0; no other channel of its own gives a TYPE a meaning (R127). -/
def State.keeperMail (s : State) (n : Nat) : State :=
  if !(s.chanAt n).receivedBy 0x48 then s
  else if n = 0 then s.telemetryMail
  else match s.mail n [] with
    | .refuse code => s.ackMessage n code
    | _ => s

/-- TELEMETRY (R118, R170): a report that stands on channel 0 is recorded and acknowledged. One that a write posts has been taken by the Keeper in the tick of the post. -/
def execTelemetry (s : State) : Host.Outcome State Fault Refusal := .next s.telemetryMail

/-- THROTTLE_END (R201): 1,000 µs after the last report that carried THROTTLING. -/
def execThrottleEnd (s : State) : Host.Outcome State Fault Refusal :=
  if s.cap.inPeriod && decide (s.cap.throttleAt.toNat + 100000 ≤ s.now) then
    .next { s with cap := { s.cap with inPeriod := false } }
  else .next s

end Sys2Proof.Machine
end

