-- ==== Sys2Proof/Machine/Integrity.lean ====
section
/-! DEFINITION. Soft resets, scrubbing, corrections, uncorrectable words, row retirement, lockstep and overruns (04 R81; 17 R374, R382 to R393): SCRUB_WAKE, SCRUB_CODEWORD, LAP_LATE, SCRUB_WAKE_DONE, RETIRE_ROW, ROW_RETIRED, LOCKSTEP, COMPOSE_OVERRUN, TREE_OVERRUN, LANE_OVERRUN. -/

namespace Sys2Proof.Machine

open Sys2Proof.Bytes

/-! ## Domain soft resets (R81, R128, R135) -/

/-- The domain's reset epoch incremented (R80, R128). -/
def Kpr.bumpEpoch (k : Kpr) : Dom → Kpr
  | .registrar => { k with registrarEpoch := k.registrarEpoch + 1 }
  | .curator => { k with curatorEpoch := k.curatorEpoch + 1 }
  | .intake => { k with intakeEpoch := k.intakeEpoch + 1 }
  | .docent => { k with docentEpoch := k.docentEpoch + 1 }
  | .control => { k with controlCount := k.controlCount + 1 }

/-- SOFT bit of a domain set (KPR_RESET_CAUSE). -/
def State.setSoft (s : State) (d : Dom) : State :=
  ({ s with kpr := { s.kpr with soft := s.kpr.soft ||| BitVec.ofNat 5 (2 ^ domBit d) } }).mark (32 + domBit d)

/-- A composition not yet issued discarded; it begins again at once (R81). A replay that waits for its descriptor is composed again as a replay. -/
def State.recompose (s : State) (w : Nat) : State :=
  match (s.wingAt w).composed with
  | none => s
  | some t =>
    if t.replay then s.updWing w fun x => { x with
      composed := none, nextTag := x.tagBack, replayOf := some t.replayAgain }
    else (s.voidComposition t).updWing w fun x => { x.openGate t with
      composed := none, nextTag := x.tagBack, composeAt := if x.running.isSome then some s.kpr.ktime else none }

/-- Intake of a running step is in progress: its first window has opened. -/
def Step.intakeBegun (t : Step) : Bool := !t.openWindows.isEmpty || !t.closedWindows.isEmpty

/-- Every step whose intake or sampling tail is in progress discarded; an ended step goes before the one that runs (R81, R375, R380). -/
def State.discardInProgress (s : State) (w : Nat) : State :=
  let s1 := (s.wingAt w).tails.reverse.foldl (fun u t => u.discardTail w t.tag 4) s
  match (s1.wingAt w).running with
  | none => s1
  | some t => if t.intakeBegun then s1.discardRunning w 4 else s1

/-- Packets of a chain whose command is not complete go back to their ring (R81). -/
def RingPair.untake (p : RingPair) : RingPair :=
  match p.chain with
  | none => p
  | some ch => { p with chain := none, cmdCi := p.cmdCi - BitVec.ofNat 13 (ch.packets + ch.payload.length / 16) }

/-- A gallery's entry with a command's act on it taken back: the counter it set, and what the opcode changed (R81). -/
def Gallery.takenBack (x : Gallery) (r : PendingReply) : Gallery :=
  let y := if x.lastCtr = r.ctr then { x with lastCtr := r.before.lastCtr } else x
  match r.op with
  | 0x10 => { y with
      state := r.before.state, policy := r.before.policy, gen := r.before.gen, keyGen := r.before.keyGen, keys := r.before.keys
      counts := r.before.counts, bound := r.before.bound, loaded := r.before.loaded }
  | 0x11 => { y with state := r.before.state, erasing := [] }
  | 0x13 => { y with keyGen := r.before.keyGen, keys := r.before.keys, oldEgress := r.before.oldEgress }
  | 0x14 => { y with aids := r.before.aids }
  | _ => y

/-- A command whose reply is not written takes no effect, and its packets stand in their ring again (R81). A request it accessioned goes; requests that a GALLERY_CLOSE ended stay ended, and a CAT_COMMIT keeps its reply (log entry 100). -/
def State.takeBack81 (s : State) (r : PendingReply) : State :=
  if r.op = 0x31 then { s with rings := { s.rings with replies := s.rings.replies ++ [r] } }
  else
    let s1 := s.updPair r.ring fun p => { p with cmdCi := p.cmdCi - BitVec.ofNat 13 r.units }
    let s2 := if namesGallery r.op then s1.updGal r.gallery fun x => x.takenBack r else s1
    let s3 := match r.acc with
      | none => s2
      | some a => s2.withdrawRequest a
    if r.op = 0x11 then s3.dropActivity 10 r.gallery else if r.op = 0x13 then s3.dropActivity 7 r.gallery else s3

/-- Every command whose reply waits is taken back. -/
def State.takeBackAll (s : State) : State :=
  s.rings.replies.foldl State.takeBack81 { s with rings := { s.rings with replies := [] } }

/-- Effect of a soft reset on a domain that is on. -/
def State.resetLogic (s : State) (d : Dom) : State :=
  match d with
  | .registrar => s
  | .curator => s.servedWings.foldl State.recompose s
  | .intake =>
    let s1 := s.servedWings.foldl State.discardInProgress s
    { s1 with path := { s1.path with mergeQueue := [], trees := [] } }
  | .docent =>
    let s1 := s.servedWings.foldl State.discardInProgress s
    { s1 with path := { s1.path with dispatch := [], lanes := [] } }
  | .control =>
    let s1 := { s with rings := { s.rings with pairs := s.rings.pairs.map fun (e : Nat × RingPair) => (e.1, e.2.untake) } }
    s1.takeBackAll.releaseLocks fun m => decide (m = 0x40) || decide (m = 0x41)

/-- A soft reset that takes effect: SOFT bit, epoch, counter, the reset of the logic. -/
def State.softResetNow (s : State) (d : Dom) : State :=
  let s1 := { s.setSoft d with kpr := (s.setSoft d).kpr.bumpEpoch d }
  (s1.count 6 14 1).resetLogic d

/-- No wakeable domain other than the Registrar is active. -/
def State.othersInactive (s : State) : Bool := otherDoms.all fun d => !s.active d

/-- A soft reset of a domain (R81): of one that is off, the SOFT bit alone; the Registrar's waits until no other domain is active. -/
def State.softReset (s : State) (d : Dom) : State :=
  if !s.active d then s.setSoft d
  else if d == .registrar && !s.othersInactive then s.updDom d fun x => { x with resetWaits := true }
  else s.softResetNow d

/-- A soft reset of the Registrar that waited (R81). -/
def State.waitingReset (s : State) : State :=
  if s.power.registrar.resetWaits && s.othersInactive then
    (s.updDom .registrar fun x => { x with resetWaits := false }).softResetNow .registrar
  else s

/-- A soft reset made by Basam itself, with its SOFT_RESET report: cause 1 to 4 in the order of R393. -/
def State.ownReset (s : State) (d : Dom) (unit cause : Nat) : State :=
  (s.softReset d).report 0x0023 1 unit 255 255 [domBit d, cause]

/-! ## Regions (R382) -/

/-- Domain of a region, by its place in the order of R418: 0 Keeper, 1 Registrar, 3 Intake/Merge. -/
def regionDomain (region : Nat) : Nat := if region ≤ 6 then 1 else if region = 7 then 3 else 0

/-- Codewords of a region. -/
def State.regionWords (s : State) (region : Nat) : Nat := Config.regionRows s.kpr.size region * 64

/-- Codewords of a domain's regions, by index 0 Keeper, 1 to 5 in the order of R81. -/
def State.domainWords (s : State) (d : Nat) : Nat :=
  sumOf (((List.range 10).filter fun r => decide (regionDomain r = d)).map s.regionWords)

/-- Place of a codeword in its domain's lap, in ascending address order. -/
def State.lapPlace (s : State) (region row cw : Nat) : Nat :=
  sumOf (((List.range region).filter fun r => decide (regionDomain r = regionDomain region)).map s.regionWords) + row * 64 + cw

/-- Index of a domain among the scrub agents. -/
def scrubIndex (d : Dom) : Nat := 1 + domBit d

/-- The domain of a scrub agent may read its regions now. -/
def State.scrubs (s : State) (d : Nat) : Bool :=
  if d = 0 then true else if d = 1 then s.active .registrar else s.active .intake

/-- Region in byte mode (R382). -/
def State.byteMode (s : State) (region : Nat) : Bool := (region == 6 || region == 9) && s.cfg.byteMode.contains region

/-! ## Corrections (R388, R389, R420) -/

/-- Key of a codeword in the tracking tables. -/
def wordKey (region row cw : Nat) : Nat := region * 2 ^ 32 + row * 64 + cw

/-- A sticky mark entered in the Ledger's list (R420). -/
def State.markLedger (s : State) (region row cw : Nat) : State :=
  let l := s.ledger
  match l.sticky.find? fun e => decide (e.2.2.1 = region) && decide (e.2.2.2.1 = cw) && decide (e.2.2.2.2.1 = row) with
  | some e => { s with ledger := { l with sticky := SMap.put l.sticky e.1 (s.ledgerAt 0, region, cw, row, e.2.2.2.2.2 + 1) } }
  | none => { s with ledger := { l with sticky := SMap.put l.sticky (s.ledgerAt 13 % 64) (s.ledgerAt 0, region, cw, row, 1) } }

/-- A codeword marked sticky: report, counters, Ledger. -/
def State.markSticky (s : State) (region row cw : Nat) : State :=
  let s1 := { s with integ := { s.integ with stickyNow := wordKey region row cw :: s.integ.stickyNow } }
  let s2 := (s1.report 0x0011 1 0x09 255 255 [region, row, cw]).markLedger region row cw
  ((s2.ledgerAdd 13 1).ledgerAdd (192 + 4 * region + 2) 1).count 6 12 1

/-- The CORRECTED report of a region, at most one in 1,000,000 µs, with the corrections since the one before. -/
def State.reportCorrected (s : State) (region : Nat) : State :=
  let n := SMap.getD s.integ.sinceReport region 0 + 1
  let may := match SMap.find s.integ.reportAt region with
    | none => true
    | some t => decide (t.toNat + 100000000 ≤ s.now)
  if may then
    { s with integ := { s.integ with
        sinceReport := SMap.put s.integ.sinceReport region 0, reportAt := SMap.put s.integ.reportAt region s.kpr.ktime } }.report
      0x0010 0 0x09 255 255 [region, n]
  else { s with integ := { s.integ with sinceReport := SMap.put s.integ.sinceReport region n } }

/-- A correction: counted, reported, tracked among the first 64 of the region's lap, sticky when the lap before corrected it too. -/
def State.corrected (s : State) (region row cw : Nat) : State :=
  let key := wordKey region row cw
  let n := SMap.getD s.integ.lapCount region 0 + 1
  let s1 := (((s.count 6 (1 + region) 1).ledgerAdd (192 + 4 * region) 1).reportCorrected region)
  let s2 := { s1 with integ := { s1.integ with
    lapCount := SMap.put s1.integ.lapCount region n
    curLap := if n ≤ 64 then key :: s1.integ.curLap else s1.integ.curLap } }
  let s3 := if n = 65 then s2.report 0x0013 2 0x09 255 255 [region, n] else s2
  if s.integ.prevLap.contains key && !s.integ.stickyNow.contains key then s3.markSticky region row cw else s3

/-! ## Uncorrectable words (R391) -/

/-- The UNCORRECTABLE report of an SRAM word, with the wing and gallery it concerns, and its counters. -/
def State.ueReportOf (s : State) (wing gallery region row cw sev action acc : Nat) : State :=
  let at_ := row * 2048 + cw * 32
  let s1 := s.report 0x0012 sev 0x09 wing gallery [region, at_ % 2 ^ 32, at_ / 2 ^ 32, action, acc, 0]
  ((s1.count 6 11 1).ledgerAdd 12 1).ledgerAdd (192 + 4 * region + 1) 1

/-- The report where no wing and no gallery is concerned. -/
def State.ueReport (s : State) (region row cw sev action acc : Nat) : State := s.ueReportOf 255 255 region row cw sev action acc

/-- An own record restored from the partner's image as of the last acknowledged frame: what was sampled since is sampled again. -/
def State.restoreRecord (s : State) (r image : Req) : State :=
  let s1 := s.voidRows r
  let s2 := { s1 with path := { s1.path with
    jobs := s1.path.jobs.filter fun j => decide (j.acc ≠ r.acc)
    records := s1.path.records.filter fun o => decide (o.acc ≠ r.acc) || decide (o.seq < image.nextSeq) } }
  s2.updReq r.acc fun _ => { image with covered := min image.covered image.kvDone, restored := true, mirrorCovered := true }

/-- Rows 1 and 2 of R391's table: the record of a Registrar slot, in the own half or the mirror half. -/
def State.recordLost (s : State) (row cw : Nat) : State :=
  let slot := row * 8 + cw / 8
  let own := decide (slot < s.ownHalf)
  if own then
    match s.liveReqs.find? fun r => decide (slotOf r.acc = slot) && !r.adopted with
    | none => s.ueReport 0 row cw 1 1 0
    | some r =>
      let s1 := s.ueReportOf r.wing r.gallery 0 row cw 1 1 r.acc
      match (if s.pairActs && (s.wingAt r.wing).paired && r.mirrorCovered then SMap.find s.pair.imaged r.acc else none) with
      | some image => s1.restoreRecord r image
      | none => if (s1.job? r.acc).isSome then s1.finishJob r.acc 9 else s1.dataLost r.acc 0
  else
    let k := slot - s.ownHalf
    match SMap.find s.reg.mirror k with
    | none => s.ueReport 0 row cw 1 2 0
    | some m =>
      let s1 := s.ueReportOf m.record.wing m.record.gallery 0 row cw 1 2 m.record.acc
      { s1 with reg := { s1.reg with mirror := SMap.put s1.reg.mirror k { m with lost := true } } }

/-- A committed entry lost: it waits for the partner on a paired wing, is read again from an archive slot whose section has the same digest, or is disabled. -/
def State.entryLost (s : State) (w : Nat) (e : CatEntry) : State :=
  let x := s.wingAt w
  let upd := fun (f : ShapeSt → ShapeSt) (t : State) => t.updWing w fun y => y.updShape (shapeKey e) f
  if s.pairActs && x.paired then upd (fun y => { y with lost := true }) s
  else if s.maint.arcSlots.any fun a => a.valid && decide (catalogueDigest w (a.section_ w).1 = catalogueDigest w x.committed) then s
  else
    let fp := shapeKey e
    (upd (fun y => { y with disabled := true, wantDisable := false, wantQuarantine := false }) (s.keepPeriod w)).report
      0x0024 2 0x09 w 255 [e.shapeId, fp % 2 ^ 32, fp / 2 ^ 32]

/-- Rows 3 and 4: the catalogue entry that R427 places at a row. -/
def State.catalogueLost (s : State) (row cw : Nat) : State :=
  let n := s.kpr.caps.catEntries
  let bank := decide (n ≤ row)
  let w := row % n / s.sectionSize
  let i := row % n % s.sectionSize
  let x := s.wingAt w
  if bank = x.selector then
    match x.committed[i]? with
    | none => s.ueReportOf w 255 1 row cw 1 3 0
    | some e => (s.ueReportOf w 255 1 row cw 1 3 0).entryLost w e
  else
    let s1 := s.ueReportOf w 255 1 row cw 1 4 0
    match x.commitNext.bind fun p => p.1[i]? with
    | some e => s1.entryLost w e
    | none => s1.updWing w fun y => { y with staging := SMap.drop y.staging i }

/-- Row 6: a gallery table entry; the gallery is closed as by GALLERY_CLOSE. Gallery 0 cannot be closed: its requests are discarded and its entry is opened anew (DESIGN CHOICE, log entry 26). -/
def State.galleryLost (s : State) (g : Nat) : State :=
  if (s.galAt g).state ≠ 1 then s
  else if g = 0 then ((s.liveReqs.filter fun r => decide (r.gallery = 0)).map (·.acc)).foldl State.discardRequest s
  else if s.runs 10 (some g) then s else (s.closeGallery g).startActivity 10 g none 0

/-- Row 8: a held record, by the 64-byte entry of the held records in the order they wait. -/
def State.heldLost (s : State) (row cw : Nat) : State :=
  let held := (s.path.records.filter (·.held)).flatMap fun o => o.entries.map fun _ => o.acc
  match held[((row - 1024) * 2048 + cw * 32) / 64]? with
  | none => s.ueReport 2 row cw 1 8 0
  | some acc =>
    let s1 := s.ueReportOf (((s.req? acc).map fun (r : Req) => r.wing).getD 255) (((s.req? acc).map fun (r : Req) => r.gallery).getD 255) 2 row cw 1 8 acc
    let s2 := { s1 with path := { s1.path with records := s1.path.records.filter fun o => decide (o.acc ≠ acc) || !o.held } }
    s2.dataLost acc 2

/-- The archive's image is not the running one: it is being programmed, has no header, or holds another (R82, R391). -/
def State.imageDiffers (s : State) : Bool :=
  s.maint.fwProgram || (match s.maint.flash.image with
    | .delivered => false
    | .broken => true
    | .holds i => decide (s.kpr.image.map (·.hash) ≠ some i.hash))

/-- Row 10: firmware memory. Control is soft reset and the image reloaded; where its SHA-384 is not FW_HASH, FAILURE is sent and the part halts with FW_LOST (R343, R391). -/
def State.firmwareLost (s : State) : State :=
  let s1 := s.softReset .control
  if s.imageDiffers then
    let s2 := s1.sendFailure 0x07
    { s2 with kpr := { s2.kpr with haltCode := 0x07 } }
  else s1

/-- Row 11: the activity that uses the staging buffer ends with RESULT BAD_PARAM. -/
def State.stagingLost (s : State) : State :=
  if s.ledger.running.isSome then { s with ledger := { s.ledger with running := none, cause := 0 } }.endActivity 2 255 stBadParam
  else if s.runs 6 none then { s with maint := { s.maint with fwProgram := false, fwImage := none } }.endActivity 6 255 stBadParam
  else { s with maint := { s.maint with fwStage := [], capStage := [], capTotal := 0 } }

/-- Rows of region 7 that one wing's intake buffer takes. -/
def State.intakeRows (s : State) : Nat := max 1 (Config.regionRows s.kpr.size 7 / max 1 (wingCount (Config.built s.kpr.size).wingMask))

/-- Row 12: an intake burst; the step that holds it is discarded and replayed (R375). -/
def State.intakeLost (s : State) (row cw : Nat) : State :=
  let per := s.intakeRows
  let w := row / per
  let pos := (row % per * 2048 + cw * 32) / 64
  let x := s.wingAt w
  match (x.tails ++ x.running.toList).find? fun t => decide (t.discarded = 0) && (SMap.find t.bursts pos).isSome with
  | none => s
  | some t => s.discardStep w t.tag 3

/-- Row 15: a mailbox message treated as not posted; a receiver inside Basam acknowledges BAD_CRC. -/
def State.mailLost (s : State) (n : Nat) : State :=
  let c := s.chanAt n
  if !c.full then s
  else if [0x40, 0x41, 0x48].contains c.receiver.toNat then s.ackMessage n 0x8011
  else s.updChan n fun x => { x with full := false }

/-- Rows of region 4 that hold slot tags; the gallery table follows (log entry 9). -/
def State.tagRows (s : State) : Nat := s.ownHalf / 64

/-- What an uncorrectable word of a region leads to (R391). Where in a region a structure lies is given for region 1 alone (R427): log entry 9. -/
def State.uncorrectable (s : State) (region row cw : Nat) : State :=
  let rep := fun (sev action : Nat) => s.ueReport region row cw sev action 0
  match region with
  | 0 => s.recordLost row cw
  | 1 => s.catalogueLost row cw
  | 2 => if row < 1024 then rep 1 9 else s.heldLost row cw
  | 3 => rep 1 9
  | 4 =>
    if row < s.tagRows then rep 1 7
    else if row < s.tagRows + s.kpr.caps.galleries then
      (s.ueReportOf 255 (row - s.tagRows) region row cw 2 6 0).galleryLost (row - s.tagRows)
    else rep 1 5
  | 5 => (rep 2 10).firmwareLost
  | 6 => (rep 1 11).stagingLost
  | 7 => (s.ueReportOf (row / s.intakeRows) 255 region row cw 1 12 0).intakeLost row cw
  | 8 => if row = 64 then (rep 1 13).dropJournal else rep 1 14
  | _ => (rep 1 15).mailLost cw

/-! ## Laps (R386, R387, R419) -/

/-- Start of a domain's lap: READY for the first. -/
def State.lapStart (s : State) (d : Nat) : Nat :=
  match SMap.find s.integ.lapStart d with
  | none => s.kpr.readyUs * 100
  | some t => t.toNat

/-- LAP_LIMIT in ticks (R387). -/
def State.lapLimit (s : State) : Nat := s.cfg.lapLimitS * 100000000

/-- Bin of a lap's span as a fraction of LAP_LIMIT (R419). -/
def State.lapBin (s : State) (span : Nat) : Nat :=
  let l := s.lapLimit
  binOf [l / 8, l / 4, l / 2, l * 7 / 8, l] span

/-- A lap completed: its span reported, the tracked corrections handed on. -/
def State.lapDone (s : State) (d : Nat) : State :=
  let span := s.now - s.lapStart d
  let mine := fun (k : Nat) => decide (regionDomain (k / 2 ^ 32) = d)
  let i := s.integ
  let s1 := { s with integ := { i with
    lapStart := SMap.put i.lapStart d s.kpr.ktime, lapDone := SMap.put i.lapDone d 0
    prevLap := i.curLap.filter mine ++ i.prevLap.filter fun k => !mine k
    curLap := i.curLap.filter fun k => !mine k
    lapCount := i.lapCount.filter fun e => decide (regionDomain e.1 ≠ d)
    scrubWake := i.scrubWake.map fun x => if x = d then d + 8 else x } }
  ((s1.gauge 6 (17 + d) span).ledgerAdd (267 + 6 * d + s.lapBin span) 1).ledgerMax (303 + d) span

/-- SCRUB_CODEWORD (R383, R384, R386): the agent reads the next codeword of its domain's lap, checks it, and writes a correction back. -/
def execScrubCodeword (region row codeword : Nat) (word : List Byte) (s : State) : Host.Outcome State Fault Refusal :=
  let d := regionDomain region
  let byte := s.byteMode region
  let place := s.lapPlace region row codeword
  let fits := decide (region < 10) && decide (row < Config.regionRows s.kpr.size region) && decide (codeword < 64)
    && decide (word.length = if byte then 64 else 35)
  if s.kpr.ready && !s.dead && s.scrubs d && fits && decide (place = SMap.getD s.integ.lapDone d 0) then
    let s1 := match (if byte then byteModeRead word else s35Read word) with
      | .clean => s
      | .corrected _ => s.corrected region row codeword
      | .uncorrectable => s.uncorrectable region row codeword
    let s2 := { s1 with integ := { s1.integ with lapDone := SMap.put s1.integ.lapDone d (place + 1) } }
    .next (if place + 1 = s.domainWords d then s2.lapDone d else s2)
  else .next s

/-- Scrub wake of domains: each is powered up, and its lap is scrubbed to its end. A domain without an SRAM region has nothing to scrub. -/
def State.startScrub (s : State) (ds : List Dom) (seq : Option W32) : State :=
  let s1 := if s.runs 1 none then s else s.startActivity 1 255 seq 0
  let fresh := ds.filter fun d => !s.integ.scrubWake.contains (scrubIndex d) && !s.integ.scrubWake.contains (scrubIndex d + 8)
  let marks := fresh.map fun d => if s.domainWords (scrubIndex d) = 0 then scrubIndex d + 8 else scrubIndex d
  { s1 with integ := { s1.integ with scrubWake := s1.integ.scrubWake ++ marks } }.wake ds

/-- SCRUB_WAKE (R387). -/
def execScrubWake (ring : Fin 8) (s : State) : Host.Outcome State Fault Refusal :=
  .next (clearCommand 0x51 noPayload (fun _ s => { state := s.startScrub allDoms (some s.rings.applySeq), status := stPending }) ring s)

/-- LAP_LATE (R387): a lap at 7/8 of LAP_LIMIT starts scrub wake for its domain, with a SCRUB_LATE report. -/
def execLapLate (dom : Dom) (s : State) : Host.Outcome State Fault Refusal :=
  let d := scrubIndex dom
  if s.kpr.ready && !s.dead && decide (s.domainWords d ≠ 0) && !s.integ.scrubWake.contains d
      && decide (s.lapStart d + s.lapLimit * 7 / 8 ≤ s.now) then
    .next ((s.startScrub [dom] none).report 0x0014 0 0x09 255 255 [domBit dom, SMap.getD s.integ.lapDone d 0])
  else .next s

/-- SCRUB_WAKE_DONE (R387): the domain's lap is scrubbed; with the last domain the activity completes. -/
def execScrubWakeDone (dom : Dom) (s : State) : Host.Outcome State Fault Refusal :=
  if s.dead then .next s else
  let d := scrubIndex dom + 8
  if s.integ.scrubWake.contains d then
    let left := s.integ.scrubWake.filter (· != d)
    let s1 := { s with integ := { s.integ with scrubWake := left } }
    .next (if left.isEmpty && s1.runs 1 none then s1.endActivity 1 255 stOk else s1)
  else .next s

/-! ## Row retirement (R390) -/

/-- Layout of RETIRE_ROW: a region and a logical row of it (R109, R390). -/
def retireLayout : Layout :=
  layout 16 [(2, 2), (8, 8)] fun s pl =>
    badParamIf (decide (9 < field pl 0 2) || decide (Config.regionRows s.kpr.size (field pl 0 2) ≤ field pl 4 4))

/-- RETIRE_ROW (R390): the lowest spare never used takes the row. -/
def execRetireRow (ring : Fin 8) (s : State) : Host.Outcome State Fault Refusal :=
  .next (clearCommand 0x55 retireLayout (fun c s =>
      let region := field c.payload 0 2
      let spare := SMap.getD s.integ.sparesUsed region 0
      match s.conflict 8 region with
      | some k => .busy s k
      | none =>
        if Config.regionSpares s.kpr.size region ≤ spare then .refuse s stNoSpare
        else
          { state := { s with maint := { s.maint with retire := some (region, field c.payload 4 4, spare) } }.startActivity
              8 region (some s.rings.applySeq) 0
            status := stPending }) ring s)

/-- ROW_RETIRED (R390): the copy is complete, the logical row is redirected, its sticky marks are cleared. -/
def execRowRetired (s : State) : Host.Outcome State Fault Refusal :=
  if s.dead then .next s else
  match s.maint.retire with
  | none => .next s
  | some (region, row, spare) =>
    let s1 := { s with
      maint := { s.maint with retire := none }
      integ := { s.integ with
        retired := SMap.put s.integ.retired (region * 2 ^ 17 + row) spare
        sparesUsed := SMap.put s.integ.sparesUsed region (spare + 1)
        stickyNow := s.integ.stickyNow.filter fun k => decide (k / 64 ≠ wordKey region row 0 / 64) } }
    .next (((s1.report 0x0015 0 0x09 255 255 [region, row, spare]).ledgerAdd (192 + 4 * region + 3) 1).endActivity 8 region stOk)

/-! ## Lockstep and overruns (R374, R393) -/

/-- LOCKSTEP (R374): a mismatch soft resets Control; a second one within 1,000,000 µs sends FAILURE and halts the part. -/
def execLockstep (pairB : Bool) (s : State) : Host.Outcome State Fault Refusal :=
  if s.active .control && !s.dead then
    let second := match s.integ.lockstepAt with
      | none => false
      | some t => decide (s.now - t.toNat ≤ 100000000)
    let s1 := { s with integ := { s.integ with lockstepAt := some s.kpr.ktime } }
    let s2 := (((s1.ledgerAdd 11 1).count 6 13 1).report 0x0020 (if second then 2 else 1) 0x0A 255 255 [b2n pairB, if second then 2 else 1]).ownReset
      .control 0x0A 1
    .next (if second then
        let s3 := s2.sendFailure 0x06
        { s3 with kpr := { s3.kpr with haltCode := 0x06 } }
      else s2)
  else .next s

/-- COMPOSE_OVERRUN (R393): a composition not complete 4,000 ticks behind its compose point. -/
def execComposeOverrun (wing : Fin 4) (s : State) : Host.Outcome State Fault Refusal :=
  let w := wing.val
  let x := s.wingAt w
  let stuck := match x.composed with
    | some t => !t.replay && !(s.writesDone w t && s.keysDone w) && decide (t.composeKtime.toNat + 4000 ≤ s.now)
    | none => match x.composeAt with
      | some c => s.composeDue w && decide (c.toNat + 4000 ≤ s.now)
      | none => false
  .next (if stuck && s.active .curator && !s.dead then s.ownReset .curator 0x03 2 else s)

/-- TREE_OVERRUN (R393): a tree has held one unit for four times its bound. -/
def execTreeOverrun (tree : Nat) (s : State) : Host.Outcome State Fault Refusal :=
  match SMap.find s.path.trees tree with
  | none => .next s
  | some ts =>
    .next (if s.active .intake && !s.dead && decide (4 * ts.bound ≤ (s.now - ts.takenAt.toNat) * 36) then s.ownReset .intake 0x04 3 else s)

/-- Cycles within which a lane completes a unit (R260). -/
def laneBound (b : Sampling) (r : MergeRes) : Nat :=
  let n := r.n
  let j := restricted b r
  let jk := if b.method = 2 then b.k else 1
  let e := if b.method = 2 then (if b.topP = 0 ∧ b.minP = 0 then j else min (min (j + 1) jk) n) else 1
  16 + 32 * ceilDiv r.km 256 + e + (20 + j) + (if b.logprobs = 0 then 0 else 24 + b.logprobs)

/-- LANE_OVERRUN (R393): a lane has held one unit for four times its bound. -/
def execLaneOverrun (lane : Nat) (s : State) : Host.Outcome State Fault Refusal :=
  match SMap.find s.path.lanes lane with
  | none => .next s
  | some l =>
    let b := ((s.unitStep l.result.wing l.result.tag).map fun t => (nth t.rows l.result.row {}).sampling).getD {}
    .next (if s.active .docent && !s.dead && decide (4 * laneBound b l.result ≤ (s.now - l.takenAt.toNat) * 36) then s.ownReset .docent 0x06 4 else s)

end Sys2Proof.Machine
end

