-- ==== Sys2Proof/Machine/Registers.lean ====
section
/-! DEFINITION. The register map: windows, availability, access sizes, what a read of each register returns, and what a write of each does (20 R428 to R440; 03 R43, R44; 05 R90; 06 R119 to R136; 14 R307; 17 R395; 18 R408, R413). -/

namespace Sys2Proof.Machine

open Sys2Proof.Bytes

/-! ## Windows (R428) -/

/-- The HIF windows; `dbk` is the part of EVR that the Curator serves. -/
inductive HifWin where
  | idn | kpr | dbl | mbx | lck | cmd | reply | res | cnt | evr | dbk | cns | dbg | unmapped
deriving DecidableEq, Repr

/-- The window of an offset. -/
def hifWin (a : Nat) : HifWin :=
  if a < 0x1000 then .idn
  else if a < 0x2000 then .kpr
  else if a < 0x3000 then .dbl
  else if a < 0x10000 then .unmapped
  else if a < 0x20000 then .mbx
  else if a < 0x21000 then .lck
  else if a < 0x100000 then .unmapped
  else if a < 0x180000 then .cmd
  else if a < 0x200000 then .reply
  else if a < 0x400000 then .res
  else if a < 0x500000 then .cnt
  else if a < 0x580000 then .evr
  else if a < 0x600000 then .dbk
  else if a < 0x700000 then .cns
  else if a < 0x710000 then .dbg
  else .unmapped

/-- The domains an access needs active (R34, R437): none for the Keeper's windows. -/
def State.homes (s : State) (a : Nat) : List Dom :=
  match hifWin a with
  | .cmd | .reply | .res => [.registrar]
  | .dbk => [.curator]
  | .cns => [.control]
  | .dbg =>
    if 0x701000 ≤ a then
      match regionDomain (bits s.sec.dbgSel.toNat 19 16) with
      | 1 => [.control, .registrar]
      | 3 => [.control, .intake]
      | _ => [.control]
    else [.control]
  | _ => []

/-- An access to the window completes with ERR in the state the block is in (R84, R429); of the columns that apply the one further right prevails. -/
def State.winShut (s : State) (a : Nat) : Bool :=
  let w := hifWin a
  if s.kpr.halted then w == .cmd || w == .reply || w == .res || w == .cns || w == .dbk || w == .dbg
  else if s.kpr.haltCode ≠ 0 then w != .idn && w != .kpr
  else if s.kpr.phase.toNat ≤ 5 then
    match w with
    | .dbl | .reply | .res | .cns | .dbk | .dbg => true
    | .cmd => !(s.kpr.recovery && decide (a < 0x110000))
    | _ => false
  else false

/-! ## Access sizes (R44, R430) -/

/-- The offset is the low word of a pair of R430. -/
def pairLow (a : Nat) : Bool :=
  decide (a = 0x1000) || decide (a = 0x1008) || decide (a = 0x4F0010)
    || (decide (0x400000 ≤ a) && decide (a < 0x40A000) && decide (a % 8 = 0))
    || (decide (0x480000 ≤ a) && decide (a < 0x48A000) && decide (a % 8 = 0) && decide (a % 0x1000 ≠ 0xFF8))

/-- The size and alignment of an access suit its window. -/
def accessFits (a n : Nat) : Bool :=
  match hifWin a with
  | .cmd | .reply | .res => (decide (n = 4) || decide (n = 8) || decide (n = 64)) && decide (a % n = 0)
  | .unmapped => true
  | _ => (decide (n = 4) && decide (a % 4 = 0)) || (decide (n = 8) && pairLow a)

/-! ## Register values -/

/-- The 64-bit value of a pair, by the offset of its low word (R399, R430). -/
def State.pairValue (s : State) (a : Nat) : Nat :=
  if a = 0x1000 then s.now
  else if a = 0x1008 then s.nowUs % 2 ^ 40
  else if a = 0x4F0010 then s.cnt.snapKtime.toNat
  else
    let key := cntKey (bits a 15 12) (a % 0x1000 / 8)
    if a < 0x480000 then (s.cnt.value key s.now).toNat else (SMap.getD s.cnt.shadow key 0).toNat

/-- IDN registers (R35, R433). -/
def State.idnWord (s : State) (a : Nat) : Nat :=
  if a = 0 then s.blockId
  else if a = 4 then Config.behaviour
  else if a = 8 then b2n s.kpr.limited * 2 + b2n s.kpr.capValid
  else if a < 0x10 then 0
  else if a < 0x30 then nth (capWords s.kpr.caps) ((a - 0x10) / 4) 0
  else if a = 0x30 then s.kpr.fwVersion.toNat
  else 0

/-- KPR_EPOCH. -/
def State.epochWord (s : State) : Nat :=
  s.kpr.controlCount.toNat % 64 * 2 ^ 24 + s.kpr.docentEpoch.toNat * 2 ^ 18 + s.kpr.intakeEpoch.toNat * 2 ^ 12
    + s.kpr.curatorEpoch.toNat * 2 ^ 6 + s.kpr.registrarEpoch.toNat

/-- KPR_HALT_STATUS. -/
def State.haltStatus (s : State) : Nat :=
  b2n s.kpr.halted * 2 ^ 31 + b2n s.kpr.smeared * 2 ^ 30 + s.kpr.smpOut.toNat * 2 ^ 20 + s.kpr.stop.toNat

/-- KPR registers; write-only fields read zero. -/
def State.kprWord (s : State) (a : Nat) : Nat :=
  match a - 0x1000 with
  | 0x10 => s.bootStatus
  | 0x14 => s.kpr.soft.toNat * 2 ^ 8 + s.kpr.cause.toNat
  | 0x18 => s.epochWord
  | 0x1C => s.kpr.pllHold.toNat
  | 0x30 => s.kpr.armCode.toNat * 2 ^ 16 + b2n s.kpr.arm * 2
  | 0x34 => s.haltStatus
  | 0x40 => s.kpr.irqPending.toNat
  | 0x44 => s.kpr.irqMask.toNat
  | 0x48 => s.kpr.irqKeeper.toNat
  | 0x4C => b2n s.alert * 2 + b2n s.kpr.fenceReq
  | _ => 0

/-- Registers of one ring pair. -/
def RingPair.word (p : RingPair) (off : Nat) : Nat :=
  match off with
  | 0x00 => p.cmdPi.toNat
  | 0x04 => p.cmdCi.toNat
  | 0x08 => b2n p.resetBusy * 2 ^ 8 + b2n p.ciErr * 8 + b2n p.piErr * 4 + b2n p.stopped * 2
  | 0x10 => p.rplPi.toNat
  | 0x14 => p.rplCi.toNat
  | _ => 0

/-- Registers of one result ring. -/
def ResRing.word (q : ResRing) (off : Nat) : Nat :=
  match off with
  | 0x00 => q.pi.toNat
  | 0x04 => q.ci.toNat
  | 0x08 => b2n q.resetBusy * 2 ^ 8 + b2n q.ciErr * 2
  | _ => 0

/-- DBL registers. -/
def State.dblWord (s : State) (a : Nat) : Nat :=
  if a < 0x2100 then (s.pairAt ((a - 0x2000) / 0x20)).word (a % 0x20)
  else if a = 0x2100 then s.rings.applySeq.toNat
  else if 0x2200 ≤ a ∧ a < 0x2280 then (s.resAt ((a - 0x2200) / 0x10)).word (a % 0x10)
  else 0

/-- Registers of one channel but for its message words. -/
def State.chanWord (s : State) (n off : Nat) : Nat :=
  let c := s.chanAt n
  match off with
  | 0x20 => b2n (s.ackStale c) * 8 + b2n c.ackValid * 4 + b2n c.collision * 2 + b2n c.full
  | 0x24 => c.ackSeq.toNat * 2 ^ 16 + c.ackCode.toNat
  | 0x28 => c.msgTx.toNat * 2 ^ 16 + c.msgRx.toNat
  | 0x2C => c.ackTx.toNat * 2 ^ 16 + c.ackRx.toNat
  | 0x30 => b2n c.bound * 2 ^ 16 + c.sender.toNat * 2 ^ 8 + c.receiver.toNat
  | _ => 0

/-- MBX_RX_PEND. -/
def State.rxPend (s : State) : Nat := sumOf ((List.range 32).map fun n => b2n (s.chanAt n).full * 2 ^ n)

/-- MBX registers but for message words and locks. -/
def State.mbxWord (s : State) (a : Nat) : Nat :=
  if a < 0x10800 then s.chanWord ((a - 0x10000) / 0x40) (a % 0x40)
  else if a = 0x10800 then s.rxPend
  else if 0x10810 ≤ a ∧ a < 0x1082C then (SMap.getD s.mbx.epochs ((a - 0x10810) / 4) 0).toNat
  else 0

/-- The 32-bit word of the ring memory at an offset. -/
def State.memWord (s : State) (a : Nat) : Nat := le (Memory.readBytes s.mem a 4)

/-- CNT registers that are no pair. -/
def State.cntWord (s : State) (a : Nat) : Nat :=
  if a = 0x4F0000 then b2n s.cnt.activity
  else if a = 0x4F0004 then s.cnt.snapId.toNat
  else if a = 0x4F0008 then b2n s.cnt.snapFreeze * 4 + b2n s.cnt.armed.isSome * 2 + b2n s.cnt.snapValid
  else if a = 0x4F0018 then ((s.cnt.armed.map Armed.id).getD 0).toNat
  else if a = 0x4F0020 then s.cnt.frozen.toNat * 16 + s.cnt.holding.toNat
  else if a = 0x4F0030 then b2n s.cnt.trcDaybook * 2 ^ 13 + s.cnt.trcEvents.toNat * 2
  else if 0x480000 ≤ a ∧ a < 0x48A000 ∧ a % 0x1000 = 0xFF8 then (SMap.getD s.cnt.shadowId (bits a 15 12) 0).toNat
  else 0

/-- Event rings and their counts. -/
def State.evrWord (s : State) (a : Nat) : Nat :=
  if 0x501000 ≤ a ∧ a < 0x50D000 then s.memWord a
  else if 0x50F004 ≤ a ∧ a < 0x50F034 then (SMap.getD s.cnt.evrCount ((a - 0x50F000) / 4) 0).toNat
  else 0

/-- Daybook entries and registers. -/
def State.dbkWord (s : State) (a : Nat) : Nat :=
  if a < 0x5C0000 then s.memWord a
  else if a = 0x5C0000 then s.logs.dbkPi.toNat
  else if a = 0x5C0004 then s.logs.dbkCi.toNat
  else if a = 0x5C0008 then s.logs.dbkWings.toNat * 2 ^ 20 + b2n s.logs.dbkSelect * 2 ^ 19 + b2n s.logs.dbkErr * 2 ^ 18 + s.logs.dbkLost.toNat
  else 0

/-- Condition ring entries and registers. -/
def State.cnsWord (s : State) (a : Nat) : Nat :=
  if a < 0x610000 then s.memWord a
  else if a = 0x610000 then s.logs.cnsPi.toNat
  else if a = 0x610004 then s.logs.cnsCi.toNat
  else if a = 0x610008 then b2n s.logs.cnsLostModule * 2 ^ 17 + b2n s.logs.cnsErr * 2 ^ 16 + s.logs.cnsLost.toNat
  else 0

/-! ## Reads with an effect -/

/-- What a register read gives: the status, the word, the state after it. -/
abbrev WordRead := Bool × Nat × State

/-- A read of a pair's low word sets the reader's latch; one of the high word uses a latch that names the pair (R430). -/
def State.readPair (s : State) (mid : Byte) (a : Nat) : WordRead :=
  if pairLow a then
    let v := s.pairValue a
    (true, v % 2 ^ 32, { s with mbx := { s.mbx with latches := SMap.put s.mbx.latches mid.toNat (a, BitVec.ofNat 32 (v / 2 ^ 32)) } })
  else
    match SMap.find s.mbx.latches mid.toNat with
    | some (low, high) =>
      if low + 4 = a then (true, high.toNat, { s with mbx := { s.mbx with latches := SMap.drop s.mbx.latches mid.toNat } })
      else (true, s.pairValue (a - 4) / 2 ^ 32, s)
    | none => (true, s.pairValue (a - 4) / 2 ^ 32, s)

/-- A read of a lock (R132). -/
def State.readLock (s : State) (mid : Byte) (n : Nat) : WordRead := (true, s.lockRead n mid, s.acquire n mid)

/-- A read of a message word: the bound parties alone (R119). -/
def State.readMessage (s : State) (mid : Byte) (a : Nat) : WordRead :=
  let c := s.chanAt ((a - 0x10000) / 0x40)
  if c.sentBy mid.toNat || c.receivedBy mid.toNat then (true, (nth c.slot (a % 0x40 / 4) 0).toNat, s)
  else (false, 0, s.logRefused mid a)

/-- Rows that an aperture read may name (R437). -/
def State.apertureRows (s : State) : Nat :=
  let sel := s.sec.dbgSel.toNat
  let region := bits sel 19 16
  Config.regionRows s.kpr.size region + (if bit sel 25 then Config.regionSpares s.kpr.size region else 0)

/-- The bytes of a logical row from an offset where the row's structure is known: result rings and command and reply rings lie in the order of their windows (log entry 9), and an intake burst is seen whole (R241, R437). -/
def State.rowBytes (s : State) (region row off n : Nat) : Option (List Byte) :=
  if region = 2 ∧ row < 1024 then some (Memory.readBytes s.mem (0x200000 + row * 2048 + off) n)
  else if region = 3 then some (Memory.readBytes s.mem (0x100000 + row * 2048 + off) n)
  else if region = 7 then
    let per := s.intakeRows
    let x := s.wingAt (row / per)
    let pos := row % per * 32 + off / 64
    ((x.tails ++ x.running.toList).findSome? fun t => SMap.find t.bursts pos).map fun b => slice b (off % 64) n
  else none

/-- The row that DBG_SEL names is a data row whose logical contents stand in it. -/
def State.plainRow (s : State) (region row : Nat) (phys : Bool) : Bool :=
  decide (row < Config.regionRows s.kpr.size region) && (!phys || (SMap.find s.integ.retired (region * 2 ^ 17 + row)).isNone)

/-- A word of DBG_DATA (R437): the row's current contents; where the layout of the region is not given, a value that stays while nothing writes the region. DESIGN CHOICE, log entry 122. -/
def State.dbgDataWord (s : State) (off : Nat) : Nat :=
  let sel := s.sec.dbgSel.toNat
  let region := bits sel 19 16
  let row := bits sel 15 0
  let free := (Config.dbgData (region * 2 ^ 17 + row + b2n (bit sel 25) * 2 ^ 16 * 2 ^ 5) off (SMap.getD s.sec.writes region 0)).toNat
  if s.plainRow region row (bit sel 25) then ((s.rowBytes region row off 4).map le).getD free else free

/-- A word of DBG_CHECK in raw mode (R437): the check bytes of codeword off / 4 in an S35 region, four bytes of code bits in a byte-mode region. -/
def State.dbgCheckWord (s : State) (off : Nat) : Nat :=
  let sel := s.sec.dbgSel.toNat
  let region := bits sel 19 16
  let row := bits sel 15 0
  let free := (Config.dbgData (region * 2 ^ 17 + row + b2n (bit sel 25) * 2 ^ 16 * 2 ^ 5) (2048 + off) (SMap.getD s.sec.writes region 0)).toNat
  if s.byteMode region then le ((ofLe 4 free).map fun b => b &&& 0x1F#8)
  else if 256 ≤ off then 0
  else if s.plainRow region row (bit sel 25) then
    ((s.rowBytes region row (off / 4 * 32) 32).map fun d => le (s35Check d)).getD (free % 2 ^ 24)
  else free % 2 ^ 24

/-- DBG registers (R435, R437): DBG_CHECK is zero in corrected mode. -/
def State.readDbg (s : State) (a : Nat) : WordRead :=
  let sel := s.sec.dbgSel.toNat
  if a = 0x700000 then (true, b2n s.sec.unlocked, s)
  else if !s.sec.unlocked then (false, 0, s)
  else if a = 0x700004 then (true, sel, s)
  else if a = 0x700008 then (true, s.sec.dbgInject.toNat, s)
  else if (0x701000 ≤ a ∧ a < 0x701800) ∨ (0x702000 ≤ a ∧ a < 0x702800) then
    if 9 < bits sel 19 16 ∨ s.apertureRows ≤ bits sel 15 0 then (false, 0, s)
    else if 0x702000 ≤ a ∧ !bit sel 24 then (true, 0, s)
    else (true, if 0x702000 ≤ a then s.dbgCheckWord (a - 0x702000) else s.dbgDataWord (a - 0x701000), s)
  else (true, 0, s)

/-- DBK_STATUS read: LOST is cleared, without the increments of this tick (R5, R6). -/
def State.readDbkStatus (s : State) : WordRead :=
  let (v, rest, marks) := readLost s.logs.dbkLost s.freshNow.dbk
  (true, (s.dbkWord 0x5C0008 - s.logs.dbkLost.toNat) + v.toNat,
    { s with logs := { s.logs with dbkLost := rest }, kpr := { s.kpr with fresh := { s.freshNow with dbk := marks } } })

/-- CNS_STATUS read: LOST is cleared, without the increments of this tick (R5, R6). -/
def State.readCnsStatus (s : State) : WordRead :=
  let (v, rest, marks) := readLost s.logs.cnsLost s.freshNow.cns
  (true, (s.cnsWord 0x610008 - s.logs.cnsLost.toNat) + v.toNat,
    { s with logs := { s.logs with cnsLost := rest }, kpr := { s.kpr with fresh := { s.freshNow with cns := marks } } })

/-- A 4-byte read of a register window (R5). -/
def State.readWord (s : State) (mid : Byte) (a : Nat) : WordRead :=
  if pairLow a || (decide (4 ≤ a) && pairLow (a - 4)) then s.readPair mid a
  else match hifWin a with
  | .idn => (true, s.idnWord a, s)
  | .kpr => (true, s.kprWord a, s)
  | .dbl => (true, s.dblWord a, s)
  | .mbx =>
    if a < 0x10800 ∧ a % 0x40 < 0x20 then s.readMessage mid a
    else if 0x1F000 ≤ a ∧ a < 0x1F100 then s.readLock mid ((a - 0x1F000) / 4)
    else (true, s.mbxWord a, s)
  | .lck => if a < 0x20100 then s.readLock mid ((a - 0x20000) / 4) else (true, 0, s)
  | .cnt => (true, s.cntWord a, s)
  | .evr => (true, s.evrWord a, s)
  | .dbk => if a = 0x5C0008 then s.readDbkStatus else (true, s.dbkWord a, s)
  | .cns => if a = 0x610008 then s.readCnsStatus else (true, s.cnsWord a, s)
  | .dbg => s.readDbg a
  | _ => (true, 0, s)

/-! ## Writes -/

/-- KPR_IRQ_MASK written: a vector unmasked while it is pending requests its message; for a cause of this tick the mask behind the write decides (R431). -/
def State.writeMask (s : State) (m : W16) : State :=
  let s1 := { s with kpr := { s.kpr with irqMask := m } }
  (List.range 16).foldl (fun t v =>
    if s.kpr.irqMask.getLsbD v && !m.getLsbD v && s.kpr.irqPending.getLsbD v then t.announce v
    else if !s.kpr.irqMask.getLsbD v && m.getLsbD v && s.isFresh (128 + v) then t.withdrawMsg v
    else t) s1

/-- The bits of an n-bit W1C field behind a write: each 1 clears its bit but where an event of this tick set it (R5, R6). -/
def State.w1cBits {n : Nat} (s : State) (old : BitVec n) (w : Nat) (base : Nat) : BitVec n :=
  BitVec.ofNat n (sumOf ((List.range n).map fun i => b2n (s.w1c (old.getLsbD i) (bit w i) (base + i)) * 2 ^ i))

/-- KPR_IRQ_PENDING written: a bit that a cause of this tick set stays, and the cause sends a new message if it has sent none (R6, R64). -/
def State.writePending (s : State) (w : Nat) : State :=
  let s1 := { s with kpr := { s.kpr with irqPending := s.w1cBits s.kpr.irqPending w 48 } }
  (List.range 16).foldl (fun t v =>
    if bit w v && s.isFresh (48 + v) && s.kpr.irqPending.getLsbD v && !s.isFresh (128 + v) && !s.kpr.irqMask.getLsbD v then t.announce v
    else t) s1

/-- KPR_HALT written by a host MID while a halt is allowed (R413). -/
def State.writeHalt (s : State) (v : Nat) : State :=
  let s1 := { s with kpr := { s.kpr with armCode := BitVec.ofNat 16 (v / 2 ^ 16), arm := bit v 1 } }
  if bit v 0 then s1.halt else s1

/-- KPR_SOFT_RESET written (R81): the domains named, ascending. -/
def State.writeSoftReset (s : State) (v : Nat) : State :=
  (allDoms.filter fun d => bit v (domBit d)).foldl State.softReset s

/-- Whether a MID is a host MID. -/
def hostMid (mid : Byte) : Bool := decide (1 ≤ mid.toNat) && decide (mid.toNat ≤ 0x1F)

/-- What a register write gives: the status and the state after it. -/
abbrev WordWrite := Bool × State

/-- KPR registers written. -/
def State.writeKpr (s : State) (mid : Byte) (a v : Nat) : WordWrite :=
  match a - 0x1000 with
  | 0x14 => (true, { s with kpr := { s.kpr with soft := s.w1cBits s.kpr.soft (v / 2 ^ 8) 32 } })
  | 0x20 => if hostMid mid then (true, s.writeSoftReset v) else (false, s)
  | 0x30 => if hostMid mid && s.haltAllowed then (true, s.writeHalt v) else (false, s)
  | 0x40 => (true, s.writePending v)
  | 0x44 => (true, s.writeMask (BitVec.ofNat 16 v))
  | 0x48 => (true, { s with kpr := { s.kpr with irqKeeper := s.w1cBits s.kpr.irqKeeper v 40 } })
  | _ => (true, s)

/-- The doorbell of ring pair i (R90, R31): ignored while the pair is being reset. -/
def State.writeCmdPi (s : State) (i v : Nat) : State :=
  let p := s.pairAt i
  let new := BitVec.ofNat 13 v
  if p.resetBusy then s
  else if occupancy new p.cmdCi ≤ 4096 then (s.updPair i fun q => { q with cmdPi := new }).wake [.control]
  else (s.updPair i fun q => { q with piErr := true }).mark (8 + i)

/-- DBL_RPL_CI of ring pair i (R90). -/
def State.writeRplCi (s : State) (i v : Nat) : State :=
  let p := s.pairAt i
  let new := BitVec.ofNat 13 v
  if p.resetBusy then s
  else if ciAccepted p.rplPi p.rplCi new then s.updPair i fun q => { q with rplCi := new }
  else (s.updPair i fun q => { q with ciErr := true }).mark i

/-- DBL_CMD_CTRL of ring pair i (R95). -/
def State.writeCmdCtrl (s : State) (i v : Nat) : State :=
  s.updPair i fun q => { q with
    ciErr := s.w1c q.ciErr (bit v 3) i, piErr := s.w1c q.piErr (bit v 2) (8 + i), resetBusy := q.resetBusy || bit v 0 }

/-- DBL_RES_CI of result ring i (R307). -/
def State.writeResCi (s : State) (i v : Nat) : State :=
  let q := s.resAt i
  let new := BitVec.ofNat 13 v
  if q.resetBusy then s
  else if ciAccepted q.pi q.ci new then s.updRes i fun r => { r with ci := new }
  else (s.updRes i fun r => { r with ciErr := true }).mark (16 + i)

/-- DBL_RES_CTRL of result ring i (R308). -/
def State.writeResCtrl (s : State) (i v : Nat) : State :=
  s.updRes i fun r => { r with ciErr := s.w1c r.ciErr (bit v 1) (16 + i), resetBusy := r.resetBusy || bit v 0 }

/-- DBL registers written. -/
def State.writeDbl (s : State) (a v : Nat) : State :=
  if a < 0x2100 then
    let i := (a - 0x2000) / 0x20
    match a % 0x20 with
    | 0x00 => s.writeCmdPi i v
    | 0x08 => s.writeCmdCtrl i v
    | 0x14 => s.writeRplCi i v
    | _ => s
  else if 0x2200 ≤ a ∧ a < 0x2280 then
    let i := (a - 0x2200) / 0x10
    match a % 0x10 with
    | 0x04 => s.writeResCi i v
    | 0x08 => s.writeResCtrl i v
    | _ => s
  else s

/-- A message word of channel n written (R119, R122). -/
def State.writeMessage (s : State) (mid : Byte) (a v : Nat) : WordWrite :=
  let n := (a - 0x10000) / 0x40
  let k := a % 0x40 / 4
  if !(s.chanAt n).sentBy mid.toNat then (false, s.logRefused mid a)
  else if k = 7 then (true, (s.postMessage n mid (BitVec.ofNat 32 v)).keeperMail n)
  else (true, s.stageWord n k (BitVec.ofNat 32 v))

/-- MBX_ACK of channel n written (R119, R125). -/
def State.writeAck (s : State) (mid : Byte) (a v : Nat) : WordWrite :=
  let n := (a - 0x10000) / 0x40
  if (s.chanAt n).receivedBy mid.toNat then (true, s.writeAckReg n (BitVec.ofNat 16 v)) else (false, s.logRefused mid a)

/-- MBX_STATUS of channel n written: ACK_VALID by the sender, COLLISION by either party (R136). A write by another MID clears nothing and completes with OK (DESIGN CHOICE, log entry 93). -/
def State.writeChanStatus (s : State) (mid : Byte) (n v : Nat) : State :=
  s.updChan n fun c =>
    let tx := c.sentBy mid.toNat
    let rx := c.receivedBy mid.toNat
    { c with ackValid := s.w1c c.ackValid (bit v 2 && tx) (96 + n), collision := s.w1c c.collision (bit v 1 && (tx || rx)) (64 + n) }

/-- MBX_EPOCH_i written by the identity it belongs to (R128). -/
def State.writeEpochReg (s : State) (mid : Byte) (i v : Nat) : WordWrite :=
  if epochIndex mid.toNat = some i then (true, s.writeEpoch i (BitVec.ofNat 16 v)) else (false, s)

/-- MBX registers written. -/
def State.writeMbx (s : State) (mid : Byte) (a v : Nat) : WordWrite :=
  if a < 0x10800 then
    if a % 0x40 < 0x20 then s.writeMessage mid a v
    else if a % 0x40 = 0x20 then (true, s.writeChanStatus mid ((a - 0x10000) / 0x40) v)
    else if a % 0x40 = 0x24 then s.writeAck mid a v
    else (true, s)
  else if 0x10810 ≤ a ∧ a < 0x1082C then s.writeEpochReg mid ((a - 0x10810) / 4) v
  else if 0x1F000 ≤ a ∧ a < 0x1F100 then (true, s.release ((a - 0x1F000) / 4) mid)
  else (true, s)

/-- CNT_CTRL.ACTIVITY (R400): group 0x09 is held at zero while it is 0, and its interval begins as it rises. -/
def Cnt.setActivity (c : Cnt) (on : Bool) (now : W64) : Cnt :=
  if on then { c with activity := true, since := if c.activity then c.since else SMap.put c.since 9 now }
  else
    { c with
      activity := false, since := SMap.drop c.since 9
      live := c.live.filter fun e => decide (e.1 / 512 ≠ 9)
      queue := c.queue.filter fun e => match e.op with
        | .add k _ | .gauge k _ | .gaugeMax k _ => decide (k / 512 ≠ 9)
        | _ => true }

/-- A selection of the trace is set. -/
def Cnt.traced (c : Cnt) : Bool := c.trcDaybook || decide (c.trcEvents ≠ 0)

/-- CNT_TRC_CTRL written (R416, R417): a SYNC packet as a selection is first set, and the Control domain's trace unit powered. -/
def State.writeTrace (s : State) (v : Nat) : State :=
  let s1 := { s with cnt := { s.cnt with trcDaybook := bit v 13, trcEvents := BitVec.ofNat 12 (v / 2) } }
  if s1.cnt.traced then (if s.cnt.traced then s1 else s1.traceSync).wake [.control] else s1

/-- CNT registers written. -/
def State.writeCnt (s : State) (a v : Nat) : State :=
  if a = 0x4F0000 then { s with cnt := s.cnt.setActivity (bit v 0) s.kpr.ktime }
  else if a = 0x4F0030 then s.writeTrace v
  else s

/-- DBK registers written (R408). -/
def State.writeDbk (s : State) (a v : Nat) : State :=
  let l := s.logs
  if a = 0x5C0004 then
    let new := BitVec.ofNat 14 v
    { s with logs := if ciAccepted l.dbkPi l.dbkCi new then { l with dbkCi := new } else { l with dbkErr := true } }.markIf (!ciAccepted l.dbkPi l.dbkCi new) 24
  else if a = 0x5C0008 then { s with logs := { l with dbkErr := s.w1c l.dbkErr (bit v 18) 24 } }
  else s

/-- CNS registers written (R395). -/
def State.writeCns (s : State) (a v : Nat) : State :=
  let l := s.logs
  if a = 0x610004 then
    let new := BitVec.ofNat 11 v
    { s with logs := if ciAccepted l.cnsPi l.cnsCi new then { l with cnsCi := new } else { l with cnsErr := true } }.markIf (!ciAccepted l.cnsPi l.cnsCi new) 25
  else if a = 0x610008 then
    { s with logs := { l with cnsErr := s.w1c l.cnsErr (bit v 16) 25, cnsLostModule := s.w1c l.cnsLostModule (bit v 17) 26 } }
  else s

/-- SYMBOL in the range of its region's mode (R438). -/
def State.symbolOk (s : State) (v : Nat) : Bool :=
  if s.byteMode (bits v 27 24) then decide (bits v 21 16 ≤ 12) else decide (bits v 21 16 ≤ 34)

/-- DBG registers written (R435, R438). -/
def State.writeDbg (s : State) (a v : Nat) : WordWrite :=
  if a = 0x700000 then (true, s)
  else if !s.sec.unlocked then (false, s)
  else if a = 0x700004 then (true, { s with sec := { s.sec with dbgSel := BitVec.ofNat 32 (Nat.land v 0x030FFFFF) } })
  else if a = 0x700008 then
    if s.symbolOk v then (true, { s with sec := { s.sec with dbgInject := BitVec.ofNat 32 (Nat.land v 0x8F3F00FF) } }) else (false, s)
  else (true, s)

/-- A 4-byte write to a register window (R5). -/
def State.writeWord (s : State) (mid : Byte) (a v : Nat) : WordWrite :=
  match hifWin a with
  | .kpr => s.writeKpr mid a v
  | .dbl => (true, s.writeDbl a v)
  | .mbx => s.writeMbx mid a v
  | .lck => (true, if a < 0x20100 then s.release ((a - 0x20000) / 4) mid else s)
  | .cnt => (true, s.writeCnt a v)
  | .dbk => (true, s.writeDbk a v)
  | .cns => (true, s.writeCns a v)
  | .dbg => s.writeDbg a v
  | _ => (true, s)

end Sys2Proof.Machine
end

