-- ==== Sys2Proof/Machine/Access.lean ====
section
/-! DEFINITION. HIF and MBX accesses and the rows that make them (02 R34; 03 R43 to R47; 05 R90, R95, R98; 06 R119 to R135; 14 R307, R308; 18 R413; 20 R428 to R438): DOORBELL, DBL_RPL_CI, RING_PAIR_RESET, RING_PAIR_RESET_COMPLETE, DBL_RES_CI, RING_RESET, RING_RESET_COMPLETE, CNS_CI, DBK_CI, READ_CLEAR, DOMAIN_SOFT_RESET, HARD_HALT, IRQ_MASK_WRITE, IRQ_ACK, POST, MBX_ACK, MBX_EPOCH, LOCK_ACQUIRE, LOCK_RELEASE, LOW_WORD_READ, HIGH_WORD_READ, REGISTER_WRITE, BAD_OPCODE, ACCESS_REFUSED, HIF_ACCESS_WAKE. -/

namespace Sys2Proof.Machine

open Sys2Proof.Bytes

/-! ## One access (R34, R43, R44, R429) -/

/-- The MIDs of a port (R43). -/
def midOk (port : Port) (mid : Byte) : Bool :=
  match port with
  | .hif => hostMid mid
  | .mbx => (decide (0x20 ≤ mid.toNat) && decide (mid.toNat ≤ 0x23)) || mid == 0x28 || mid == 0x30

/-- The offset in the HIF window that an access reaches (R47). -/
def portOffset (port : Port) (a : Nat) : Nat :=
  match port with
  | .hif => a
  | .mbx => 0x10000 + a

/-- A write carried out: the status and the state. Writes to reply and result ring memory are ignored (05, R305). -/
def State.writeAt (s : State) (mid : Byte) (a : Nat) (data : List Byte) : WordWrite :=
  match hifWin a with
  | .cmd => (true, { s with mem := Memory.writeBytes s.mem a data }.wrote 3)
  | .reply | .res | .unmapped => (true, s)
  | _ => if data.length = 4 then s.writeWord mid a (le data) else (true, s)

/-- A read carried out: the status, the bytes, the state. An 8-byte read of a pair neither sets nor uses a latch (R430). -/
def State.readAt (s : State) (mid : Byte) (a n : Nat) : Bool × List Byte × State :=
  match hifWin a with
  | .cmd | .reply | .res => (true, Memory.readBytes s.mem a n, s)
  | .unmapped => (true, List.replicate n 0, s)
  | _ =>
    if n = 8 then (true, ofLe 8 (s.pairValue a), s)
    else
      let r := s.readWord mid a
      (r.1, ofLe 4 r.2.1, r.2.2)

/-- A refused access: ERR, and zero for a read. -/
def State.refuseAccess (s : State) (mid : Byte) (write : Bool) (n : Nat) : State :=
  s.respond mid false (if write then [] else List.replicate n 0)

/-- An access that nothing holds back. -/
def State.perform (s : State) (mid : Byte) (write : Bool) (a : Nat) (data : List Byte) : State :=
  if write then
    let r := s.writeAt mid a data
    r.2.respond mid r.1 []
  else
    let r := s.readAt mid a data.length
    r.2.2.respond mid r.1 r.2.1

/-- The access waits: a home domain is not active, or an earlier access of the same master waits (R34). -/
def State.holds (s : State) (mid : Byte) (a : Nat) : Bool :=
  (s.homes a).any (fun d => !s.active d) || s.power.heldAccesses.any fun h => h.mid == mid

/-- An access to the HIF window by offset: availability, size, the wake of its home, and then its effect. -/
def State.hifAccess (s : State) (mid : Byte) (write : Bool) (a : Nat) (data : List Byte) : State :=
  if s.winShut a || !accessFits a data.length then s.refuseAccess mid write data.length
  else if s.holds mid a then
    let s1 := { s with power := { s.power with heldAccesses := s.power.heldAccesses ++ [{ mid := mid, write := write, addr := a, data := data }] } }
    if (s.homes a).any fun d => !s.active d then s1.wake (s.homes a) else s1
  else s.perform mid write a data

/-- An access through a port (R43): one whose MID is not the port's is refused and logged. While a reset pin is low no access is accepted (R68). A read carries as many bytes as it asks for. -/
def State.access (s : State) (port : Port) (mid : Byte) (write : Bool) (a : Nat) (data : List Byte) : State :=
  let off := portOffset port a
  if s.resetLow then s
  else if !midOk port mid then (s.logRefused mid off).refuseAccess mid write data.length
  else s.hifAccess mid write off data

/-- The accesses that were held tried again in their order (R34). -/
def State.completeHeld (s : State) : State :=
  let hs := s.power.heldAccesses
  if hs.isEmpty then s
  else hs.foldl (fun t h => t.hifAccess h.mid h.write h.addr h.data) { s with power := { s.power with heldAccesses := [] } }

/-- A 4-byte write. -/
def State.write4 (s : State) (port : Port) (mid : Byte) (a : Nat) (v : W32) : State := s.access port mid true a (ofLe 4 v.toNat)

/-- A 4-byte read. -/
def State.read4 (s : State) (port : Port) (mid : Byte) (a : Nat) : State := s.access port mid false a (List.replicate 4 0)

/-! ## Rings (R90, R95, R307, R308) -/

/-- DOORBELL (R90): DBL_CMD_PI written. -/
def execDoorbell (mid : Byte) (ring : Fin 8) (value : W32) (s : State) : Host.Outcome State Fault Refusal :=
  .next (s.write4 .hif mid (0x2000 + ring.val * 0x20) value)

/-- DBL_RPL_CI (R90). -/
def execDblRplCi (mid : Byte) (ring : Fin 8) (value : W32) (s : State) : Host.Outcome State Fault Refusal :=
  .next (s.write4 .hif mid (0x2014 + ring.val * 0x20) value)

/-- RING_PAIR_RESET (R95): DBL_CMD_CTRL written. -/
def execRingPairReset (mid : Byte) (ring : Fin 8) (value : W32) (s : State) : Host.Outcome State Fault Refusal :=
  .next (s.write4 .hif mid (0x2008 + ring.val * 0x20) value)

/-- RING_PAIR_RESET_COMPLETE (R95): every command taken from the ring is answered; an incomplete chain is discarded, the indices are zero, the reply ring is cleared. -/
def execRingPairResetComplete (ring : Fin 8) (s : State) : Host.Outcome State Fault Refusal :=
  let i := ring.val
  if (s.pairAt i).resetBusy && !(s.rings.replies.any fun r => decide (r.ring = i)) && !s.dead then
    .next ({ s with mem := Memory.clear s.mem (rplAddr i 0) (rplAddr i 0 + 0x10000) }.updPair i fun _ => {})
  else .next s

/-- DBL_RES_CI (R307). -/
def execDblResCi (mid : Byte) (ring : Fin 8) (value : W32) (s : State) : Host.Outcome State Fault Refusal :=
  .next (s.write4 .hif mid (0x2204 + ring.val * 0x10) value)

/-- RING_RESET (R308): DBL_RES_CTRL written. -/
def execRingReset (mid : Byte) (ring : Fin 8) (value : W32) (s : State) : Host.Outcome State Fault Refusal :=
  .next (s.write4 .hif mid (0x2208 + ring.val * 0x10) value)

/-- RING_RESET_COMPLETE (R308): the ring memory is zeroed, both indices are zero, CI_ERR and RESET_BUSY are cleared. -/
def execRingResetComplete (ring : Fin 8) (s : State) : Host.Outcome State Fault Refusal :=
  let i := ring.val
  let q := s.resAt i
  if q.resetBusy && !s.dead then
    let base := 0x200000 + i * 0x40000
    .next (({ s with mem := Memory.clear s.mem base (base + 0x40000) }.updRes i fun _ => {}).event 7 0x48 noWing i (occupancy q.pi q.ci))
  else .next s

/-! ## Other registers with a row -/

/-- CNS_CI (R395). -/
def execCnsCi (mid : Byte) (value : W32) (s : State) : Host.Outcome State Fault Refusal := .next (s.write4 .hif mid 0x610004 value)

/-- DBK_CI (R408). -/
def execDbkCi (mid : Byte) (value : W32) (s : State) : Host.Outcome State Fault Refusal := .next (s.write4 .hif mid 0x5C0004 value)

/-- READ_CLEAR (R5, R6): a 4-byte read of a register that holds an RC field. -/
def execReadClear (mid : Byte) (addr : Nat) (s : State) : Host.Outcome State Fault Refusal := .next (s.read4 .hif mid addr)

/-- DOMAIN_SOFT_RESET (R81): KPR_SOFT_RESET written. -/
def execDomainSoftReset (mid : Byte) (value : W32) (s : State) : Host.Outcome State Fault Refusal := .next (s.write4 .hif mid 0x1020 value)

/-- HARD_HALT (R413, R414): KPR_HALT written. -/
def execHardHalt (mid : Byte) (value : W32) (s : State) : Host.Outcome State Fault Refusal := .next (s.write4 .hif mid 0x1030 value)

/-- IRQ_MASK_WRITE (R431): KPR_IRQ_MASK written. -/
def execIrqMaskWrite (mid : Byte) (value : W32) (s : State) : Host.Outcome State Fault Refusal := .next (s.write4 .hif mid 0x1044 value)

/-- IRQ_ACK (R431): the endpoint acknowledges the message, and the next that waits is sent. -/
def execIrqAck (s : State) : Host.Outcome State Fault Refusal :=
  match s.kpr.irqSent with
  | none => .next s
  | some _ => .next (if s.resetLow then s else { s with kpr := { s.kpr with irqSent := none } }.nextMsg)

/-! ## Mailboxes and locks (06) -/

/-- Offset in the MBX window as a port addresses it. -/
def mbxOffset (port : Port) (off : Nat) : Nat :=
  match port with
  | .hif => 0x10000 + off
  | .mbx => off

/-- POST (R122): word 7 of a channel's message written. -/
def execPost (port : Port) (mid : Byte) (chan : Fin 32) (value : W32) (s : State) : Host.Outcome State Fault Refusal :=
  .next (s.write4 port mid (mbxOffset port (chan.val * 0x40 + 0x1C)) value)

/-- MBX_ACK (R125). -/
def execMbxAck (port : Port) (mid : Byte) (chan : Fin 32) (value : W32) (s : State) : Host.Outcome State Fault Refusal :=
  .next (s.write4 port mid (mbxOffset port (chan.val * 0x40 + 0x24)) value)

/-- MBX_EPOCH (R128, R135). -/
def execMbxEpoch (port : Port) (mid : Byte) (index : Fin 7) (value : W32) (s : State) : Host.Outcome State Fault Refusal :=
  .next (s.write4 port mid (mbxOffset port (0x810 + 4 * index.val)) value)

/-- Offset of a lock register as a port addresses it; the MBX port has the alias alone (R434). -/
def lockOffset (port : Port) (n : Nat) : Nat :=
  match port with
  | .hif => 0x20000 + 4 * n
  | .mbx => 0xF000 + 4 * n

/-- LOCK_ACQUIRE (R132). -/
def execLockAcquire (port : Port) (mid : Byte) (lock : Fin 64) (s : State) : Host.Outcome State Fault Refusal :=
  .next (s.read4 port mid (lockOffset port lock.val))

/-- LOCK_RELEASE (R133). -/
def execLockRelease (port : Port) (mid : Byte) (lock : Fin 64) (value : W32) (s : State) : Host.Outcome State Fault Refusal :=
  .next (s.write4 port mid (lockOffset port lock.val) value)

/-! ## Reads, writes, refusals, wakes in general -/

/-- LOW_WORD_READ (R430): a 4-byte read of a pair's low word. -/
def execLowWordRead (mid : Byte) (addr : Nat) (s : State) : Host.Outcome State Fault Refusal := .next (s.read4 .hif mid addr)

/-- HIGH_WORD_READ (R430): a 4-byte read of a pair's high word. -/
def execHighWordRead (mid : Byte) (addr : Nat) (s : State) : Host.Outcome State Fault Refusal := .next (s.read4 .hif mid addr)

/-- REGISTER_WRITE (R5). -/
def execRegisterWrite (port : Port) (mid : Byte) (addr : Nat) (data : List Byte) (s : State) : Host.Outcome State Fault Refusal :=
  .next (s.access port mid true addr data)

/-- ACCESS_REFUSED (R43, R119). -/
def execAccessRefused (port : Port) (mid : Byte) (write : Bool) (addr : Nat) (data : List Byte) (s : State) : Host.Outcome State Fault Refusal :=
  .next (s.access port mid write addr data)

/-- HIF_ACCESS_WAKE (R34). -/
def execHifAccessWake (mid : Byte) (write : Bool) (addr : Nat) (data : List Byte) (s : State) : Host.Outcome State Fault Refusal :=
  .next (s.access .hif mid write addr data)

/-- BAD_OPCODE (R98, R100). -/
def execBadOpcode (ring : Fin 8) (s : State) : Host.Outcome State Fault Refusal := .next (badOpcodeCommand ring s)

end Sys2Proof.Machine
end

