-- ==== Sys2Proof/Machine/Pair.lean ====
section
/-! DEFINITION. The pair's data session: joining, mirroring, covering, handing back, leaving (16 R338 to R341, R346 to R357; 05 R109): PAIR_JOIN, PAIR_YIELD, PAIR_STATUS, PAIR_RESYNC, PAIR_LEAVE, HELLO, HELLO_TIMEOUT, TIME, REC, ACK, GALLERY, CATALOGUE, COUNTER, BULK, HANDBACK, LEAVE, ACK_TIMER, RESEND, COPY_CLEARED. -/

namespace Sys2Proof.Machine

open Sys2Proof.Bytes

/-! ## HELLO (R339, R351) -/

/-- The fingerprint of a gallery secret. -/
def secretPrint (k : GalleryKeys) : BitVec 128 :=
  BitVec.ofNat 128 (le ((hashBytes (Config.sha384 (hashBytes k.secret))).take 16))

/-- A HELLO with the device's signature over its payload (R319, R351). -/
def signHello (h : Hello) : Hello := { h with sig := Config.ecdsaSign identityKey (helloHash h) }

/-- Tenant galleries that are open. -/
def State.openTenants (s : State) : List Nat :=
  s.galleryNumbers.filter fun g => decide (g ≠ 0) && decide ((s.galAt g).state = 1)

/-- This member's HELLO, signed by its identity key (R351). -/
def State.ownHello (s : State) (share : PubKey) : Hello :=
  signHello {
    side := s.side, behaviour := Config.behaviour, caps := s.kpr.caps, idKey := identityPublic, share := share
    digests := (List.range 4).map fun w => if s.served w then s.catHash w else none
    pages := (List.range 4).map fun w => (s.site w).pages
    policies := (List.range 4).map fun w => (s.wingAt w).policy
    galleries := s.openTenants.map fun g => (g, (s.galAt g).gen.toNat, secretPrint (s.galAt g).keys) }

/-- Two wing policies agree (R339). -/
def policiesAgree (a b : WingPolicy) : Bool :=
  a.fixed == b.fixed && decide (a.fixedShape = b.fixedShape) && !(a.standby && b.standby)

/-- The paired wing set with a partner (R339). -/
def State.pairedSet (s : State) (h : Hello) : List Nat :=
  s.servedWings.filter fun w =>
    bit h.caps.wingMask w && (s.catHash w).isSome && decide (s.catHash w = nth h.digests w none)
      && decide (nth h.pages w 0 = (s.site w).pages) && policiesAgree (s.wingAt w).policy (nth h.policies w {})

/-- A tenant gallery is open on both members with different fingerprints. -/
def State.galleriesDiffer (s : State) (h : Hello) : Bool :=
  h.galleries.any fun x => s.openTenants.contains x.1 && decide (secretPrint (s.galAt x.1).keys ≠ x.2.2)

/-- The join is refused (R351). -/
def State.joinMismatch (s : State) (h : Hello) : Bool :=
  decide (Config.sha384 (pubBytes h.idKey) ≠ ((s.partner?.map (·.keyHash)).getD 0)) || decide (h.side = s.side)
    || decide (h.behaviour ≠ Config.behaviour) || !Config.ecdsaVerify h.idKey (helloHash h) h.sig || (s.pairedSet h).isEmpty || s.galleriesDiffer h

/-- Direction keys of sides 0 and 1. -/
def directionKeys (z : Hash384) (share0 share1 : PubKey) : Key256 × Key256 :=
  let prk := hkdfExtract (pubBytes share0 ++ pubBytes share1) (hashBytes z)
  (key256 (hkdfExpand prk (ascii "BASAM G0") 32), key256 (hkdfExpand prk (ascii "BASAM G1") 32))

/-! ## Covering and handing back (R352, R353) -/

/-- A request's BULK frame is acknowledged and COPY is cleared on all its pages. -/
def State.nowCovered (s : State) (r : Req) : Bool :=
  !r.mirrorCovered && !r.degraded && (s.wingAt r.wing).paired
    && ((SMap.find s.pair.bulkFseq r.acc).any fun f => decide (f ≤ s.pair.acked))
    && r.pages.all fun p => !s.pair.copying.contains (r.wing * 2 ^ 32 + p.1)

/-- Coverage brought up to date. -/
def State.cover (s : State) : State := s.mapReqs fun r => if s.nowCovered r then { r with mirrorCovered := true } else r

/-- HANDBACK sent for a covered adopted request whose last step has committed (R353). -/
def State.sendHandbacks (s : State) : State :=
  (s.pair.handbacks.filter fun h => decide (h.2 = 0)).foldl (fun t h =>
    match t.req? h.1 with
    | none => { t with pair := { t.pair with handbacks := SMap.drop t.pair.handbacks h.1 } }
    | some r =>
      if r.mirrorCovered && !t.holdsRow r && !t.inStep r && (t.job? r.acc).isNone then
        let u := ((t.sendFrame (.handback (t.homeImage r))).count 8 7 1).ledgerAdd 15 1
        { u with pair := { u.pair with handbacks := SMap.put u.pair.handbacks h.1 u.fenceNow } }
      else t) s

/-- A handed-back request is kept as a mirror only, with its deadlines in the home member's time; its records that were not released are kept entries again. -/
def State.toMirror (s : State) (acc : Nat) : State :=
  match SMap.find s.reg.reqs acc with
  | none => s
  | some r =>
    let back := { s.homeImage r with pages := r.pages.map fun p => (s.mapTarget r.wing p.1, p.2), adopted := false }
    let left := (s.recordsOf acc).filter (·.sealed)
    { s with
      reg := { s.reg with
        reqs := SMap.drop s.reg.reqs acc
        mirror := SMap.put s.reg.mirror (slotOf acc)
          { record := back, releasedSeq := s.releasedSeq r, entries := left.flatMap fun o => o.entries.map fun e => (o.seq, e) } }
      path := { s.path with records := s.path.records.filter fun o => decide (o.acc ≠ acc) } }

/-- Handbacks that are acknowledged. -/
def State.endHandbacks (s : State) : State :=
  (s.pair.handbacks.filter fun h => decide (h.2 ≠ 0) && decide (h.2 ≤ s.pair.acked)).foldl (fun t h =>
    let u := t.toMirror h.1
    { u with pair := { u.pair with handbacks := SMap.drop u.pair.handbacks h.1 } }) s

/-- Every request of every paired wing is covered and every handback complete. -/
def State.joinDone (s : State) : Bool :=
  s.pair.session && (s.pairedReqs.all fun r => r.degraded || r.mirrorCovered) && s.pair.handbacks.isEmpty

/-- A join whose requests are covered and handed back completes behind a mirror fence made then (R348). -/
def State.joinStep (s : State) : State :=
  if s.pair.state == .joining && s.joinDone then
    let fence := s.pair.joinFence.getD s.fenceNow
    if fence ≤ s.pair.acked then
      let s2 := ({ s with pair := { s.pair with joinFence := none } }).setPair .paired
      (if s2.runs 9 none then s2.endActivity 9 255 stOk else s2).flushReplies
    else { s with pair := { s.pair with joinFence := some fence } }
  else s

/-- What an advance of ACKED or a cleared COPY brings: coverage, handbacks, activities, replies, the end of a join. -/
def State.pairProgress (s : State) : State := ((s.cover.sendHandbacks.endHandbacks.fencedActivities).flushReplies).joinStep

/-! ## The join -/

/-- A join begins: a HELLO with a fresh ephemeral share (R351). -/
def State.startJoin (s : State) (seq : Option W32) : State :=
  let (priv, pub) := s.drawPair
  let s1 := { s.drawn with pair := { s.pair with
    joinFrom := s.pair.state, session := false, fseqNext := 1, applied := 0, acked := 0, ackSent := 0, kept := []
    bulkFseq := [], imaged := [], handbacks := [], copying := [], joinFence := none, ephemeral := some (priv, pub), helloSent := some s.kpr.ktime } }
  ((s1.setPair .joining).startActivity 9 255 seq 0).sendFrame (.hello (s1.ownHello pub))

/-- A join that fails: the activity ends, the member returns to the state before it. -/
def State.failJoin (s : State) (status : Nat) : State :=
  let s1 := s.endSession.setPair s.pair.joinFrom
  (if s1.runs 9 none then s1.endActivity 9 255 status else s1).flushReplies

/-- Segments that bring to the partner what has been loaded of an aid (R340, R352). -/
def aidSegs (a : Aid) : List AidSeg :=
  let items : List AidSeg :=
    if a.complete then
      [.states 0 ((List.range a.states).map fun i => SMap.getD a.stateItems i (false, 0)),
       .masks 1 ((List.range a.masks).map fun i => SMap.getD a.maskItems (i + 1) [])]
    else (a.stateItems.map fun e => .states e.1 [e.2]) ++ a.maskItems.map fun e => .masks e.1 [e.2]
  [.begin_ a.vocab a.states a.masks a.transitions a.start] ++ items ++ [.transitions a.transItems]
    ++ if a.complete then [.final] else []

/-- Aids of a gallery that the partner does not hold as they stand, sent segment by segment with their layout. -/
def State.tellAids (s : State) (g : Nat) : State :=
  ((s.galAt g).aids.filter fun a => !a.2.told && !a.2.removed).foldl (fun t a =>
    ((aidSegs a.2).foldl (fun u seg => u.sendFrame (.gallery g (.aid a.1 seg a.2.base a.2.maskBase))) t).markTold g a.1 true) s

/-- A gallery sent to a partner that does not hold it open (R352). -/
def State.tellGallery (s : State) (g : Nat) : State :=
  let x := s.galAt g
  let s1 := s.sendFrame (.gallery g (.open_ x.policy x.gen.toNat x.keys))
  let s2 := if x.keyGen = 0 then s1 else s1.sendFrame (.gallery g (.rekey x.keyGen.toNat x.keys))
  (s2.updGal g fun y => { y with freedAids := [], aids := y.aids.map fun a => (a.1, { a.2 with told := false }) }).tellAids g

/-- What was done to a gallery that both members hold open while no session stood: aids freed, then aids loaded (R340). -/
def State.tellActs (s : State) (g : Nat) : State :=
  let s1 := (s.galAt g).freedAids.foldl (fun t n => t.sendFrame (.gallery g (.aid n .free [] []))) s
  (s1.updGal g fun y => { y with freedAids := [] }).tellAids g

/-- A gallery of the partner's that this member closed while no session stood: the same opening is closed there too (R340). -/
def State.tellClose (s : State) (g gen : Nat) : State :=
  if (s.galAt g).closedAlone && decide ((s.galAt g).gen.toNat = gen) then s.sendFrame (.gallery g .close) else s

/-- The BULK frame of a request, with the sealed entries not yet released. -/
def State.sendBulk (s : State) (r : Req) : State :=
  let os := (s.recordsOf r.acc).filter (·.sealed)
  let m : MirrorRec := { op := .accession, releasedSeq := s.releasedSeq r, record := s.homeImage r, entries := os.flatMap fun o => o.entries.map fun e => (o.seq, e) }
  let s1 := s.sendFrame (.bulk m)
  let s2 := os.foldl (fun t o => t.updRec r.acc o.seq fun x => { x with fseq := s1.fenceNow, mirrorDue := false }) s1
  { s2 with pair := { s2.pair with bulkFseq := SMap.put s2.pair.bulkFseq r.acc s2.fenceNow } }

/-- The session begins: keys, the paired wing set, TIME, then what R340 and R352 send. Requests beyond what the partner can hold are degraded (R450, R451). -/
def State.beginSession (s : State) (h : Hello) (fseq : Nat) : State :=
  let (priv, pub) := s.pair.ephemeral.getD (0, 0)
  let z := Config.ecdh priv h.share
  let keys := if s.side = 0 then directionKeys z pub h.share else directionKeys z h.share pub
  let ws := s.pairedSet h
  let limit := min s.kpr.caps.galleries h.caps.galleries
  let s1 := { s with
    pair := { s.pair with session := true, applied := fseq, partner := some h, helloIn := none, ephemeral := none, directionKeys := some keys }
    wings := (List.range 4).foldl (fun m w => SMap.modify m w {} fun x => { x with paired := ws.contains w }) s.wings
    reg := { s.reg with mirror := [] } }
  let short := decide (h.caps.records < (s.partner?.map (·.records)).getD 0)
  let s2 := s1.mapReqs fun r => { r with
    mirrorCovered := false
    degraded := r.degraded || decide (limit ≤ r.gallery) || (short && !r.adopted && decide (h.caps.records / 2 ≤ slotOf r.acc)) }
  let s3 := s2.sendFrame (.time s2.kpr.ktime 0 0)
  let both := fun (g : Nat) => h.galleries.any fun x => decide (x.1 = g)
  let mine := s3.openTenants.filter fun g => decide (g < limit)
  let s3a := (mine.filter both).foldl State.tellActs ((mine.filter fun g => !both g).foldl State.tellGallery s3)
  let s4 := h.galleries.foldl (fun t x => t.tellClose x.1 x.2.1) s3a
  let rs := s4.pairedReqs.filter fun r => !r.degraded
  let s5 := rs.foldl State.sendBulk s4
  let s6 := rs.foldl (fun t r => r.pages.foldl (fun u p => u.mapPage r.wing p.1 true) t) s5
  let back := (rs.filter fun r => r.adopted && decide (homeSide r.acc ≠ s.side)).map fun r => (r.acc, 0)
  ({ s6 with pair := { s6.pair with handbacks := back } }).pairProgress

/-- Both HELLO frames have passed: the join goes on, or is refused, with BAD_KEY where the share is no valid point (R319, R351). The status is DEDUCED, log entry 107. -/
def State.meet (s : State) : State :=
  match s.pair.helloIn with
  | none => s
  | some (h, fseq) =>
    if s.pair.state != .joining || s.pair.helloSent.isNone || s.pair.session then s
    else if s.joinMismatch h then s.failJoin stPairMismatch
    else if !Config.p384Valid h.share ((s.pair.ephemeral.getD (0, 0)).1) then s.failJoin stBadKey
    else s.beginSession h fseq

/-- A state from which a join may begin (R341). -/
def State.mayJoin (s : State) : Bool :=
  s.pair.state == .alone || s.pair.state == .yielded || s.pair.state == .survivor || s.pair.state == .degraded

/-- The effect of PAIR_JOIN and PAIR_RESYNC. -/
def State.joinCommand (s : State) : Done :=
  if s.partner?.isNone then .refuse s stNotPaired
  else if !s.mayJoin then .busy s 9
  else match s.conflict 9 255 with
    | some k => .busy s k
    | none => { state := (s.startJoin (some s.rings.applySeq)).meet, status := stPending }

/-- PAIR_JOIN (R351). -/
def execPairJoin (ring : Fin 8) (s : State) : Host.Outcome State Fault Refusal :=
  .next (clearCommand 0x40 noPayload (fun _ s => s.joinCommand) ring s)

/-- No valid heartbeat frame for 31,000 ticks. -/
def State.silent (s : State) : Bool :=
  match s.pair.lastFrame with
  | none => true
  | some t => decide (t.toNat + 31000 ≤ s.now)

/-- PAIR_RESYNC (R352). -/
def execPairResync (ring : Fin 8) (s : State) : Host.Outcome State Fault Refusal :=
  .next (clearCommand 0x43 noPayload (fun _ s =>
    if s.partner?.isNone then .refuse s stNotPaired
    else if s.silent then .refuse s stPairDegraded
    else s.joinCommand) ring s)

/-- HELLO_TIMEOUT (R351): no HELLO within 100 ms. -/
def execHelloTimeout (s : State) : Host.Outcome State Fault Refusal :=
  if s.dead then .next s else
  match s.pair.helloSent with
  | none => .next s
  | some t =>
    .next (if s.pair.state == .joining && !s.pair.session && decide (t.toNat + 10000000 ≤ s.now) then s.failJoin stPairDegraded else s)

/-! ## Yielding, leaving, status (R341, R363, R371) -/

/-- Entry into YIELDED (R341, R363): requests of unpaired wings end with the reason cancellation. -/
def State.enterYielded (s : State) : State :=
  let rs := s.liveReqs.filter fun r => !(s.wingAt r.wing).paired && r.state != .deaccessioned
  let s1 := rs.foldl (fun t r => t.askDeaccession r.acc 4) s
  let s2 := (s1.setPair .yielded).endSession
  (if s2.runs 9 none then s2.endActivity 9 255 stPairDegraded else s2).flushReplies

/-- The member mirrors: PAIRED or JOINING. -/
def State.together (s : State) : Bool := s.pair.state == .paired || s.pair.state == .joining

/-- PAIR_YIELD (R363): refused with NOT_PAIRED in a state from which R341 gives no way to YIELDED. -/
def execPairYield (ring : Fin 8) (s : State) : Host.Outcome State Fault Refusal :=
  .next (clearCommand 0x41 noPayload (fun _ s =>
    if s.partner?.isNone || !s.together then .refuse s stNotPaired else { state := s.enterYielded }) ring s)

/-- PAIR_STATUS (R341, R345, R356). -/
def execPairStatus (ring : Fin 8) (s : State) : Host.Outcome State Fault Refusal :=
  .next (clearCommand 0x42 noPayload (fun _ s =>
    { state := s
      data := ofLe 1 (pairCode s.pair.state) ++ ofLe 1 s.side ++ ofLe 2 0 ++ ofLe 4 (twos 32 s.offsetNs) ++ ofLe 4 s.mirrorLag ++ ofLe 4 0 }) ring s)

/-- The pair ends: ALONE, no wing paired, no mirror. -/
def State.leave (s : State) : State :=
  let s1 := s.clearMirrorMap.endSession
  let s2 := { s1 with
    wings := s1.wings.map fun (e : Nat × Wing) => (e.1, { e.2 with paired := false })
    reg := { s1.reg with mirror := [] } }
  let s3 := s2.setPair .alone
  (if s3.runs 9 none then s3.endActivity 9 255 stPairDegraded else s3).flushReplies

/-- PAIR_LEAVE (R341, R371). -/
def execPairLeave (ring : Fin 8) (s : State) : Host.Outcome State Fault Refusal :=
  .next (clearCommand 0x44 noPayload (fun _ s =>
    if s.partner?.isNone then .refuse s stNotPaired
    else if s.kpr.fenceReq then .refuse s stFencePending
    else if s.together || s.pair.state == .degraded then
      { state := (if s.pair.session then s.sendFrame .leave else s).leave, status := stPending }
    else { state := s, status := stPending }) ring s)

/-! ## Receiving data frames (R346, R347) -/

/-- Records that a covered frame brought to the partner. -/
def noteImages (m : SMap Req) (ks : List KeptFrame) : SMap Req :=
  ks.foldl (fun m k => match k.payload with
    | .rec_ r => SMap.put m r.record.acc r.record
    | .bulk r => SMap.put m r.record.acc r.record
    | _ => m) m

/-- ACKED of a received frame taken in: covered frames are dropped, and what waited for them goes on. -/
def State.ackAdvance (s : State) (acked : Nat) : State :=
  if s.pair.acked < acked ∧ acked < s.pair.fseqNext then
    ({ s with pair := { s.pair with
      acked := acked, ackMovedAt := s.kpr.ktime, kept := s.pair.kept.filter fun k => decide (acked < k.fseq)
      imaged := noteImages s.pair.imaged (s.pair.kept.filter fun k => decide (k.fseq ≤ acked)) } }).pairProgress
  else s

/-- A data frame of the session: applied if it is intact and next in order, else discarded. -/
def State.receive (s : State) (hdr : FrameHdr) (p : FrameOut) (effect : State → State) : State :=
  if s.dead then s
  else if !s.active .registrar then s.wake []
  else if !s.pair.session || !s.intact hdr p || decide (hdr.fseq ≠ s.pair.applied + 1) then s.count 8 3 1
  else
    let s1 := s.ackAdvance hdr.acked
    let s2 := { s1 with pair := { s1.pair with applied := hdr.fseq, applying := hdr.fseq } }
    let s3 := effect s2
    { s3 with pair := { s3.pair with applying := 0 } }

/-- HELLO (R351): kept until this member joins, or used at once. -/
def execGrvHello (hdr : FrameHdr) (hello : Hello) (s : State) : Host.Outcome State Fault Refusal :=
  if s.dead || s.partner?.isNone then .next s
  else if !s.active .registrar then .next (s.wake [])
  else if !s.intact hdr (.hello hello) || decide (hdr.fseq ≠ 1) || s.pair.session then .next (s.count 8 3 1)
  else .next ({ s with pair := { s.pair with helloIn := some (hello, hdr.fseq) } }).meet

/-- TIME (R344, R351): a frame without an echo is echoed; one with an echo gives the first estimate, from an exchange at full width. -/
def execGrvTime (hdr : FrameHdr) (sent echoSent echoArrived : W64) (s : State) : Host.Outcome State Fault Refusal :=
  .next (s.receive hdr (.time sent echoSent echoArrived) fun t =>
    if echoSent = 0 ∧ echoArrived = 0 then t.sendFrame (.time t.kpr.ktime sent t.kpr.ktime)
    else
      let eP : Int := (echoArrived.toNat : Int) - (echoSent.toNat : Int)
      let eO : Int := (t.now : Int) - (sent.toNat : Int)
      { t with pair := { t.pair with theta := eP - eO, thetaKnown := true, exchanges := [(eP - eO, (eP + eO).toNat)] } })

/-- Areas of a mirrored request written into this member's stack, in the mirror half (R355). -/
def State.mirrorAreas (s : State) (old : Option Req) (r : Req) (op : MirrorOp) (all : Bool) : State :=
  let q := { r with adopted := true }
  let site := s.site r.wing
  let n := s.areaSlot q
  let s1 := if all || op == .accession then
      (s.smpArea r.wing (site.stopBase + n * 512) r.gallery (.setup r.acc)
        (r.stopSeqs.flatMap fun q => slice (q.flatMap fun t => ofLe 4 (2 ^ 31 + t)) 0 64)).smpArea
        r.wing (s.adjAddr r.wing n r.adjHalf) r.gallery (.setup r.acc) (adjustArea r)
    else s
  let s2 := if all || op == .prompt then
      s1.smpArea r.wing (site.promptBase + n * site.promptBytes) r.gallery (.setup r.acc) (r.prompt.flatMap fun t => ofLe 4 t)
    else s1
  let have_ := if all then r.gen.length - 1024 else (old.map fun o => o.gen.length).getD 0
  let s3 := ((List.range r.gen.length).drop have_).foldl (fun t i =>
    let at_ := t.historyAddr q i
    t.smpSend { wing := r.wing, op := 2, addr := at_ / 64 * 64, keySlot := r.gallery, ben := BitVec.ofNat 64 (15 * 2 ^ (at_ % 64))
                data := slice (List.replicate (at_ % 64) 0 ++ ofLe 4 (nth r.gen i 0)) 0 64, use := .setup r.acc }) s2
  let pages : List (Nat × Bool) := (old.map fun o => o.pages).getD []
  (r.pages.zipIdx.filter fun (p : (Nat × Bool) × Nat) => all || decide (pages[p.2]? ≠ some p.1)).foldl (fun t p =>
    t.writePte q p.2 (t.mapTarget r.wing p.1.1) p.1.2) s3

/-- A mirror record applied (R355). -/
def State.applyRec (s : State) (m : MirrorRec) (all : Bool) : State :=
  let slot := slotOf m.record.acc
  if m.op == .freed then { s with reg := { s.reg with mirror := SMap.drop s.reg.mirror slot } }
  else
    let old := (SMap.find s.reg.mirror slot).filter fun x => decide (x.record.acc = m.record.acc)
    let kept := ((old.map (·.entries)).getD []).filter fun e => decide (m.releasedSeq ≤ e.1)
    let new := m.entries.filter fun e => decide (m.releasedSeq ≤ e.1) && (all || !(kept.any fun k => decide (k = e)))
    let x : MirrorSlot := { record := m.record, releasedSeq := m.releasedSeq, entries := (if all then [] else kept) ++ new }
    let s1 := { s with reg := { s.reg with mirror := SMap.put s.reg.mirror slot x } }
    s1.mirrorAreas (if all then none else old.map (·.record)) m.record m.op all

/-- REC (R355). -/
def execGrvRec (hdr : FrameHdr) (record : MirrorRec) (s : State) : Host.Outcome State Fault Refusal :=
  .next (s.receive hdr (.rec_ record) fun t => t.applyRec record false)

/-- BULK (R352, R355). -/
def execGrvBulk (hdr : FrameHdr) (record : MirrorRec) (s : State) : Host.Outcome State Fault Refusal :=
  .next (s.receive hdr (.bulk record) fun t => t.applyRec record true)

/-- ACK (R347): nothing beside ACKED. -/
def execGrvAck (hdr : FrameHdr) (s : State) : Host.Outcome State Fault Refusal := .next (s.receive hdr .ack fun t => t)

/-- GALLERY (R340): the partner's pair act with the values it derived. An opening that this member closed while no session stood is not opened again: its close is on its way (DESIGN CHOICE, log entry 106). -/
def execGrvGallery (hdr : FrameHdr) (gallery : Nat) (act : GalleryAct) (s : State) : Host.Outcome State Fault Refusal :=
  .next (s.receive hdr (.gallery gallery act) fun t =>
    match act with
    | .open_ policy gen keys =>
      if (t.galAt gallery).closedAlone && decide ((t.galAt gallery).gen.toNat = gen) then t
      else t.openGallery gallery policy gen keys
    | .rekey keyGen keys => t.installRekey gallery keyGen keys
    | .close => t.closeGallery gallery
    | .aid number seg base maskBase =>
      ((t.applySeg gallery number seg (some (base, maskBase))).getD t).markTold gallery number true)

/-- CATALOGUE (R340, R391): a pair commit applied to the staging section, or a lost entry restored. -/
def execGrvCatalogue (hdr : FrameHdr) (act : CatFrame) (s : State) : Host.Outcome State Fault Refusal :=
  .next (s.receive hdr (.catalogue act) fun t =>
    match act with
    | .commit w n digest sig =>
      match (t.wingAt w).stagedEntries n with
      | some es => if catalogueDigest w es = digest then t.acceptCommit w es sig none else t
      | none => t
    | .restore w i digest entry =>
      let es := setNth (t.wingAt w).committed i entry
      if catalogueDigest w es = digest then
        t.updWing w fun x => { x with committed := es }.updShape (shapeKey entry) fun y => { y with lost := false }
      else t)

/-- COUNTER (R340): the last accepted ingress counter raised to a higher one. -/
def execGrvCounter (hdr : FrameHdr) (gallery counter : Nat) (s : State) : Host.Outcome State Fault Refusal :=
  .next (s.receive hdr (.counter gallery counter) fun t => t.updGal gallery fun x => { x with lastCtr := BitVec.ofNat 64 (max x.lastCtr.toNat counter) })

/-- A handed-back request taken into the own half, its per-slot areas and page table written at its own slot (R353). The image's deadlines are in this member's time (R354); records that the other member had not released go with the request. -/
def State.takeBack (s : State) (r : Req) : State :=
  let q := { r with
    pages := r.pages.map fun p => (s.mapTarget r.wing p.1, p.2), adopted := false, mirrorCovered := true
    covered := min r.covered r.kvDone, gone := false, restored := true }
  let slot := slotOf r.acc
  let s1 := { s with
    reg := { s.reg with
    reqs := SMap.put s.reg.reqs r.acc q, gens := SMap.put s.reg.gens slot (genOf r.acc)
    tags := SMap.put s.reg.tags slot (SlotTag.mk r.acc r.nextSeq r.submitCtr r.gallery), mirror := SMap.drop s.reg.mirror slot }
    path := { s.path with records := s.path.records ++ (match SMap.find s.reg.mirror slot with
      | some m => if m.record.acc = r.acc then keptRecords q m.releasedSeq m.entries s.kpr.ktime else []
      | none => []) } }
  let s2 := s1.writeAreas q
  let s3 := ((List.range q.gen.length).drop (q.gen.length - 1024)).foldl (fun t i =>
    let at_ := t.historyAddr q i
    t.smpSend { wing := q.wing, op := 2, addr := at_ / 64 * 64, keySlot := q.gallery, ben := BitVec.ofNat 64 (15 * 2 ^ (at_ % 64))
                data := slice (List.replicate (at_ % 64) 0 ++ ofLe 4 (nth q.gen i 0)) 0 64, use := .setup q.acc }) s2
  let s4 := q.pages.zipIdx.foldl (fun t p => t.writePte q p.2 p.1.1 p.1.2) s3
  (s4.armWheel r.acc)

/-- HANDBACK (R353). -/
def execGrvHandback (hdr : FrameHdr) (record : Req) (s : State) : Host.Outcome State Fault Refusal :=
  .next (s.receive hdr (.handback record) fun t => t.takeBack record)

/-- LEAVE (R349, R341): the partner ends the pair. -/
def execGrvLeave (hdr : FrameHdr) (s : State) : Host.Outcome State Fault Refusal := .next (s.receive hdr .leave fun t => t.leave)

/-! ## Acknowledging and sending again (R347) -/

/-- A new ACKED of the recovery session that no frame has carried for 5 µs goes alone (R350). -/
def State.ackRecovery (s : State) : State :=
  let r := s.pair.recov
  if s.power.linkUp && decide (r.ackSent < r.applied) && decide (r.ackSentAt.toNat + 500 ≤ s.now) then s.sendRecovery .ack else s

/-- A new ACKED of the pair session that no frame has carried for 5 µs goes alone. -/
def State.ackPair (s : State) : State :=
  if s.pair.session && decide (s.pair.ackSent < s.ackValue) && decide (s.pair.ackSentAt.toNat + 500 ≤ s.now) then s.sendFrame .ack else s

/-- ACK_TIMER (R347, R350): in either session. -/
def execAckTimer (s : State) : Host.Outcome State Fault Refusal :=
  .next (if s.dead then s else s.ackRecovery.ackPair)

/-- Frames kept go out again as they stand, each with the ACKED of now. -/
def State.resendFrames (s : State) (ks : List KeptFrame) (acked : Nat) : State :=
  ks.foldl (fun t f => t.emit (.frame (s.ownFrame f.payload f.fseq acked))) s

/-- ACKED of the pair session has not moved for 20 µs while frames are unacknowledged. -/
def State.resendPair (s : State) : State :=
  match s.pair.kept with
  | [] => s
  | k :: _ =>
    if s.pair.ackMovedAt.toNat + 2000 ≤ s.now then
      let n := s.pair.kept.length
      let s1 := s.resendFrames s.pair.kept s.ackValue
      (({ s1 with pair := { s1.pair with ackMovedAt := s.kpr.ktime } }).count 8 2 n).event 11 0x69 noWing n k.fseq
    else s

/-- The same in the recovery session. -/
def State.resendRecovery (s : State) : State :=
  let r := s.pair.recov
  if s.power.linkUp && !r.kept.isEmpty && decide (r.ackMovedAt.toNat + 2000 ≤ s.now) then
    let s1 := s.resendFrames r.kept r.applied
    { s1 with pair := { s1.pair with recov := { r with ackMovedAt := s.kpr.ktime } } }
  else s

/-- RESEND (R347, R350). -/
def execResend (s : State) : Host.Outcome State Fault Refusal :=
  .next (if s.dead then s else s.resendRecovery.resendPair)

/-- COPY_CLEARED (R352, R358): the stack has copied a page. -/
def execCopyCleared (wing : Fin 4) (page : Nat) (s : State) : Host.Outcome State Fault Refusal :=
  if s.dead then .next s else
  let key := wing.val * 2 ^ 32 + page
  if s.pair.copying.contains key then
    .next ({ s with pair := { s.pair with
      copying := s.pair.copying.filter (· != key)
      mirrorMap := SMap.adjust s.pair.mirrorMap key fun _ => 2 ^ 31 + s.mapTarget wing.val page } }).pairProgress
  else .next s

end Sys2Proof.Machine
end

