-- ==== Sys2Proof/Machine/Security.lean ====
section
/-! DEFINITION. Service unlock, capsule writing, firmware staging and activation (05 R109; 15 R334 to R336; 16 R370; 20 R435, R436): FW_STAGE, FW_ACTIVATE, SERVICE_CHALLENGE, SERVICE_UNLOCK, SERVICE_LOCK, CAPSULE_WRITE, CAPSULE_PROGRAMMED, CHALLENGE_EXPIRY. -/

namespace Sys2Proof.Machine

open Sys2Proof.Bytes

/-! ## Service unlock (R334, R335, R436) -/

/-- Ticks of a challenge's life: 600,000,000 µs. -/
def challengeTicks : Nat := 60000000000

/-- SERVICE_CHALLENGE (R334): 48 bytes of the random source become the one outstanding challenge. -/
def execServiceChallenge (ring : Fin 8) (s : State) : Host.Outcome State Fault Refusal :=
  .next (clearCommand 0x70 noPayload (fun _ s =>
    let c := hash384 (s.draw 48)
    { state := { s.drawn with sec := { s.drawn.sec with challenge := some (c, s.kpr.ktime) } }, data := hashBytes c }) ring s)

/-- CHALLENGE_EXPIRY (R334). -/
def execChallengeExpiry (s : State) : Host.Outcome State Fault Refusal :=
  if s.dead then .next s else
  match s.sec.challenge with
  | none => .next s
  | some (_, t) =>
    if t.toNat + challengeTicks ≤ s.now then .next { s with sec := { s.sec with challenge := none } } else .next s

/-- A tenant gallery is open or closing. -/
def State.tenantsOpen (s : State) : Bool := s.galleries.any fun e => decide (e.1 ≠ 0) && decide (e.2.state ≠ 0)

/-- The message that a service RESPONSE signs. -/
def serviceMessage (challenge : Hash384) : List Byte :=
  ascii "BASAM SU" ++ hashBytes challenge ++ pubBytes identityPublic ++ ofLe 2 Config.behaviour

/-- ERASE_ALL to every KYB target: the stack engine and the noise-key bank of every wing served (R61). -/
def State.eraseAll (s : State) : State :=
  let s1 := s.servedWings.foldl (fun t w => (t.kybSend { wing := w, op := 2 }).kybSend { wing := w, noise := true, op := 2 }) s
  { s1 with
    galleries := s1.galleries.map fun (e : Nat × Gallery) => (e.1, { e.2 with loaded := [], bound := [] })
    wings := s1.wings.map fun (e : Nat × Wing) => (e.1, { e.2 with lastRows := [] })
    path := { s1.path with ctlLoaded := [] } }

/-- The control structure key loaded into slot 64 of every wing served (R61, R317). -/
def State.loadControlKey (s : State) : State :=
  s.servedWings.foldl (fun t w => t.kybSend { wing := w, op := 0, slot := 64, key := keyBytes controlKey }) s

/-- A new memory key of gallery 0 drawn and loaded into slot 0 (R142). -/
def State.drawGalleryKey (s : State) : State :=
  let k := key256 (s.draw 32)
  let s1 := s.drawn.updGal 0 fun g => { g with keys := { g.keys with memory := k } }
  s1.loadKeys 0 k s1.servedWings

/-- Intake data of a step written with zero. -/
def Step.zeroIntake (t : Step) : Step := { t with bursts := t.bursts.map fun (b : Nat × List Byte) => (b.1, List.replicate b.2.length 0) }

/-- What R436 writes zero to: staging buffers, intake buffers, records and slot tags of slots without a live request of gallery 0. -/
def State.serviceWipe (s : State) : State :=
  let live := s.liveReqs.filter fun r => decide (r.gallery = 0)
  { s with
    maint := { s.maint with fwStage := [], capStage := [], capTotal := 0 }
    wings := s.wings.map fun (e : Nat × Wing) => (e.1, { e.2 with running := e.2.running.map (·.zeroIntake), tails := e.2.tails.map (·.zeroIntake) })
    reg := { s.reg with mirror := [], tags := s.reg.tags.filter fun t => live.any fun r => decide (r.acc = t.2.acc) } }

/-- The granted unlock, in the order of R335. -/
def State.grantUnlock (s : State) : State :=
  let s1 := (s.liveReqs.filter fun r => decide (r.gallery = 0)).foldl (fun t r => t.deaccession r.acc 4) s
  let s2 := s1.eraseAll.drawGalleryKey.loadControlKey.serviceWipe
  ({ s2 with sec := { s2.sec with unlocked := true } }).ledgerAdd 18 1

/-- SERVICE_UNLOCK (R335). -/
def execServiceUnlock (ring : Fin 8) (s : State) : Host.Outcome State Fault Refusal :=
  .next (clearCommand 0x71 (layout 96 [] fun _ _ => none) (fun c s =>
    match s.sec.challenge with
    | none => .refuse s stNotAuthorised
    | some (ch, _) =>
      if s.tenantsOpen then .refuse s stNotAuthorised
      else
        let s1 := { s with sec := { s.sec with challenge := none } }
        let sig : Sig := BitVec.ofNat 768 (fieldBe c.payload 0 96)
        if Config.ecdsaVerify Config.serviceKey (Config.sha384 (serviceMessage ch)) sig then { state := s1.grantUnlock }
        else .refuse s1 stBadSignature) ring s)

/-- The unlock ended: DBG locked, ARM cleared (R335, R438). -/
def State.lockService (s : State) : State :=
  { s with sec := { s.sec with unlocked := false, dbgInject := s.sec.dbgInject &&& 0x7FFFFFFF#32 } }

/-- SERVICE_LOCK (R335). -/
def execServiceLock (ring : Fin 8) (s : State) : Host.Outcome State Fault Refusal :=
  .next (clearCommand 0x72 noPayload (fun _ s => { state := s.lockService }) ring s)

/-! ## CAPSULE_WRITE (R336, R396) -/

/-- Bindings that firmware of behaviour code 0x0001 requires (R118). -/
def requiredBindings : List (Nat × Nat × Nat) := [(0, 0x28, 0x48), (1, 0x28, 0x40), (2, 0x40, 0x28)]

/-- Identities a binding may name (master identities table): the host MIDs, among which 0x01 stands for all of them (R117), and the single ones. -/
def validIdentity (m : Nat) : Bool :=
  (decide (1 ≤ m) && decide (m ≤ 0x1F)) || [0x20, 0x21, 0x22, 0x23, 0x28, 0x30, 0x40, 0x41, 0x48].contains m

/-- What a capsule whose signatures verify must also meet: byte mode only where it is selectable (R382), the required bindings, each channel bound once to valid identities (R117, R118). -/
def capsuleOk (c : Capsule) : Bool :=
  (c.byteMode.all fun r => r == 6 || r == 9)
    && (requiredBindings.all fun b => c.bindings.contains b)
    && (c.bindings.all fun b => decide (b.1 < 32) && validIdentity b.2.1 && validIdentity b.2.2
      && c.bindings.all fun b' => decide (b.1 ≠ b'.1) || decide (b = b'))

/-- Phase 0x04 accepts a capsule (R83): both sections verify, the Denolo section names this part's identity key, and its contents hold. -/
def capsuleAccepted (c : Capsule) : Bool := c.signed && c.namesPart && c.operatorSigned && capsuleOk c

/-- Layout of CAPSULE_WRITE: COUNT bytes behind 16, padded with zeros to a multiple of 16. The padding and its RESERVED_SET are DESIGN CHOICE, log entry 102. -/
def capsuleLayout : Layout :=
  { lenOk := fun pl => decide (16 ≤ pl.length) && decide (pl.length = 16 + 16 * ceilDiv (field pl 4 4) 16)
    reserved := [(8, 8)]
    padOk := fun pl => allZero (pl.drop (16 + field pl 4 4))
    params := fun s pl =>
      let off := field pl 0 4
      let n := field pl 4 4
      let total := if off = 0 then field pl 16 4 else s.maint.capTotal
      badParamIf (decide (n = 0) || (decide (off = 0) && decide (n < 4)) || decide (arcSize .capsule / 2 < total)
        || (decide (off ≠ 0) && decide (off ≠ s.maint.capStage.length)) || decide (total < off + n)) }

/-- Codes of what refuses the completing write: a running checkpoint or activation. -/
def State.capsuleBlocks (s : State) : Option Nat :=
  minOf ((if s.runs 2 none then [2] else []) ++ if s.runs 6 none then [6] else [])

/-- CAPSULE_WRITE (R336): `verdict` is the capsule that the complete bytes spell, with the verdicts on its signatures; it is accepted as phase 0x04 would. -/
def execCapsuleWrite (ring : Fin 8) (verdict : Option Capsule) (s : State) : Host.Outcome State Fault Refusal :=
  .next (clearCommand 0x73 capsuleLayout (fun c s =>
    let off := field c.payload 0 4
    let n := field c.payload 4 4
    let bs := slice c.payload 16 n
    let total := if off = 0 then field bs 0 4 else s.maint.capTotal
    let staged := (if off = 0 then [] else s.maint.capStage) ++ bs
    let s1 := { s with maint := { s.maint with capStage := staged, capTotal := total } }.wrote 6
    if !s.maint.fwStage.isEmpty then .busy s 5
    else if off + n < total then { state := s1 }
    else match s.capsuleBlocks with
      | some k => .busy s k
      | none => match verdict.filter capsuleAccepted with
        | none => .refuse s stBadSignature
        | some cap =>
          { state := { s1 with maint := { s1.maint with capNext := some cap } }.emit (.archive .capsule), status := stPending }) ring s)

/-- The capsule region with both copies holding a capsule (R86, R336). -/
def putCapsule (f : Flash) (c : Capsule) : Flash := { f with capsule0 := .holds c, capsule1 := .holds c }

/-- CAPSULE_PROGRAMMED (R336): both copies are programmed, and vector 14 is raised; the next start-up finds the new capsule. -/
def execCapsuleProgrammed (s : State) : Host.Outcome State Fault Refusal :=
  if s.dead then .next s else
  match s.maint.capNext with
  | none => .next s
  | some c => .next ({ s with maint := { s.maint with
      capNext := none, capStage := [], capTotal := 0, flash := putCapsule s.maint.flash c } }.raiseVec 14)

/-! ## Firmware (R109, R370, R396) -/

/-- Layout of FW_STAGE: at most 32,736 bytes behind 16, inside the 15 MiB of the image. -/
def fwStageLayout : Layout :=
  { lenOk := fun pl => decide (16 ≤ pl.length) && decide (pl.length = 16 + field pl 4 4)
    reserved := [(8, 8)]
    params := fun _ pl => badParamIf (decide (32736 < field pl 4 4) || decide (arcSize .image < field pl 0 4 + field pl 4 4)) }

/-- Bytes put into the staging buffer. -/
def stageBytes (m : SMap Byte) (off : Nat) : List Byte → SMap Byte
  | [] => m
  | b :: bs => stageBytes (SMap.put m off b) (off + 1) bs

/-- FW_STAGE (R109, R396): the activity begins and completes in the act, since its reply is no PENDING (DESIGN CHOICE, log entry 27). -/
def execFwStage (ring : Fin 8) (s : State) : Host.Outcome State Fault Refusal :=
  .next (clearCommand 0x53 fwStageLayout (fun c s =>
    match s.conflict 5 255 with
    | some k => .busy s k
    | none =>
      if !s.maint.capStage.isEmpty then .busy s 0
      else
        let s1 := (s.startActivity 5 255 (some s.rings.applySeq) 0).wrote 6
        let s2 := { s1 with maint := { s1.maint with
          fwStage := stageBytes s1.maint.fwStage (field c.payload 0 4) (slice c.payload 16 (field c.payload 4 4)) } }
        { state := s2.endActivity 5 255 stOk }) ring s)

/-- FW_ACTIVATE (R370): `verdict` is the image that the staged bytes verify as. A paired member yields first. -/
def execFwActivate (ring : Fin 8) (verdict : Option ImageInfo) (s : State) : Host.Outcome State Fault Refusal :=
  .next (clearCommand 0x54 noPayload (fun _ s =>
    match s.conflict 6 255 with
    | some k => .busy s k
    | none => match verdict with
      | none => .refuse s stBadSignature
      | some i =>
        if s.maint.fwStage.isEmpty then .refuse s stBadSignature
        else
          let s1 := if s.together then s.enterYielded else s
          let s2 := s1.startActivity 6 255 (some s.rings.applySeq) 0
          { state := { s2 with maint := { s2.maint with fwImage := some i, fwProgram := true } }.emit (.archive .image)
            status := stPending }) ring s)

end Sys2Proof.Machine
end

