-- ==== Sys2Proof/Machine/Boot.lean ====
section
/-! DEFINITION. Resets and start-up (02 R35, R36; 03 R62, R67; 04 R80 to R88; 16 R350, R370): POWER_ON_RESET, BLOCK_RESET, FENCE_RESET, RESET_RELEASE, PUF_CHECK, BOOT_IMAGE, BOOT_CAPSULE, ECC_REGIONS, BOOT_CATALOGUE, JOURNAL_TIMEOUT, RECOVERY_CHUNK, RECOVERY_PROGRAMMED, IMAGE_REQUEST_RETRY, IMAGE, GRV_LINK_UP, FIRMWARE_ACTIVATION_DONE. -/

namespace Sys2Proof.Machine

open Sys2Proof.Bytes

/-! ## What a reset preserves (R80) -/

/-- Power state in reset: every request low; the acknowledges are inputs and fall by themselves (R66, R68, R74). -/
def Power.inReset (p : Power) : Power :=
  let off := fun (x : DomSt) => ({ ack := x.ack } : DomSt)
  { fclkAck := p.fclkAck, fclkFell := p.fclkFell, linkUp := p.linkUp
    registrar := off p.registrar, curator := off p.curator, intake := off p.intake, docent := off p.docent, control := off p.control }

/-- A cell of the ring memories that the Registrar's array holds: command, reply and result rings (R79, R428). -/
def inArray (c : Host.Cell) : Bool := decide (0x100000 ≤ c.1) && decide (c.1 < 0x500000)

/-- The firmware image is being programmed: by an activation once a yielded member's steps are done (R370), or in recovery (R86). -/
def State.imageProgramming (s : State) : Bool :=
  (s.maint.fwProgram && (s.pair.state != .yielded || s.yieldDone))
    || (s.maint.recoverProgram && match s.pair.recDone with
      | some (.image _) => true
      | _ => false)

/-- The capsule being programmed to copy 0 and then copy 1 (R86, R336). -/
def State.capsuleProgramming (s : State) : Option Capsule :=
  match s.pair.recDone with
  | some (.capsule c) => if s.maint.recoverProgram then some c else s.maint.capNext
  | _ => s.maint.capNext

/-- The two copies as a reset finds them: nothing erased yet, copy 0 without its header, copy 0 complete, copy 1 without its header (R87). -/
def stoppedAt (f : Flash) (c : Capsule) : Nat → Flash
  | 0 => f
  | 1 => { f with capsule0 := .broken }
  | 2 => { f with capsule0 := .holds c }
  | _ => { f with capsule0 := .holds c, capsule1 := .broken }

/-- The archive as a reset leaves it: what was being programmed lacks its completing header (R87). How far the two copies of a capsule had come is a free value (log entry 95). -/
def State.flashInReset (s : State) : Flash :=
  let f := if s.imageProgramming then { s.maint.flash with image := .broken } else s.maint.flash
  match s.capsuleProgramming with
  | none => f
  | some c => stoppedAt f c (Config.programStage s.free % 4)

/-- The state after a block or fence reset of a cause: KTIME, the Ledger's retained copy, the device key, the archive and what the Registrar's array holds stay, and so does a takeover journal that is kept; epochs are incremented (R79, R80, R88, R128). Start-up clears the array in phase 0x05. -/
def State.blockState (s : State) (cause : Nat) (keep : Bool) : State :=
  let live := keep && s.pair.journal.isSome
  { kpr := {
      size := s.kpr.size, stepping := s.kpr.stepping, ktime := s.kpr.ktime
      porLow := s.kpr.porLow, blkLow := s.kpr.blkLow, fenceLow := s.kpr.fenceLow, cause := BitVec.ofNat 4 cause
      controlCount := s.kpr.controlCount + 1, docentEpoch := s.kpr.docentEpoch + 1, intakeEpoch := s.kpr.intakeEpoch + 1
      curatorEpoch := s.kpr.curatorEpoch + 1, registrarEpoch := s.kpr.registrarEpoch + 1, blockEpoch := s.kpr.blockEpoch + 1
      deviceKey := s.kpr.deviceKey }
    power := s.power.inReset
    rings := { out := s.rings.out }
    ledger := { s.ledger with running := none, warned := false, waiting := [], cause := 0, nextPeriodic := 0 }
    mem := s.mem.filter inArray
    galleries := s.galleries
    reg := { s.reg with wheel := [], farScan := 0 }
    wings := s.wings.map fun (e : Nat × Wing) => (e.1, {
      paired := e.2.paired, committed := e.2.committed, signature := e.2.signature, selector := e.2.selector })
    path := { records := s.path.records }
    pair := if live then { journal := s.pair.journal, theta := s.pair.theta, thetaKnown := s.pair.thetaKnown, partner := s.pair.partner } else {}
    maint := { arcSlots := s.maint.arcSlots, flash := s.flashInReset }
    sec := { pufLocked := s.sec.pufLocked }
    outs := s.outs, free := s.free + 1, pending := s.pending }

/-- The state after a power-on reset, its pin low: the archive alone keeps what it holds. -/
def State.powerOnState (s : State) : State :=
  { kpr := { size := s.kpr.size, stepping := s.kpr.stepping, ktime := s.kpr.ktime, porLow := true, blkLow := s.kpr.blkLow, fenceLow := s.kpr.fenceLow }
    power := s.power.inReset
    rings := { out := s.rings.out }
    ledger := { journal := s.ledger.journal }
    maint := { arcSlots := s.maint.arcSlots, flash := s.flashInReset }
    outs := s.outs, free := s.free + 1, pending := s.pending }

/-! ## Reset pins (R67, R69, R83) -/

/-- Boot begins: phase 0x01, a cold FCLK start, Registrar and Control powered. -/
def State.beginBoot (s : State) : State :=
  { s with kpr := { s.kpr with phase := 1 }, power := { s.power with fclkFell := none } }.wake [.control]

/-- An internal block reset of a cause (R86, R370, R445). -/
def State.internalReset (s : State) (cause : Nat) : State := ((s.blockState cause true).ledgerAdd cause 1).beginBoot

/-- POWER_ON_RESET (R80): POR_N falls. -/
def execPowerOnReset (s : State) : Host.Outcome State Fault Refusal :=
  .next (if s.kpr.porLow then s else s.powerOnState)

/-- BLOCK_RESET (R80, R67): BLK_RST_N falls; while another pin is low the reset performed is that pin's. -/
def execBlockReset (s : State) : Host.Outcome State Fault Refusal :=
  let t := { s with kpr := { s.kpr with blkLow := true } }
  .next (if s.resetLow then t else t.blockState 2 true)

/-- FENCE_RESET (R80, R67): FENCE_RST_N falls and the journal is cleared; a block reset whose pin is low becomes a fence reset. -/
def execFenceReset (s : State) : Host.Outcome State Fault Refusal :=
  let t := { s with kpr := { s.kpr with fenceLow := true } }
  .next (if s.kpr.porLow || s.kpr.fenceLow then t
    else if s.kpr.blkLow then
      let u := t.dropJournal
      { u with kpr := { u.kpr with cause := 3 } }
    else t.blockState 3 false)

/-- The pin driven high. -/
def Kpr.release (k : Kpr) : ResetPin → Kpr
  | .por => { k with porLow := false, ktime := 0 }
  | .fence => { k with fenceLow := false }
  | .blk => { k with blkLow := false }

/-- The pin is low. -/
def Kpr.pinLow (k : Kpr) : ResetPin → Bool
  | .por => k.porLow
  | .fence => k.fenceLow
  | .blk => k.blkLow

/-- RESET_RELEASE (R67, R69, R83): the pin is deasserted; with the last of them the boot sequence begins. A power-on reset is counted behind the Ledger's restoration. -/
def execResetRelease (pin : ResetPin) (s : State) : Host.Outcome State Fault Refusal :=
  if s.kpr.pinLow pin then
    let s1 := { s with kpr := s.kpr.release pin }
    .next (if s1.resetLow then s1
      else
        let c := s1.kpr.cause.toNat
        (if c = 1 then s1 else s1.ledgerAdd c 1).beginBoot)
  else .next s

/-! ## Phases 0x02 to 0x04 (R83) -/

/-- Boot goes on: no pin is low and no halt code stands. -/
def State.boots (s : State) (phase : Nat) : Bool :=
  !s.resetLow && decide (s.kpr.haltCode = 0) && !s.kpr.recovery && decide (s.kpr.phase.toNat = phase)

/-- The state at a boot phase. -/
def State.atPhase (s : State) (p : Byte) : State := { s with kpr := { s.kpr with phase := p } }

/-- A boot halt. -/
def State.bootHalt (s : State) (code : Byte) : State := { s with kpr := { s.kpr with haltCode := code } }

/-- Basam accepts the archive device: its JESD216 table reports at least 512 Mbit and 4-byte addressing (R62). -/
def arcUsable (t : ArcTable) : Bool := decide (512 ≤ t.mbit) && t.fourByte

/-- Discovery (R62): what the device reported, and quad transfers at 50 MHz if it offers them. -/
def State.discover (s : State) (table : Option ArcTable) : State :=
  let found := table.filter arcUsable
  { s with maint := { s.maint with arcTable := found, arcQuad := (found.map (·.quad)).getD false } }

/-- The device key reconstructed from the PUF array and the first helper copy whose CRC-32C holds; the array is locked behind it until the next power-on reset (R83). A locked array yields no key: 0x03 (DESIGN CHOICE, log entry 96). -/
def State.readPuf (s : State) (copy0 copy1 : HelperCopy) : State :=
  match [copy0, copy1].find? (·.crcOk) with
  | none => s.bootHalt 0x02
  | some c =>
    let s1 := { s with sec := { s.sec with pufLocked := true } }
    if c.keyOk && !s.sec.pufLocked then { s1 with kpr := { s1.kpr with phase := 3, deviceKey := true } } else s1.bootHalt 0x03

/-- PUF_CHECK (R62, R83): phase 0x02 completes. A device key register that holds the key is used as it is. -/
def execPufCheck (scan : PufScan) (s : State) : Host.Outcome State Fault Refusal :=
  if (s.boots 1 || s.boots 2) && s.active .registrar && s.active .control then
    let s1 := (s.atPhase 2).discover scan.table
    .next (if s1.maint.arcTable.isNone then s1.bootHalt 0x01
      else if s1.kpr.deviceKey then s1.atPhase 3
      else s1.readPuf scan.copy0 scan.copy1)
  else .next s

/-- What the ROM finds in a region: what it reads there as long as Basam has not programmed it, else what stands there since (R82, R87). DESIGN CHOICE, log entry 109. -/
def found {α : Type} (x : FlashItem α) (read : Option α) : Option α :=
  match x with
  | .delivered => read
  | .broken => none
  | .holds a => some a

/-- The ROM asks the partner for its image: the request opens a recovery session, so it has FSEQ 1 (R350). -/
def State.askImage (s : State) : State :=
  { s with pair := { s.pair with recov := {}, imgChunks := 0, imgBytes := 0, recAskedAt := s.kpr.ktime } }.sendRecovery .request

/-- The image is missing and the partner path is open (R86). -/
def State.wantsImage (s : State) : Bool := s.kpr.recovery && decide (s.kpr.phase = 3) && !s.maint.recoverProgram

/-- Recovery mode for the item that PHASE names; channel 31 is bound to the host and Control pair A (R86, R117). -/
def State.enterRecovery (s : State) : State :=
  let s1 := ({ s with kpr := { s.kpr with recovery := true } }).updChan 31 fun c => { c with bound := true, sender := 0x01, receiver := 0x40 }
  if s1.wantsImage && s1.power.linkUp then s1.askImage else s1

/-- BOOT_IMAGE (R83, R433): phase 0x03 completes; `verdict` is what the image of an archive as delivered verifies as. -/
def execBootImage (verdict : Option ImageInfo) (s : State) : Host.Outcome State Fault Refusal :=
  if s.boots 3 then
    .next (match found s.maint.flash.image verdict with
      | some i => { s with kpr := { s.kpr with phase := 4, image := some i, fwVersion := i.version } }
      | none => s.enterRecovery)
  else .next s

/-- The figures in force: the smaller of built and limit, sets by AND (R36). -/
def limitCaps (b l : Caps) : Caps :=
  { rows := min b.rows l.rows, wingMask := Nat.land b.wingMask l.wingMask, records := min b.records l.records
    trees := min b.trees l.trees, lanes := min b.lanes l.lanes, galleries := min b.galleries l.galleries
    largestK := min b.largestK l.largestK, vreg := min b.vreg l.vreg, catEntries := min b.catEntries l.catEntries
    sramKib := min b.sramKib l.sramKib, maxShards := min b.maxShards l.maxShards, specWidth := min b.specWidth l.specWidth
    stopSeqs := min b.stopSeqs l.stopSeqs, tokenBits := min b.tokenBits l.tokenBits, logprobs := min b.logprobs l.logprobs
    methods := Nat.land b.methods l.methods }

/-- The binding table loaded (R117). -/
def State.loadBindings (s : State) (bs : List (Nat × Nat × Nat)) : State :=
  bs.foldl (fun t b => t.updChan b.1 fun c => { c with
    bound := true, sender := BitVec.ofNat 8 b.2.1, receiver := BitVec.ofNat 8 b.2.2 }) s

/-- A capsule accepted: capability registers, CAP_VALID, the binding table, the site settings, firmware runs; the random source is instantiated before phase 0x05 (R318); a live journal makes the firmware ask whether the fence still holds (R35, R88). -/
def State.acceptCapsule (s : State) (c : Capsule) : State :=
  let built := Config.built s.kpr.size
  let caps := limitCaps built c.limits
  let s1 := { s with kpr := { s.kpr with
    phase := 5, capValid := true, caps := caps, limited := decide (caps ≠ built), capsule := some c
    pllHold := BitVec.ofNat 16 c.pllHoldUs, fwRun := true } }
  let s2 := { s1.seedSource.loadBindings c.bindings with pair := { s1.pair with state := if c.partner.isSome then .alone else .unpaired } }
  if s2.pair.journal.isSome && c.partner.isSome then
    { s2 with pair := { s2.pair with journalAsked := some s2.kpr.ktime } }.controlPost 2 0x20 (1 - s2.side)
  else s2.dropJournal

/-- The first copy accepted: copy 0, then copy 1 (R83). -/
def bootCopy (f : Flash) (copy0 copy1 : Option Capsule) : Option Capsule :=
  match (found f.capsule0 copy0).filter capsuleAccepted with
  | some c => some c
  | none => (found f.capsule1 copy1).filter capsuleAccepted

/-- BOOT_CAPSULE (R83): phase 0x04 completes; the operand holds the two copies of an archive as delivered. -/
def execBootCapsule (scan : CapsuleScan) (s : State) : Host.Outcome State Fault Refusal :=
  if s.boots 4 then
    .next (match bootCopy s.maint.flash scan.copy0 scan.copy1 with
      | some c => s.acceptCapsule c
      | none => s.enterRecovery)
  else .next s

/-! ## The journal (R88) -/

/-- JOURNAL_TIMEOUT (R88): no answer within 5 ms. -/
def execJournalTimeout (s : State) : Host.Outcome State Fault Refusal :=
  match s.pair.journalAsked with
  | none => .next s
  | some t => .next (if t.toNat + 500000 ≤ s.now then s.dropJournal.clearPreserved else s)

/-! ## Phases 0x05 to 0x08 (R83, R85, R138, R142, R453) -/

/-- Preserved requests stand without the steps that a reset ended: chunks not written are owed again, loans of requests that left are freed. -/
def State.resumeRecords (s : State) : State :=
  let s1 := s.mapReqs fun r => { r with covered := min r.covered r.kvDone, restored := true }
  (s1.allReqs.filter fun r => r.gone || r.freeLoans).foldl (fun t r => t.freePages r.acc) s1

/-- Key slots of preserved galleries loaded again (R83). -/
def State.reloadKeys (s : State) : State :=
  (s.galleries.filter fun e => decide (e.2.state = 1) && decide (e.1 ≠ 0)).foldl
    (fun t e => t.loadKeys e.1 e.2.keys.memory (t.bindingSet e.2.policy)) s

/-- What start-up clears whatever a journal preserves: the ring memories and the catalogue banks (R80). -/
def State.clearArray (s : State) : State :=
  { s with
    mem := s.mem.filter fun c => !inArray c
    wings := s.wings.map fun (e : Nat × Wing) => (e.1, { paired := e.2.paired }) }

/-- A preserved record whose CRC fails (R88), by slot: it is lost as an uncorrectable record is (R391). -/
def State.badRecord (s : State) (slot : Nat) : State := s.recordLost (slot / 8) (slot % 8 * 8)

/-- ECC_REGIONS (R83): phase 0x05 completes: regions are initialised but for what a live journal preserves, ERASE_ALL is issued, slot 64 and the slots of preserved galleries are loaded, and each preserved record's CRC is checked (R88). It waits for the answer about the journal. -/
def execEccRegions (scan : RegionScan) (s : State) : Host.Outcome State Fault Refusal :=
  if s.boots 5 && s.pair.journalAsked.isNone then
    .next (if !scan.ok then s.bootHalt 0x05
      else if s.kpr.journalResumed then
        (scan.badRecords.foldl State.badRecord s.clearArray.eraseAll.loadControlKey.resumeRecords.reloadKeys).atPhase 6
      else s.clearPreserved.clearArray.eraseAll.loadControlKey.atPhase 6)
  else .next s

/-- A wing's archive section loads: it has entries, their CRCs hold and its signature verifies (R83, R190). -/
def State.sectionLoads (s : State) (w : Nat) (sec : List CatEntry × Sig) : Bool :=
  !sec.1.isEmpty && (sec.1.all fun e => decide (crc32c (e.raw.take 0x7FC) = field e.raw 0x7FC 4))
    && Config.ecdsaVerify s.cfg.catalogueKey (catalogueDigest w sec.1) sec.2

/-- The catalogue loaded from the archive slot with the higher commit sequence; wings without one are set in CAT_MISSING. -/
def State.loadCatalogue (s : State) : State :=
  let slot : ArcSlot := ((greaterSlot s.maint.arcSlots).map fun k => nth s.maint.arcSlots k {}).getD {}
  s.servedWings.foldl (fun t w =>
    let sec := slot.section_ w
    if t.sectionLoads w sec then t.updWing w fun x => { x with committed := sec.1, signature := sec.2 }
    else { t with kpr := { t.kpr with catMissing := t.kpr.catMissing ||| BitVec.ofNat 4 (2 ^ w) } }) s

/-- The Ledger that a checkpoint's body holds. -/
def Ledger.restore (l : Ledger) (body : List Byte) : Ledger :=
  let cells := fun (n : Nat) => List.range n
  { l with
    words := (cells 309).filterMap fun i => if field body (8 * i) 8 = 0 then none else some (i, BitVec.ofNat 64 (field body (8 * i) 8))
    activations := (cells 16).filterMap fun i =>
      let o := 0x9A8 + 16 * i
      if allZero (slice body o 16) then none
      else some (i, BitVec.ofNat 32 (field body o 4), field body (o + 4) 4, BitVec.ofNat 16 (field body (o + 8) 2), decide (field body (o + 10) 1 = 1))
    sticky := (cells 64).filterMap fun i =>
      let o := 0xAA8 + 16 * i
      if allZero (slice body o 16) then none
      else some (i, field body o 4, field body (o + 4) 1, field body (o + 6) 2, field body (o + 8) 4, field body (o + 12) 4)
    breaches := (cells 256).filterMap fun i =>
      let o := 0xEA8 + 32 * i
      if field body (o + 20) 4 = 0 ∧ field body (o + 10) 2 = 0 then none
      else some (i, { fingerprint := BitVec.ofNat 64 (field body o 8), wing := field body (o + 8) 1, quarantines := field body (o + 10) 2
                      firstS := field body (o + 12) 4, lastS := field body (o + 16) 4, steps := field body (o + 20) 4
                      codes := BitVec.ofNat 32 (field body (o + 24) 4) })
    evicted := BitVec.ofNat 64 (field body 0x2EA8 8) }

/-- The Ledger restored after a power-on reset from the valid slot with the highest CKPT_SEQ, then the reset counted; with no valid slot LEDGER_LOST is set (R424). -/
def State.restoreLedger (s : State) : State :=
  if s.kpr.cause ≠ 1 then s
  else
    let s1 := match s.ledger.newest.head? with
      | some e => { s with ledger := s.ledger.restore ((e.2.bytes.drop 64).take 11952) }
      | none => { s with ledger := { s.ledger with lost := true } }
    s1.ledgerAdd 1 1

/-- The default block of a capsule: its RESERVED_SLOTS are zero on every wing (R453). -/
def tenantBlock (c : Capsule) : Budget := { c.defaultBudget with reserved := [0, 0, 0, 0] }

/-- Budgets of a start-up that clears the gallery tables: the default block of the capsule for every tenant gallery, its RESERVED_SLOTS zero on every wing (R453). -/
def State.defaultBudgets (s : State) : State :=
  if s.kpr.journalResumed then s
  else (List.range s.kpr.caps.galleries).foldl (fun t g => t.updGal g fun x => { x with
    budget := tenantBlock s.cfg, wingBudget := List.replicate 4 (tenantBlock s.cfg) }) s

/-- Gallery 0 opens as READY rises, with the policy and budget of the capsule and a key of the random source (R138, R142). Its bucket starts at BURST (DESIGN CHOICE, log entry 112). -/
def State.openGallery0 (s : State) : State :=
  let b := s.cfg.g0Budget
  (s.updGal 0 fun x => { x with
    state := 1, policy := s.cfg.g0Policy, gen := 0, budget := b, wingBudget := List.replicate 4 b
    level := (b.burst : Int) * 1000000 }).drawGalleryKey

/-- READY rises (R83 phase 0x07, R85): gallery 0 opens, time-driven starts are armed, vector 15 is requested. -/
def State.rise (s : State) : State :=
  let s1 := s.defaultBudgets.openGallery0
  let s2 := { s1 with
    kpr := { s1.kpr with ready := true, readyUs := s1.nowUs, phase := 7 }
    ledger := { s1.ledger with nextPeriodic := s1.now + 60000000000 }
    logs := { s1.logs with dbkWings := BitVec.ofNat 4 s1.kpr.caps.wingMask, dbkSelect := false }
    cnt := { s1.cnt with since := (List.range 9).map fun g => (g, s1.kpr.ktime) } }
  (s2.ledgerMax 25 s2.kpr.fwVersion.toNat).keeperCause 0

/-- Completion deadlines of own requests that passed while the part was in reset: they end the requests at the first boundary (R171). -/
def State.passedDeadlines (s : State) : State :=
  s.mapReqs fun r =>
    if !r.adopted && r.state != .deaccessioned && (r.completion.any fun d => passed s.nowUs d) then
      { r with pendingReason := firstReason r.pendingReason 5, pendingAt := s.kpr.ktime }
    else r

/-- Phase 0x08 (R83, R88, R351): a part that names a partner joins; under a resumed journal the takeover goes on. -/
def State.phase8 (s : State) : State :=
  if s.partner?.isNone then s
  else if s.kpr.journalResumed then
    let accs := s.liveReqs.map (·.acc)
    accs.foldl State.armWheel (s.passedDeadlines.atPhase 8 |>.setPair .takeover)
  else (s.atPhase 8).startJoin none

/-- BOOT_CATALOGUE (R83): phase 0x06 completes, READY rises, and the pair join follows. -/
def execBootCatalogue (s : State) : Host.Outcome State Fault Refusal :=
  if s.boots 6 then .next s.restoreLedger.loadCatalogue.rise.phase8 else .next s

/-! ## Recovery mode (R86, R350) -/

/-- Code of the item that is missing: 1 image, 2 capsule. -/
def State.missingItem (s : State) : Nat := if s.kpr.phase = 3 then 1 else 2

/-- What an assembled item verified as is of a kind. -/
def recoveredKind : RecoveredItem → Nat → Bool
  | .image _, k => decide (k = 1)
  | .capsule c, k => decide (k = 2) && capsuleAccepted c

/-- The region an item is programmed to (R82). -/
def itemRegion : RecoveredItem → ArcRegion
  | .image _ => .image
  | .capsule _ => .capsule

/-- The archive with an item programmed and read back (R86). -/
def putItem (f : Flash) : RecoveredItem → Flash
  | .image i => { f with image := .holds i }
  | .capsule c => putCapsule f c

/-- The recovered item is to be programmed. -/
def State.programItem (s : State) (r : RecoveredItem) : State :=
  { s with pair := { s.pair with recDone := some r }, maint := { s.maint with recoverProgram := true } }.emit (.archive (itemRegion r))

/-- One chunk posted by the host: its item, number, length and total, in this order; a chunk out of order is named so before its length is added up (R86). -/
def State.recoveryChunk (s : State) (ws : List Nat) (verdict : Option RecoveredItem) : State :=
  let len := nth ws 2 0
  let total := nth ws 3 0
  let got := s.pair.recBytes + len
  if nth ws 0 0 ≠ s.missingItem ∨ len = 0 ∨ 65536 < len then s.ackMessage 31 0x8014
  else if nth ws 1 0 ≠ s.pair.recChunks then s.ackMessage 31 0x0001
  else if total < got ∨ (s.pair.recChunks ≠ 0 ∧ total ≠ s.pair.recTotal) then s.ackMessage 31 0x8014
  else if got < total then
    ({ s with pair := { s.pair with recItem := s.missingItem, recChunks := s.pair.recChunks + 1, recBytes := got, recTotal := total } }).ackMessage 31 0
  else match verdict.filter fun r => recoveredKind r s.missingItem with
    | some r => s.programItem r
    | none => ({ s with pair := { s.pair with recChunks := 0, recBytes := 0, recTotal := 0 } }).ackMessage 31 0x0002

/-- RECOVERY_CHUNK (R86): a message on channel 31 in recovery mode; `verdict` is what the complete item verifies as. The acknowledgement of a verified item follows its programming. -/
def execRecoveryChunk (verdict : Option RecoveredItem) (s : State) : Host.Outcome State Fault Refusal :=
  if s.kpr.recovery && !s.resetLow && s.active .control && !s.maint.recoverProgram then
    match s.mail 31 [(0x40, 4, 0)] with
    | .empty => .next s
    | .refuse code => .next (s.ackMessage 31 code)
    | .message _ ws => .next (s.recoveryChunk ws verdict)
  else .next s

/-- RECOVERY_PROGRAMMED (R86): the item is programmed, header last, and read back; the host's last chunk is acknowledged, and the internal block reset of CAUSE 0x4 follows. -/
def execRecoveryProgrammed (s : State) : Host.Outcome State Fault Refusal :=
  match s.pair.recDone with
  | none => .next s
  | some r =>
    if s.maint.recoverProgram then
      let s1 := s.ackMessage 31 0x0003
      .next ({ s1 with maint := { s1.maint with recoverProgram := false, flash := putItem s1.maint.flash r } }.internalReset 4)
    else .next s

/-- IMAGE_REQUEST_RETRY (R350): the request is sent again every 100 ms until image data arrives. -/
def execImageRequestRetry (s : State) : Host.Outcome State Fault Refusal :=
  if s.wantsImage && s.power.linkUp && !s.resetLow && decide (s.pair.imgChunks = 0) && decide (s.pair.recAskedAt.toNat + 10000000 ≤ s.now) then
    .next s.askImage
  else .next s

/-- A chunk of the partner's image, in order: assembled, and the image verified once it is whole. -/
def State.imageChunk (s : State) (len total : Nat) (verdict : Option ImageInfo) : State :=
  let s1 := { s with pair := { s.pair with imgChunks := s.pair.imgChunks + 1, imgBytes := s.pair.imgBytes + len } }
  if s1.pair.imgBytes < total then s1
  else match verdict with
    | some i => s1.programItem (.image i)
    | none => s1.askImage

/-- A frame of the recovery session applied: ACKED taken in, frames it covers dropped (R347, R350). -/
def State.applyRecovery (s : State) (hdr : FrameHdr) : State :=
  let r := s.pair.recov
  let on := decide (r.acked < hdr.acked) && decide (hdr.acked < r.fseqNext)
  { s with pair := { s.pair with recov := { r with
    applied := hdr.fseq, acked := if on then hdr.acked else r.acked, ackMovedAt := if on then s.kpr.ktime else r.ackMovedAt
    kept := if on then r.kept.filter fun k => decide (hdr.acked < k.fseq) else r.kept } } }

/-- The answer to a request: the own image in chunks of 65,536 bytes, in order from 0 (R350). -/
def State.sendImage (s : State) (i : ImageInfo) : State :=
  let bs := Config.imageBytes i
  ((piecesOf 65536 (ceilDiv bs.length 65536) bs).zipIdx).foldl
    (fun t c => t.sendRecovery (.chunk c.2 bs.length c.1 none)) s

/-- IMAGE (R350): a request, which opens a session, answered with the own image; a chunk assembled by the ROM; an acknowledgement. -/
def execGrvImage (hdr : FrameHdr) (frame : ImageFrame) (s : State) : Host.Outcome State Fault Refusal :=
  let next := decide (hdr.fseq = s.pair.recov.applied + 1)
  if s.resetLow || s.kpr.halted || !s.intact hdr (.image frame) || !s.power.linkUp then .next s
  else match frame with
    | .request =>
      match s.kpr.image with
      | some i =>
        if s.partner?.isSome && decide (hdr.fseq = 1) then
          .next (({ s with pair := { s.pair with recov := {} } }.applyRecovery hdr).sendImage i)
        else .next s
      | none => .next s
    | .chunk number total data verdict =>
      if s.wantsImage && next && decide (number = s.pair.imgChunks) && decide (data.length ≤ 65536) then
        .next ((s.applyRecovery hdr).imageChunk data.length total verdict)
      else .next s
    | .ack => .next (if next then s.applyRecovery hdr else s)

/-- GRV_LINK_UP (R86): the adapter's input changes; a ROM that lacks its image asks as soon as the link is up. -/
def execGrvLinkUp (up : Bool) (s : State) : Host.Outcome State Fault Refusal :=
  let s1 := { s with power := { s.power with linkUp := up } }
  .next (if up && !s.power.linkUp && s.wantsImage && !s.resetLow then s1.askImage else s1)

/-! ## Firmware activation (R370, R420) -/

/-- The activation entered in the Ledger. -/
def State.countActivation (s : State) (i : ImageInfo) : State :=
  let k := s.ledgerAt 19 % 16
  let s1 := { s with ledger := { s.ledger with
    activations := SMap.put s.ledger.activations k (i.version, s.ledgerAt 0, s.kpr.blockEpoch, decide (i.version.toNat < s.fwHighest)) } }
  s1.ledgerAdd 19 1

/-- FIRMWARE_ACTIVATION_DONE (R370): the image is programmed and the member resets; a yielded member's steps are done by then. -/
def execFirmwareActivationDone (s : State) : Host.Outcome State Fault Refusal :=
  match s.maint.fwImage with
  | none => .next s
  | some i =>
    if s.maint.fwProgram && !s.dead && (s.pair.state != .yielded || s.yieldDone) then
      let s1 := s.countActivation i
      .next ({ s1 with maint := { s1.maint with fwProgram := false, flash := { s1.maint.flash with image := .holds i } } }.internalReset 2)
    else .next s

end Sys2Proof.Machine
end

