-- ==== Sys2Proof/Machine/Sleep.lean ====
section
/-! DEFINITION. Power-down (04 R78; 02 R31, R32; 09 R201; 18 R416): DOMAIN_POWER_DOWN. -/

namespace Sys2Proof.Machine

open Sys2Proof.Bytes

/-! ## Work of a domain (R78) -/

/-- A held access waits for the domain (R34). -/
def State.heldFor (s : State) (d : Dom) : Bool := s.power.heldAccesses.any fun h => (s.homes h.addr).contains d

/-- Scrub wake keeps the domain on until its lap is scrubbed (R387). -/
def State.scrubFor (s : State) (d : Dom) : Bool := s.integ.scrubWake.contains (1 + domBit d)

/-- A timer whose lead begins within 800 ticks, or has begun (R75, R78). -/
def State.timerNear (s : State) (lead : Nat → Nat) (t : Option W64) : Bool :=
  match t with
  | none => false
  | some v => decide (v.toNat ≤ s.now + lead v.toNat + 800)

/-- Wing w gives the Curator work: a composition or replay not yet issued, a compose point reached, or an idle wing with work. -/
def State.curatorWing (s : State) (w : Nat) : Bool :=
  let x := s.wingAt w
  let reached := match x.composeAt with
    | none => false
    | some t => x.running.isSome && decide (t.toNat ≤ s.now)
  x.composed.isSome || x.replayOf.isSome || reached
    || (s.mayCompose w && x.running.isNone && (x.fixedEntry.isSome || !(s.readyWork w).isEmpty))
    || s.timerNear (fun v => s.wakeLead v 210 320 3700) x.composeWake

/-- Intake of wing w is under way: windows of its running step have opened and not all are closed, or, in a throttling period, the step runs (R201); or ended steps hold row areas. -/
def State.intakeWing (s : State) (w : Nat) : Bool :=
  let x := s.wingAt w
  let on := match x.running with
    | none => false
    | some t => (t.intakeBegun && decide (t.closedWindows.length < t.shape.windows.length)) || s.throttled || !t.bursts.isEmpty
  on || x.tails.any (fun t => !t.bursts.isEmpty) || s.timerNear (fun v => s.wakeLead v 600 600 4000) x.preWake

/-- Units of any wing stand between the intake and the commit stage. -/
def State.unitsWait (s : State) : Bool :=
  !s.path.mergeQueue.isEmpty || !s.path.trees.isEmpty || !s.path.dispatch.isEmpty || !s.path.lanes.isEmpty

/-- Sampled outcomes of a step wait for their row's commit (R266, R269). -/
def Step.sampledWaits (t : Step) : Bool := t.units.any fun u => !t.committed.contains (u.1 / 16)

/-- Sampled outcomes of any wing wait in the commit stage. -/
def State.outcomesWait (s : State) : Bool :=
  s.servedWings.any fun w => (((s.wingAt w).running.map (·.sampledWaits)).getD false) || (s.wingAt w).tails.any (·.sampledWaits)

/-- A record not held that is still to be sealed or released. -/
def State.recordsWait (s : State) : Bool := s.path.records.any fun o => !o.held

/-- Command ring i holds a complete packet. -/
def State.packetWaits (s : State) (i : Nat) : Bool :=
  let p := s.pairAt i
  let h := s.headerAt i
  let occ := occupancy p.cmdPi p.cmdCi
  !p.stopped && decide (1 ≤ occ) && (!h.lengthOk || decide (h.length ≤ occ))

/-- A message for Control waits. -/
def State.mailWaits (s : State) : Bool :=
  (List.range 32).any fun n =>
    let c := s.chanAt n
    c.full && (decide (c.receiver.toNat = 0x40) || decide (c.receiver.toNat = 0x41))

/-- A timer that wakes Control comes within 800 ticks: a deadline of the wheel (R72), or the next periodic checkpoint (R421). -/
def State.controlTimer (s : State) : Bool :=
  (s.reg.wheel.any fun e => !e.2.far && (passed s.nowUs e.2.deadline || decide (ahead s.nowUs e.2.deadline ≤ 8))) || decide (s.ledger.nextPeriodic ≤ s.now + 800)

/-- Work of the Control domain; a chain taken in part waits in its ring pair's buffers (R99). -/
def State.controlWork (s : State) : Bool :=
  !s.kpr.ready || s.controlTimer || ((List.range 8).any fun i => (s.pairAt i).chain.isSome) || (List.range 8).any s.packetWaits || !s.rings.replies.isEmpty || !s.maint.running.isEmpty || s.ledger.running.isSome
    || s.maint.arcJob.isSome || s.maint.capNext.isSome || s.maint.recoverProgram || s.mailWaits || s.pair.journalAsked.isSome || s.cnt.traced

/-- A domain has work, or a timer is to wake it within 800 ticks. -/
def State.hasWork (s : State) (d : Dom) : Bool :=
  s.heldFor d || s.scrubFor d || (match d with
    | .registrar => !s.othersOff
    | .curator => !s.path.kyb.isEmpty || s.servedWings.any s.curatorWing
    | .intake => !s.path.mergeQueue.isEmpty || !s.path.trees.isEmpty || s.servedWings.any s.intakeWing
    | .docent => s.unitsWait || s.outcomesWait || !s.path.jobs.isEmpty || !s.path.results.isEmpty || s.recordsWait
        || !(s.path.smp ++ s.path.smpWait).isEmpty || s.servedWings.any s.intakeWing
    | .control => s.controlWork)

/-- DOMAIN_POWER_DOWN (R78): a domain without work lowers its request; the Registrar does once every other domain is off. -/
def execDomainPowerDown (dom : Dom) (s : State) : Host.Outcome State Fault Refusal :=
  let x := s.power.dom dom
  if x.req && x.active && !s.hasWork dom && !s.dead then
    .next (s.updDom dom fun y => { y with req := false, active := false })
  else .next s

end Sys2Proof.Machine
end

