-- ==== Sys2Proof/Machine/Wrapper.lean ====
section
/-! DEFINITION. The test wrapper (21 R444, R445): WS_BYPASS, WS_EXTEST, WS_INTEST_SCAN, WS_MBIST, WS_STATUS. -/

namespace Sys2Proof.Machine

open Sys2Proof.Bytes

/-! ## Instructions of the wrapper, by number: 0 bypass, 1 EXTEST, 2 INTEST_SCAN, 3 MBIST, 4 STATUS -/

/-- The state in which an instruction is permitted (wrapper instructions table). -/
def State.wrapperPermits (s : State) (code : Nat) : Bool :=
  match code with
  | 1 => s.kpr.porLow || s.kpr.blkLow
  | 2 => s.kpr.halted || s.kpr.porLow
  | 3 => s.kpr.porLow
  | _ => true

/-- The instruction in force disturbs state that firmware trusts. -/
def State.wrapperDisturbs (s : State) : Bool := decide (1 ≤ s.kpr.wrapper) && decide (s.kpr.wrapper ≤ 3)

/-- The instruction in force is left (R445): an internal block reset of CAUSE 0x2. While a reset pin is low that pin's reset is in force already (R67), and boot follows its release. -/
def State.leaveWrapper (s : State) : State :=
  let s1 := { s with kpr := { s.kpr with wrapper := 0 } }
  if s.wrapperDisturbs && !s.resetLow then s1.internalReset 2 else s1

/-- An instruction issued: where it is not permitted it behaves as WS_BYPASS (R444); another instruction in force is left. -/
def State.wrapperTo (s : State) (code : Nat) : State :=
  let k := if s.wrapperPermits code then code else 0
  if s.kpr.wrapper = k then s.emit (.wrapper k)
  else
    let s1 := s.leaveWrapper
    { s1 with kpr := { s1.kpr with wrapper := k } }.emit (.wrapper k)

/-- The instruction left if it is the one in force. -/
def State.wrapperOff (s : State) (code : Nat) : State :=
  if s.kpr.wrapper = code then s.leaveWrapper.emit (.wrapper 0) else s

/-- What WS_STATUS reads: HALTED, SMEARED and STOP of KPR_HALT_STATUS in bits 31 to 0, PHASE and HALT_CODE of KPR_BOOT_STATUS above. -/
def State.wrapperStatus (s : State) : Nat :=
  b2n s.kpr.halted * 2 ^ 31 + b2n s.kpr.smeared * 2 ^ 30 + s.kpr.stop.toNat
    + s.kpr.haltCode.toNat * 2 ^ 48 + s.kpr.phase.toNat * 2 ^ 56

/-- WS_BYPASS (R444). -/
def execWsBypass (s : State) : Host.Outcome State Fault Refusal := .next (s.wrapperTo 0)

/-- WS_EXTEST (R444, R445). -/
def execWsExtest (leave : Bool) (s : State) : Host.Outcome State Fault Refusal :=
  .next (if leave then s.wrapperOff 1 else s.wrapperTo 1)

/-- WS_INTEST_SCAN (R444, R445). -/
def execWsIntestScan (leave : Bool) (s : State) : Host.Outcome State Fault Refusal :=
  .next (if leave then s.wrapperOff 2 else s.wrapperTo 2)

/-- WS_MBIST (R444, R445). -/
def execWsMbist (leave : Bool) (s : State) : Host.Outcome State Fault Refusal :=
  .next (if leave then s.wrapperOff 3 else s.wrapperTo 3)

/-- WS_STATUS (R444): the status word behind the instruction. -/
def execWsStatus (s : State) : Host.Outcome State Fault Refusal :=
  .next ((s.wrapperTo 4).emit (.wrapper s.wrapperStatus))

end Sys2Proof.Machine
end

