-- ==== Sys2Proof/Machine/Dispatch.lean ====
section
/-! DEFINITION. The dispatch: one arm per command, each one call of its meaning. -/

namespace Sys2Proof.Machine

/-- The effect of a command on everything but the queue of waiting commands. -/
def exec (i : Instr) (s : State) : Host.Outcome State Fault Refusal :=
  match i with
  | .nop ring => Sys2Proof.Machine.execNop ring s
  | .identityStatus ring => Sys2Proof.Machine.execIdentityStatus ring s
  | .getCertificate ring => Sys2Proof.Machine.execGetCertificate ring s
  | .getProvenance ring => Sys2Proof.Machine.execGetProvenance ring s
  | .galleryOpen ring => Sys2Proof.Machine.execGalleryOpen ring s
  | .galleryClose ring => Sys2Proof.Machine.execGalleryClose ring s
  | .galleryBudget ring => Sys2Proof.Machine.execGalleryBudget ring s
  | .galleryRekey ring => Sys2Proof.Machine.execGalleryRekey ring s
  | .aidBegin ring => Sys2Proof.Machine.execAidBegin ring s
  | .aidStates ring => Sys2Proof.Machine.execAidStates ring s
  | .aidMasks ring => Sys2Proof.Machine.execAidMasks ring s
  | .aidTransitions ring => Sys2Proof.Machine.execAidTransitions ring s
  | .aidFinal ring => Sys2Proof.Machine.execAidFinal ring s
  | .aidFree ring => Sys2Proof.Machine.execAidFree ring s
  | .galleryReport ring => Sys2Proof.Machine.execGalleryReport ring s
  | .galleryInfo ring => Sys2Proof.Machine.execGalleryInfo ring s
  | .submit ring => Sys2Proof.Machine.execSubmit ring s
  | .cancel ring => Sys2Proof.Machine.execCancel ring s
  | .amend ring => Sys2Proof.Machine.execAmend ring s
  | .query ring => Sys2Proof.Machine.execQuery ring s
  | .draft ring => Sys2Proof.Machine.execDraft ring s
  | .catStage ring => Sys2Proof.Machine.execCatStage ring s
  | .catCommit ring => Sys2Proof.Machine.execCatCommit ring s
  | .catArchive ring => Sys2Proof.Machine.execCatArchive ring s
  | .wingPolicy ring => Sys2Proof.Machine.execWingPolicy ring s
  | .powerCap ring => Sys2Proof.Machine.execPowerCap ring s
  | .shapeStateRead ring => Sys2Proof.Machine.execShapeStateRead ring s
  | .shapeStateRelease ring => Sys2Proof.Machine.execShapeStateRelease ring s
  | .shapeStateDisable ring => Sys2Proof.Machine.execShapeStateDisable ring s
  | .pairJoin ring => Sys2Proof.Machine.execPairJoin ring s
  | .pairYield ring => Sys2Proof.Machine.execPairYield ring s
  | .pairStatus ring => Sys2Proof.Machine.execPairStatus ring s
  | .pairResync ring => Sys2Proof.Machine.execPairResync ring s
  | .pairLeave ring => Sys2Proof.Machine.execPairLeave ring s
  | .maintStatus ring => Sys2Proof.Machine.execMaintStatus ring s
  | .scrubWake ring => Sys2Proof.Machine.execScrubWake ring s
  | .ledgerCheckpoint ring => Sys2Proof.Machine.execLedgerCheckpoint ring s
  | .fwStage ring => Sys2Proof.Machine.execFwStage ring s
  | .fwActivate ring verdict => Sys2Proof.Machine.execFwActivate ring verdict s
  | .retireRow ring => Sys2Proof.Machine.execRetireRow ring s
  | .ledgerRead ring => Sys2Proof.Machine.execLedgerRead ring s
  | .snapshot ring => Sys2Proof.Machine.execSnapshot ring s
  | .counterReset ring => Sys2Proof.Machine.execCounterReset ring s
  | .daybookCtrl ring => Sys2Proof.Machine.execDaybookCtrl ring s
  | .freeze ring => Sys2Proof.Machine.execFreeze ring s
  | .thaw ring => Sys2Proof.Machine.execThaw ring s
  | .serviceChallenge ring => Sys2Proof.Machine.execServiceChallenge ring s
  | .serviceUnlock ring => Sys2Proof.Machine.execServiceUnlock ring s
  | .serviceLock ring => Sys2Proof.Machine.execServiceLock ring s
  | .capsuleWrite ring verdict => Sys2Proof.Machine.execCapsuleWrite ring verdict s
  | .doorbell mid ring value => Sys2Proof.Machine.execDoorbell mid ring value s
  | .dblRplCi mid ring value => Sys2Proof.Machine.execDblRplCi mid ring value s
  | .ringPairReset mid ring value => Sys2Proof.Machine.execRingPairReset mid ring value s
  | .ringPairResetComplete ring => Sys2Proof.Machine.execRingPairResetComplete ring s
  | .dblResCi mid ring value => Sys2Proof.Machine.execDblResCi mid ring value s
  | .ringReset mid ring value => Sys2Proof.Machine.execRingReset mid ring value s
  | .ringResetComplete ring => Sys2Proof.Machine.execRingResetComplete ring s
  | .cnsCi mid value => Sys2Proof.Machine.execCnsCi mid value s
  | .dbkCi mid value => Sys2Proof.Machine.execDbkCi mid value s
  | .readClear mid addr => Sys2Proof.Machine.execReadClear mid addr s
  | .domainSoftReset mid value => Sys2Proof.Machine.execDomainSoftReset mid value s
  | .hardHalt mid value => Sys2Proof.Machine.execHardHalt mid value s
  | .irqMaskWrite mid value => Sys2Proof.Machine.execIrqMaskWrite mid value s
  | .irqAck => Sys2Proof.Machine.execIrqAck s
  | .post port mid chan value => Sys2Proof.Machine.execPost port mid chan value s
  | .mbxAck port mid chan value => Sys2Proof.Machine.execMbxAck port mid chan value s
  | .mbxEpoch port mid index value => Sys2Proof.Machine.execMbxEpoch port mid index value s
  | .lockAcquire port mid lock => Sys2Proof.Machine.execLockAcquire port mid lock s
  | .lockRelease port mid lock value => Sys2Proof.Machine.execLockRelease port mid lock value s
  | .lowWordRead mid addr => Sys2Proof.Machine.execLowWordRead mid addr s
  | .highWordRead mid addr => Sys2Proof.Machine.execHighWordRead mid addr s
  | .registerWrite port mid addr data => Sys2Proof.Machine.execRegisterWrite port mid addr data s
  | .telemetry => Sys2Proof.Machine.execTelemetry s
  | .recoveryChunk verdict => Sys2Proof.Machine.execRecoveryChunk verdict s
  | .fenceConfirmed => Sys2Proof.Machine.execFenceConfirmed s
  | .fenceDenied => Sys2Proof.Machine.execFenceDenied s
  | .powerOnReset => Sys2Proof.Machine.execPowerOnReset s
  | .blockReset => Sys2Proof.Machine.execBlockReset s
  | .fenceReset => Sys2Proof.Machine.execFenceReset s
  | .resetRelease pin => Sys2Proof.Machine.execResetRelease pin s
  | .pufCheck scan => Sys2Proof.Machine.execPufCheck scan s
  | .bootImage verdict => Sys2Proof.Machine.execBootImage verdict s
  | .bootCapsule scan => Sys2Proof.Machine.execBootCapsule scan s
  | .eccRegions scan => Sys2Proof.Machine.execEccRegions scan s
  | .bootCatalogue => Sys2Proof.Machine.execBootCatalogue s
  | .journalTimeout => Sys2Proof.Machine.execJournalTimeout s
  | .recoveryProgrammed => Sys2Proof.Machine.execRecoveryProgrammed s
  | .imageRequestRetry => Sys2Proof.Machine.execImageRequestRetry s
  | .grvLinkUp up => Sys2Proof.Machine.execGrvLinkUp up s
  | .fclkAckRise => Sys2Proof.Machine.execFclkAckRise s
  | .fclkAckFall => Sys2Proof.Machine.execFclkAckFall s
  | .pswAckRise dom => Sys2Proof.Machine.execPswAckRise dom s
  | .pswAckFall dom => Sys2Proof.Machine.execPswAckFall dom s
  | .domainPowerDown dom => Sys2Proof.Machine.execDomainPowerDown dom s
  | .preWake wing => Sys2Proof.Machine.execPreWake wing s
  | .composeWake wing => Sys2Proof.Machine.execComposeWake wing s
  | .composePoint wing => Sys2Proof.Machine.execComposePoint wing s
  | .idleCompose wing => Sys2Proof.Machine.execIdleCompose wing s
  | .descriptor wing => Sys2Proof.Machine.execDescriptor wing s
  | .replay wing => Sys2Proof.Machine.execReplay wing s
  | .stepStart wing tag => Sys2Proof.Machine.execStepStart wing tag s
  | .stepEnd wing tag => Sys2Proof.Machine.execStepEnd wing tag s
  | .feedTaken wing tag info => Sys2Proof.Machine.execFeedTaken wing tag info s
  | .energy wing tag info => Sys2Proof.Machine.execEnergy wing tag info s
  | .errorUe wing tag info => Sys2Proof.Machine.execErrorUe wing tag info s
  | .eventReserved wing word => Sys2Proof.Machine.execEventReserved wing word s
  | .hung wing => Sys2Proof.Machine.execHung wing s
  | .windowOpen wing window => Sys2Proof.Machine.execWindowOpen wing window s
  | .windowClose wing window => Sys2Proof.Machine.execWindowClose wing window s
  | .candidateBurst wing addr ben hdr data => Sys2Proof.Machine.execCandidateBurst wing addr ben hdr data s
  | .shardHeader wing pos marked data => Sys2Proof.Machine.execShardHeader wing pos marked data s
  | .treeTake tree => Sys2Proof.Machine.execTreeTake tree s
  | .rowAreaFree wing row => Sys2Proof.Machine.execRowAreaFree wing row s
  | .mergeResult tree => Sys2Proof.Machine.execMergeResult tree s
  | .laneDispatch lane => Sys2Proof.Machine.execLaneDispatch lane s
  | .unitSampled lane => Sys2Proof.Machine.execUnitSampled lane s
  | .rowCommit wing row => Sys2Proof.Machine.execRowCommit wing row s
  | .smpResponse tag status data => Sys2Proof.Machine.execSmpResponse tag status data s
  | .kybAck wing target status => Sys2Proof.Machine.execKybAck wing target status s
  | .recordSeal acc => Sys2Proof.Machine.execRecordSeal acc s
  | .recordRelease acc => Sys2Proof.Machine.execRecordRelease acc s
  | .releaseTick wing => Sys2Proof.Machine.execReleaseTick wing s
  | .resultGroup acc => Sys2Proof.Machine.execResultGroup acc s
  | .feedStream wing => Sys2Proof.Machine.execFeedStream wing s
  | .tailOverrun wing => Sys2Proof.Machine.execTailOverrun wing s
  | .deadlineFired slot => Sys2Proof.Machine.execDeadlineFired slot s
  | .farListScan => Sys2Proof.Machine.execFarListScan s
  | .throttleEnd => Sys2Proof.Machine.execThrottleEnd s
  | .heartbeatTx => Sys2Proof.Machine.execHeartbeatTx s
  | .grvHeartbeat frame => Sys2Proof.Machine.execGrvHeartbeat frame s
  | .grvEcho frame => Sys2Proof.Machine.execGrvEcho frame s
  | .grvFailure frame => Sys2Proof.Machine.execGrvFailure frame s
  | .grvYield frame => Sys2Proof.Machine.execGrvYield frame s
  | .heartbeatTimeout => Sys2Proof.Machine.execHeartbeatTimeout s
  | .fenceTimeout => Sys2Proof.Machine.execFenceTimeout s
  | .grvHello hdr hello => Sys2Proof.Machine.execGrvHello hdr hello s
  | .helloTimeout => Sys2Proof.Machine.execHelloTimeout s
  | .grvTime hdr sent echoSent echoArrived => Sys2Proof.Machine.execGrvTime hdr sent echoSent echoArrived s
  | .grvRec hdr record => Sys2Proof.Machine.execGrvRec hdr record s
  | .grvAck hdr => Sys2Proof.Machine.execGrvAck hdr s
  | .grvGallery hdr gallery act => Sys2Proof.Machine.execGrvGallery hdr gallery act s
  | .grvCatalogue hdr act => Sys2Proof.Machine.execGrvCatalogue hdr act s
  | .grvCounter hdr gallery counter => Sys2Proof.Machine.execGrvCounter hdr gallery counter s
  | .grvBulk hdr record => Sys2Proof.Machine.execGrvBulk hdr record s
  | .grvHandback hdr record => Sys2Proof.Machine.execGrvHandback hdr record s
  | .grvLeave hdr => Sys2Proof.Machine.execGrvLeave hdr s
  | .grvImage hdr frame => Sys2Proof.Machine.execGrvImage hdr frame s
  | .ackTimer => Sys2Proof.Machine.execAckTimer s
  | .resend => Sys2Proof.Machine.execResend s
  | .adoption => Sys2Proof.Machine.execAdoption s
  | .mirrorLate acc seq => Sys2Proof.Machine.execMirrorLate acc seq s
  | .galleryCloseComplete gallery => Sys2Proof.Machine.execGalleryCloseComplete gallery s
  | .freezeComplete => Sys2Proof.Machine.execFreezeComplete s
  | .scrubCodeword region row codeword word => Sys2Proof.Machine.execScrubCodeword region row codeword word s
  | .lapLate dom => Sys2Proof.Machine.execLapLate dom s
  | .scrubWakeDone dom => Sys2Proof.Machine.execScrubWakeDone dom s
  | .periodicCheckpoint => Sys2Proof.Machine.execPeriodicCheckpoint s
  | .checkpointComplete => Sys2Proof.Machine.execCheckpointComplete s
  | .rowRetired => Sys2Proof.Machine.execRowRetired s
  | .catArchiveDone => Sys2Proof.Machine.execCatArchiveDone s
  | .capsuleProgrammed => Sys2Proof.Machine.execCapsuleProgrammed s
  | .firmwareActivationDone => Sys2Proof.Machine.execFirmwareActivationDone s
  | .snapshotTick => Sys2Proof.Machine.execSnapshotTick s
  | .snapshotTaken => Sys2Proof.Machine.execSnapshotTaken s
  | .challengeExpiry => Sys2Proof.Machine.execChallengeExpiry s
  | .lockstep pairB => Sys2Proof.Machine.execLockstep pairB s
  | .composeOverrun wing => Sys2Proof.Machine.execComposeOverrun wing s
  | .treeOverrun tree => Sys2Proof.Machine.execTreeOverrun tree s
  | .laneOverrun lane => Sys2Proof.Machine.execLaneOverrun lane s
  | .wsBypass => Sys2Proof.Machine.execWsBypass s
  | .wsExtest leave => Sys2Proof.Machine.execWsExtest leave s
  | .wsIntestScan leave => Sys2Proof.Machine.execWsIntestScan leave s
  | .wsMbist leave => Sys2Proof.Machine.execWsMbist leave s
  | .wsStatus => Sys2Proof.Machine.execWsStatus s
  | .badOpcode ring => Sys2Proof.Machine.execBadOpcode ring s
  | .accessRefused port mid write addr data => Sys2Proof.Machine.execAccessRefused port mid write addr data s
  | .hifAccessWake mid write addr data => Sys2Proof.Machine.execHifAccessWake mid write addr data s
  | .copyCleared wing page => Sys2Proof.Machine.execCopyCleared wing page s

end Sys2Proof.Machine
end

