-- ==== Sys2Proof/Machine/Tick.lean ====
section
/-! DEFINITION. One keeper tick: what passes with time alone (log entry 3; 01 R9; 04 R69, R73, R81, R83; 06 R127; 07 R146; 18 R399, R402, R417; 19 R418). -/

namespace Sys2Proof.Machine

open Sys2Proof.Bytes

/-! ## The end of a tick -/

/-- Tick counts: AWAKE of each active domain, RETENTION_TICKS, THROTTLED_TICKS (R399). -/
def State.countTick (s : State) : State :=
  let s1 := (allDoms.filter s.active).foldl (fun t d => t.count 0 (1 + domBit d) 1) s
  let s2 := if s.power.retEn then s1.count 0 14 1 else s1
  if s.throttled then s2.count 7 4 1 else s2

/-- Trace words that TRC takes in one tick: one every eight FCLK cycles, 36 cycles to a tick. -/
def traceRate (now : Nat) : Nat := if now % 2 = 0 then 4 else 5

/-- TRC drains the trace buffer while Control runs (R416, R417). -/
def State.drainTrace (s : State) : State :=
  if s.active .control && !s.dead && !s.cnt.trcBuffer.isEmpty then
    let n := traceRate s.now
    let s1 := { s with cnt := { s.cnt with trcBuffer := s.cnt.trcBuffer.drop n } }
    (s.cnt.trcBuffer.take n).foldl (fun t w => t.emit (.trace w)) s1
  else s

/-- What is done behind the commands of a tick: counts, trace, Basam's own starts (R397), the counter bank (R402). -/
def State.endOfTick (s : State) : State :=
  let s1 := s.countTick.drainTrace
  (if s1.dead || !s1.kpr.ready then s1 else s1.ownStarts).bankTick

/-! ## A new tick -/

/-- KTIME of the next tick; POWER_ON_S counts the seconds (R69, R418). -/
def State.advanceTime (s : State) : State :=
  let s1 := { s with kpr := { s.kpr with ktime := s.kpr.ktime + 1 } }
  if s1.now % 100000000 = 0 then s1.ledgerAdd 0 1 else s1

/-- The token buckets of a new Basam microsecond (R146). -/
def State.refillAll (s : State) : State :=
  if s.now % 100 = 0 then
    { s with galleries := s.galleries.map fun (e : Nat × Gallery) => if e.2.state = 0 then e else (e.1, e.2.refill) }
  else s

/-- Clock, switches and activations (R66, R73, R78), and the Registrar's soft reset that waits (R81). -/
def State.powerTick (s : State) : State := s.clockTick.raiseWaiting.activate.waitingReset

/-- Boot phase 0x01 completes when Registrar and Control are active (R83). -/
def State.bootTick (s : State) : State :=
  if s.boots 1 && s.active .registrar && s.active .control then s.atPhase 2 else s

/-- Boundary effects on a wing without a step (R9, R21, R154, R188). Budget blocks are taken up there in the next tick too: without work such a wing may have no compose point, and admission needs the block in force (R110; DEDUCED, log entry 29). -/
def State.idleBoundary (s : State) (w : Nat) : State :=
  let x := s.wingAt w
  let s0 := if x.idle then
      (if x.composed.isNone then s.takeBudgets w else s).updWing w fun y => { y with policy := y.composePolicy, policyNext := none }
    else s
  let s1 := if x.idleFlip then (s0.updWing w fun y => { y with idleFlip := false }).flip w else s0
  (if x.idle then (s1.boundaryEnds w).boundaryFrees w else s1).settle w

/-- Messages of channels that give no type a meaning: refused by Control (R127), which a post wakes. Channel 1 and the recovery channel have rows of their own; the Keeper acts in the tick of the post (R124). -/
def State.refuseMail (s : State) : State :=
  (List.range 32).foldl (fun t n =>
    let r := (t.chanAt n).receiver.toNat
    let own := decide (n = 1) || (decide (n = 31) && t.kpr.recovery)
    let here := (decide (r = 0x40) || decide (r = 0x41)) && t.active .control && !t.dead
    if (t.chanAt n).full && here && !own then
      match t.mail n [] with
      | .refuse code => t.ackMessage n code
      | _ => t
    else t) s

/-- What a new tick brings while no reset pin is low and no halt stands. -/
def State.newTick (s : State) : State :=
  let s1 := s.fenceTick.refillAll.powerTick.bootTick.refuseMail
  let s2 := s1.servedWings.foldl State.closeDue s1
  (if s2.kpr.ready then (s2.servedWings.foldl State.idleBoundary s2).sweepAids.pairProgress else s2).completeHeld

/-- One keeper tick. While POR_N is low KTIME alone moves (R69); a halted part goes on with what the Keeper does (R415). -/
def State.tick (s : State) : State :=
  if s.kpr.porLow then { s with kpr := { s.kpr with ktime := s.kpr.ktime + 1 } }
  else
    let s1 := s.endOfTick.advanceTime.announceSnapshot
    if s1.resetLow then s1 else if s1.dead then s1.refuseMail.completeHeld else s1.newTick

end Sys2Proof.Machine
end

