-- ==== Sys2Proof/Safety.lean ====
section
/-! DEFINITION. What a safe outcome is, and the conditions under which a command packet is carried out: the words in which the statements about the model are put. -/

namespace Sys2Proof.Safety

open Sys2Proof.Machine Sys2Proof.Bytes

/-- The outcome is a next state. -/
def completes : Host.Outcome State Fault Refusal → Prop
  | .next _ => True
  | .fault _ => False
  | .refused _ => False

/-- The memory of a state is in its canonical form. -/
def memoryOk (s : State) : Prop := Memory.wf s.mem = true

/-- The packet at the front of a ring is the one served next, completes a clear command c of opcode op, and passes checks 3 to 6 (R91, R92, R100). u is the state with the packet taken and the apply sequence value given (R101). -/
def Clear (op : Nat) (l : Layout) (ring : Fin 8) (s : State) (c : Cmd) (u : State) : Prop :=
  (s.headerAt ring.val).op = op ∧ ∃ t, s.take ring.val = .whole c t ∧ t.checks c l = none ∧ u = (t.cryptoWake c.op c.gallery).applied

/-- The same for a sealed command up to check 8 (R105, R106): o is what it opens to. `accepts` tells the rows of AID_LOAD apart. -/
def Sealed (op : Nat) (l : Layout) (env : List Byte → Envelope) (accepts : List Byte → Bool) (ring : Fin 8) (s : State)
    (c : Cmd) (o : Opened) (u : State) : Prop :=
  (s.headerAt ring.val).op = op ∧ ∃ t pt, s.take ring.val = .whole c t ∧ t.checks c l = none
    ∧ t.opened c.gallery (env c.payload) = .ok pt
    ∧ accepts pt = true
    ∧ (t.galAt c.gallery).lastCtr.toNat < field (env c.payload).nonce 4 8
    ∧ o = { ctr := field (env c.payload).nonce 4 8, nonce := (env c.payload).nonce, target := (env c.payload).target, plain := pt }
    ∧ u = ((t.cryptoWake c.op c.gallery).acceptCtr c.gallery (field (env c.payload).nonce 4 8)).applied

/-- The state after a command's own part, with its reply written or kept until what it waits for is complete (R94, R101, R104). -/
def answered (c : Cmd) (u : State) (d : Done) : State := finish c (u.galAt c.gallery) u.rings.applySeq u.kpr.ktime d

/-- The same for a sealed command in a state s: a reply that is kept keeps the gallery's last ingress counter of before the command, for a soft reset of Control (R81). -/
def answeredSealed (s : State) (c : Cmd) (u : State) (d : Done) : State :=
  finish c { u.galAt c.gallery with lastCtr := (s.galAt c.gallery).lastCtr } u.rings.applySeq u.kpr.ktime d

/-- A gallery's change told to the partner where the pair acts together: the state with the GALLERY frame sent, and the FSEQ of that frame, which the reply waits to see acknowledged; else the state, and no fence (R340, R348, R349). -/
def partnerTold (s : State) (g : Nat) (a : GalleryAct) : State × Nat :=
  if s.pairActs then (s.sendFrame (.gallery g a), s.pair.fseqNext) else (s, 0)

/-- What a reply waits for behind a GALLERY frame: nothing where none was sent. -/
def fenceOnly (f : Nat) : Option Waits := if f = 0 then none else some { fence := f }

/-- The plaintext of an AID_LOAD segment of a row (R330). -/
def isSeg (seg : Nat) (pt : List Byte) : Bool :=
  decide (field pt 4 1 = seg) || (decide (seg = 1) && (decide (field pt 4 1 = 0) || decide (6 < field pt 4 1)))

/-- The clear commands of one opcode to one row: opcode, layout, row (R107 to R109). -/
def clearRows (ring : Fin 8) (image : Option ImageInfo) (capsule : Option Capsule) : List (Nat × Layout × Instr) :=
  [(0x00, noPayload, .nop ring), (0x01, noPayload, .identityStatus ring), (0x02, certificateLayout, .getCertificate ring),
   (0x03, { lenOk := fun pl => decide (pl.length = 48) }, .getProvenance ring),
   (0x10, openLayout, .galleryOpen ring), (0x11, noPayload, .galleryClose ring), (0x12, layout 32 [(18, 6)] fun _ _ => none, .galleryBudget ring),
   (0x16, noPayload, .galleryInfo ring), (0x21, layout 16 [(4, 12)] fun _ _ => none, .cancel ring),
   (0x23, layout 16 [(4, 12)] fun _ _ => none, .query ring), (0x30, stageLayout, .catStage ring), (0x31, commitLayout, .catCommit ring),
   (0x32, layout 16 [(1, 15)] fun _ _ => none, .catArchive ring), (0x33, policyLayout, .wingPolicy ring)]
  ++ [(0x34, layout 16 [(6, 10)] fun _ _ => none, .powerCap ring), (0x40, noPayload, .pairJoin ring), (0x41, noPayload, .pairYield ring),
   (0x42, noPayload, .pairStatus ring), (0x43, noPayload, .pairResync ring), (0x44, noPayload, .pairLeave ring), (0x50, noPayload, .maintStatus ring),
   (0x51, noPayload, .scrubWake ring), (0x52, noPayload, .ledgerCheckpoint ring), (0x53, fwStageLayout, .fwStage ring),
   (0x54, noPayload, .fwActivate ring image), (0x55, retireLayout, .retireRow ring), (0x56, ledgerReadLayout, .ledgerRead ring)]
  ++ [(0x60, layout 16 [(8, 8)] fun _ _ => none, .snapshot ring), (0x61, counterResetLayout, .counterReset ring), (0x62, daybookLayout, .daybookCtrl ring),
   (0x63, freezeLayout, .freeze ring), (0x64, noPayload, .thaw ring), (0x70, noPayload, .serviceChallenge ring),
   (0x71, layout 96 [] fun _ _ => none, .serviceUnlock ring), (0x72, noPayload, .serviceLock ring), (0x73, capsuleLayout, .capsuleWrite ring capsule)]

/-- The sealed commands of one opcode to one row: opcode, layout, row (R105, R107, R109). -/
def sealedRows (ring : Fin 8) : List (Nat × Layout × Instr) :=
  [(0x13, sealedLayout0, .galleryRekey ring), (0x15, sealedLayout0, .galleryReport ring), (0x20, submitLayout, .submit ring),
   (0x22, sealedLayout, .amend ring), (0x24, sealedLayout, .draft ring)]

/-- An access of n bytes through a port is carried out at once: no reset pin is low, its MID is the port's, its window answers, its size fits the window, its home domain is active and no earlier access of the same master waits (R34, R43, R44, R68). -/
def Reaches (s : State) (port : Port) (mid : Byte) (a n : Nat) : Prop :=
  s.resetLow = false ∧ midOk port mid = true ∧ s.winShut (portOffset port a) = false ∧ accessFits (portOffset port a) n = true
    ∧ s.holds mid (portOffset port a) = false

end Sys2Proof.Safety
end

