-- ==== Sys2Proof/Certificates/Slice0/Obligations.lean ====
section
/-! DEFINITION. The statements about the model, for the provers. Each names the rules of the spec it rests on; where one rests on a choice of the model, its docstring says so and names the log entry. -/

open Sys2Proof Sys2Proof.Machine Sys2Proof.Bytes Sys2Proof.Safety

/-! ## Steps and the queue -/

/-- One step takes the command at the front of the queue and runs it on the state with the queue's rest. On an empty queue one keeper tick passes, which is the model's choice (log entry 3). -/
def Obligations.StepRunsTheFrontCommand : Prop :=
  (∀ (s : State) (c : Instr) (rest : List Instr), s.pending = c :: rest → step s = exec c { s with pending := rest })
  ∧ ∀ s : State, s.pending = [] → step s = .next s.tick

/-- No command of the table is refused and none ends in a fault: each answers a next state, in every state, and acts on everything but the queue of the commands that wait. -/
def Obligations.EveryCommandAnswersANextState : Prop :=
  ∀ (c : Instr) (s : State), ∃ t, exec c s = .next t ∧ t.pending = s.pending

/-- The ring memory keeps its canonical form in every step, from every state that has it. -/
def Obligations.RingMemoryStaysCanonical : Prop :=
  ∀ s t : State, Memory.wf s.mem = true → step s = .next t → Memory.wf t.mem = true

/-- The ring memory has its canonical form at reset, every byte of it reads zero, and no command waits. -/
def Obligations.ResetMemoryReadsZero : Prop :=
  Memory.wf State.reset.mem = true ∧ (∀ a, Memory.read State.reset.mem a = 0) ∧ State.reset.pending = []

/-- R69: every keeper tick raises KTIME by one, POR_N's rise sets it to zero, and no other command changes it. -/
def Obligations.KtimeCountsTicksAndNothingElse : Prop :=
  (∀ s : State, s.tick.kpr.ktime = s.kpr.ktime + 1)
  ∧ (∀ s : State, s.kpr.porLow = true → ∃ t, exec (.resetRelease .por) s = .next t ∧ t.kpr.ktime = 0)
  ∧ ∀ (c : Instr) (s t : State), exec c s = .next t → (c = .resetRelease .por → s.kpr.porLow = false) → t.kpr.ktime = s.kpr.ktime

/-- Only SERVICE_UNLOCK ever puts the service unlock in force: no other command does, and no tick. -/
def Obligations.OnlyServiceUnlockUnlocks : Prop :=
  (∀ (c : Instr) (s t : State), exec c s = .next t → (∀ ring, c ≠ .serviceUnlock ring) → t.sec.unlocked = true → s.sec.unlocked = true)
  ∧ ∀ s : State, s.tick.sec.unlocked = true → s.sec.unlocked = true

/-! ## Replies and packets -/

/-- A reply that waits for nothing is written at once: a header with the command's OPCODE, PHASE, LENGTH, TAG, GALLERY, the status and the CRC over the packet with its CRC field zero, then APPLY_SEQ, four zero bytes and APPLY_KTIME, then the data padded to 16 bytes, at the ring's producer index, which advances by the packet's units (R94, R96, R97, R101, R104). What a reply leaves: every byte outside its reply ring (its COMMAND event reaches the Control event ring in a later tick, R405), and every part of the state but the Keeper's interrupt bits, the rings, the counters and trace, the bank's pipeline, armed injections, outputs, the debug port's write counts and the model's free values (R94). -/
def Obligations.RepliesAreWrittenToTheirRing : Prop :=
  (
    ∀ (u : State) (c : Cmd) (d : Done), d.waits = none → Memory.wf d.state.mem = true →
      let p := d.state.pairAt c.ring
      let units := 2 + ceilDiv d.data.length 16
      let head := ofLe 1 c.op ++ ofLe 1 (if p.rplPi.getLsbD 12 then 0 else 0x80) ++ ofLe 2 units ++ ofLe 4 c.tag ++ ofLe 1 c.gallery ++ ofLe 1 d.status ++ ofLe 2 0
      let body := ofLe 4 u.rings.applySeq.toNat ++ ofLe 4 0 ++ ofLe 8 u.kpr.ktime.toNat ++ slice d.data 0 ((units - 2) * 16)
      let packet := head ++ ofLe 4 (crc32c (head ++ ofLe 4 0 ++ body)) ++ body
      (∀ a, Memory.read (answered c u d).mem a = Memory.read (writeRpl d.state.mem c.ring (p.rplPi.toNat % 4096 * 16) packet) a)
      ∧ ((answered c u d).pairAt c.ring).rplPi = p.rplPi + BitVec.ofNat 13 units)
  ∧ (
    ∀ (u : State) (c : Cmd) (d : Done), d.waits = none → Memory.wf d.state.mem = true →
      (∀ a, (a < 0x180000 + c.ring * 0x10000 ∨ 0x180000 + c.ring * 0x10000 + 0x10000 ≤ a) →
        Memory.read (answered c u d).mem a = Memory.read d.state.mem a)
      ∧ (answered c u d).galleries = d.state.galleries ∧ (answered c u d).reg = d.state.reg ∧ (answered c u d).wings = d.state.wings
      ∧ (answered c u d).path = d.state.path ∧ (answered c u d).pair = d.state.pair ∧ (answered c u d).ledger = d.state.ledger
      ∧ (answered c u d).mbx = d.state.mbx ∧ (answered c u d).maint = d.state.maint ∧ (answered c u d).integ = d.state.integ
      ∧ (answered c u d).cap = d.state.cap ∧ (answered c u d).power = d.state.power ∧ (answered c u d).logs = d.state.logs
      ∧ (answered c u d).pending = d.state.pending)

/-- BAD_OPCODE completes. An undefined opcode is answered with BAD_OPCODE; a LENGTH of 0 or above 2,048 is answered with BAD_LENGTH, after a chain it breaks, and stops the ring (R98, R99, R100). -/
def Obligations.BadPacketsAreAnswered : Prop :=
  (∀ (ring : Fin 8) (s t : State) (c : Cmd), opcodes.contains (s.headerAt ring.val).op = false → s.take ring.val = .whole c t →
    exec (.badOpcode ring) s = .next (t.answer c stBadOpcode []))
  ∧ ∀ (ring : Fin 8) (s : State), s.nextRing = some ring.val → (s.headerAt ring.val).lengthOk = false →
    ∃ t, exec (.badOpcode ring) s = .next t ∧ (t.pairAt ring.val).stopped = true
      ∧ (t.pairAt ring.val).cmdCi = (s.pairAt ring.val).cmdCi

/-- A packet is checked before its command has an effect: one whose CRC is wrong is answered with BAD_CRC, a chain that grows too long with BAD_LENGTH, a packet with MORE set is taken and answered with nothing, and a whole command that fails one of checks 3 to 6 is answered with that check's status and data. In all of these the command itself does nothing. A ring that is not the next to be served does nothing (R92, R97, R99, R100, R340). -/
def Obligations.PacketsAreCheckedFirst : Prop :=
  (∀ (ring : Fin 8) (image : Option ImageInfo) (capsule : Option Capsule) (op : Nat) (l : Layout) (i : Instr) (s t : State) (c : Cmd),
    (op, l, i) ∈ clearRows ring image capsule → (s.headerAt ring.val).op = op →
    (s.take ring.val = .nothing → exec i s = .next s)
    ∧ (s.take ring.val = .badCrc c t → exec i s = .next (t.answer c stBadCrc []))
    ∧ (s.take ring.val = .tooLong c t → exec i s = .next (t.answer c stBadLength []))
    ∧ (s.take ring.val = .part t → exec i s = .next t)
    ∧ ∀ st data, s.take ring.val = .whole c t → t.checks c l = some (st, data) → exec i s = .next (t.answer c st data))
  ∧ ∀ (ring : Fin 8) (op : Nat) (l : Layout) (i : Instr) (s t : State) (c : Cmd),
    (op, l, i) ∈ sealedRows ring → (s.headerAt ring.val).op = op →
    let tell := fun (u : State) => u.tellCounter s (s.headerAt ring.val).gallery
    (s.take ring.val = .nothing → exec i s = .next (tell s))
    ∧ (s.take ring.val = .badCrc c t → exec i s = .next (tell (t.answer c stBadCrc [])))
    ∧ (s.take ring.val = .tooLong c t → exec i s = .next (tell (t.answer c stBadLength [])))
    ∧ (s.take ring.val = .part t → exec i s = .next (tell t))
    ∧ ∀ st data, s.take ring.val = .whole c t → t.checks c l = some (st, data) → exec i s = .next (tell (t.answer c st data))

/-! ## Status commands -/

/-- NOP, IDENTITY_STATUS, GALLERY_INFO, PAIR_STATUS, MAINT_STATUS, GET_CERTIFICATE, GET_PROVENANCE and LEDGER_READ complete. The first five change nothing but their reply, which carries the data of R109. GET_CERTIFICATE returns the part of the certificate chain asked for, GET_PROVENANCE the signed record over the 48-byte challenge, LEDGER_READ the bytes of a range of the Ledger (R320, R321, R426). -/
def Obligations.StatusAndReadCommandsReport : Prop :=
  (
    (∀ (ring : Fin 8) (s u : State) (c : Cmd), Clear 0x00 noPayload ring s c u →
      exec (.nop ring) s = .next (answered c u { state := u }))
    ∧ (∀ (ring : Fin 8) (s u : State) (c : Cmd), Clear 0x01 noPayload ring s c u →
      exec (.identityStatus ring) s = .next (answered c u
        { state := u
          data := ofLe 4 (0xBA5A * 2 ^ 16 + Config.sizeCode u.kpr.size * 2 ^ 8 + u.kpr.stepping.toNat) ++ ofLe 2 Config.behaviour
            ++ ofLe 2 u.kpr.blockEpoch.toNat ++ ofLe 4 u.kpr.fwVersion.toNat ++ ofLe 4 u.bootStatus
            ++ ofLe 1 (pairCode u.pair.state) ++ ofLe 15 0 }))
    ∧ (∀ (ring : Fin 8) (s u : State) (c : Cmd), Clear 0x16 noPayload ring s c u →
      exec (.galleryInfo ring) s = .next (answered c u
        { state := u
          data := ofLe 1 (u.galAt c.gallery).state ++ ofLe 1 (u.galAt c.gallery).policy ++ ofLe 2 0
            ++ ofLe 4 (if c.gallery = 0 then 0 else (u.galAt c.gallery).gen.toNat)
            ++ ofLe 4 (u.liveOf c.gallery) ++ ofLe 4 (u.loans c.gallery)
            ++ budgetBytes (u.galAt c.gallery).budget }))
    ∧ (∀ (ring : Fin 8) (s u : State) (c : Cmd), Clear 0x42 noPayload ring s c u →
      exec (.pairStatus ring) s = .next (answered c u
        { state := u
          data := ofLe 1 (pairCode u.pair.state) ++ ofLe 1 u.side ++ ofLe 2 0 ++ ofLe 4 (twos 32 u.offsetNs) ++ ofLe 4 u.mirrorLag ++ ofLe 4 0 }))
    ∧ ∀ (ring : Fin 8) (s u : State) (c : Cmd), Clear 0x50 noPayload ring s c u →
      exec (.maintStatus ring) s = .next (answered c u
        { state := u
          data := ofLe 2 (sumOf (((u.maint.running.map (·.code)).eraseDups).map fun k => 2 ^ (k - 1))) ++ ofLe 1 u.maint.last
            ++ ofLe 1 u.maint.result ++ ofLe 12 0 }))
  ∧ (
    (∀ (ring : Fin 8) (s u : State) (c : Cmd), Clear 0x02 certificateLayout ring s c u →
      exec (.getCertificate ring) s = .next (answered c u
        { state := u
          data := ofLe 4 u.certificateChain.length
            ++ ofLe 4 ((u.certificateChain.drop (field c.payload 0 4)).take (field c.payload 4 4)).length ++ ofLe 8 0
            ++ (u.certificateChain.drop (field c.payload 0 4)).take (field c.payload 4 4) }))
    ∧ (∀ (ring : Fin 8) (s u : State) (c : Cmd), Clear 0x03 { lenOk := fun pl => decide (pl.length = 48) } ring s c u →
      exec (.getProvenance ring) s = .next (answered c u { state := u, data := u.provenance c.gallery c.payload }))
    ∧ ∀ (ring : Fin 8) (s u : State) (c : Cmd) (bs : List Byte), Clear 0x56 ledgerReadLayout ring s c u → u.runs 6 none = false →
      u.ledger.readAt (field c.payload 0 4) (field c.payload 4 4) = some bs →
      exec (.ledgerRead ring) s = .next (answered c u { state := u, data := ofLe 4 bs.length ++ ofLe 12 0 ++ bs }))

/-! ## Galleries -/

/-- GALLERY_OPEN completes. It opens the gallery under the policy, with its generation raised by one, its keys drawn from the shared secret and its bucket full, and answers with Basam's share, the generation, the measurement digest and the signature of the transcript; a share that is no valid point is refused with BAD_KEY. With a partner session the gallery is told to the partner, and the reply waits for its acknowledgement as well as for the key loads (R115, R116, R140, R323, R326, R340). -/
def Obligations.GalleryOpenOpens : Prop :=
  ∀ (ring : Fin 8) (s u : State) (c : Cmd), Clear 0x10 openLayout ring s c u → u.pairActRefusal c.gallery = none →
    u.runs 6 none = false →
    let b := u.drawPair
    let share := parseShare c.payload 0
    let gen := (u.galAt c.gallery).gen.toNat + 1
    let keys := openKeys (Config.ecdh b.1 share) (slice c.payload 128 32) c.gallery gen
    let told := partnerTold (u.drawn.openGallery c.gallery (field c.payload 160 1) gen keys) c.gallery (.open_ (field c.payload 160 1) gen keys)
    let t := told.1
    let head := pubBytes b.2 ++ List.replicate 31 0 ++ ofLe 4 gen ++ List.replicate 12 0 ++ hashBytes (Config.sha384 (t.measurement c.gallery))
    exec (.galleryOpen ring) s = .next (answered c u (
      if Config.p384Valid share b.1 then
        { state := t, data := head ++ deviceSign (ofLe 1 c.gallery ++ c.payload ++ head)
          waits := some { kyb := (t.galAt c.gallery).bound, fence := told.2 } }
      else .refuse u.drawn stBadKey))
    ∧ (∀ k : GalleryKeys, ((u.drawn.openGallery c.gallery (field c.payload 160 1) gen k).galAt c.gallery).state = 1
        ∧ ((u.drawn.openGallery c.gallery (field c.payload 160 1) gen k).galAt c.gallery).policy = field c.payload 160 1
        ∧ ((u.drawn.openGallery c.gallery (field c.payload 160 1) gen k).galAt c.gallery).keys = k
        ∧ ((u.drawn.openGallery c.gallery (field c.payload 160 1) gen k).galAt c.gallery).lastCtr = 0)

/-- GALLERY_CLOSE and GALLERY_CLOSE_COMPLETE complete. GALLERY_CLOSE of a tenant gallery answers PENDING with the number of live requests, puts the gallery in the closing state with its aids removed, and runs activity 0x0A; GALLERY_CLOSE_COMPLETE, once every erase is acknowledged, closes the gallery and ends the activity. With a partner session the reply waits for the partner's acknowledgement of the closing (R110, R145, R340). -/
def Obligations.GalleryCloseClosesInTwoActs : Prop :=
  (∀ (ring : Fin 8) (s u : State) (c : Cmd), Clear 0x11 noPayload ring s c u → c.gallery ≠ 0 → u.pairActRefusal c.gallery = none →
    u.conflict 10 c.gallery = none →
    let told := partnerTold ((u.closeGallery c.gallery).startActivity 10 c.gallery (some u.rings.applySeq) 0) c.gallery .close
    exec (.galleryClose ring) s = .next (answered c u
      { state := told.1
        status := stPending
        waits := fenceOnly told.2
        data := ofLe 4 (u.liveReqs.filter fun r => decide (r.gallery = c.gallery) && r.state != .deaccessioned).length ++ ofLe 12 0 }))
  ∧ ∀ (g : Nat) (s : State), s.dead = false → (s.galAt g).state = 2 → (s.galAt g).erasing = [] → (∀ r ∈ s.allReqs, r.gallery ≠ g) →
    let v := s.updGal g fun x => { x with state := 0, policy := 0, keys := {}, bound := [], aids := [] }
    exec (.galleryCloseComplete g) s = .next (if v.runs 10 (some g) then v.endActivity 10 g stOk else v)

/-- GALLERY_BUDGET and GALLERY_REPORT complete. GALLERY_BUDGET that no wing makes infeasible puts the six figures of its payload in force (R109, R150, R152); GALLERY_REPORT answers with the gallery's own counters (R157, R331). -/
def Obligations.GalleryBudgetAndReport : Prop :=
  (∀ (ring : Fin 8) (s u : State) (c : Cmd), Clear 0x12 (layout 32 [(18, 6)] fun _ _ => none) ring s c u →
    u.budgetInfeasible c.gallery (parseBudget c.payload) = false →
    exec (.galleryBudget ring) s = .next (answered c u
      { state := u.updGal c.gallery fun x => { x with budget :=
          { rate := field c.payload 0 4, burst := field c.payload 4 4, concurrency := field c.payload 8 4, loanQuota := field c.payload 12 4
            energyShare := field c.payload 16 2
            reserved := [field c.payload 24 2, field c.payload 26 2, field c.payload 28 2, field c.payload 30 2] } } }))
  ∧ ∀ (ring : Fin 8) (s u : State) (c : Cmd) (o : Opened) (b : List Byte),
    Sealed 0x15 sealedLayout0 plainEnvelope (fun _ => true) ring s c o u → openBody o.plain = some b → b.length = 4 →
    exec (.galleryReport ring) s = .next ((answeredSealed s c u
      { state := u
        data := sealReply c.gallery (u.galAt c.gallery) u.kpr.ktime u.side o.ctr o.nonce (u.reportPlain c.gallery ++ ofLe 8 0) }).tellCounter
          s (s.headerAt ring.val).gallery)

/-- GALLERY_REKEY completes. A sealed field that does not open is refused, a counter not above the last is refused with REPLAYED; else a tenant's valid share gives the gallery the next key generation and the keys derived from the new secret, the egress key in force before it staying noted for what is sealed in the same tick, and the reply, sealed under that old egress key, carries Basam's share and the generation. Without a partner session activity 0x07 ends in the same act; with one, the new keys go to the partner, and the activity and the reply wait for its acknowledgement (R105, R143, R327, R331, R340). -/
def Obligations.GalleryRekeyChangesKeys : Prop :=
  (∀ (ring : Fin 8) (s t : State) (c : Cmd), (s.headerAt ring.val).op = 0x13 → s.take ring.val = .whole c t →
    t.checks c sealedLayout0 = none →
    exec (.galleryRekey ring) s = .next (State.tellCounter
      (match t.opened c.gallery (plainEnvelope c.payload) with
        | .error st => (t.tagFail c.gallery (field (slice c.payload 0 12) 4 8) st).answer c st []
        | .ok pt =>
          if field (slice c.payload 0 12) 4 8 ≤ (t.galAt c.gallery).lastCtr.toNat then t.answer c stReplayed []
          else
            let u := ((t.cryptoWake c.op c.gallery).acceptCtr c.gallery (field (slice c.payload 0 12) 4 8)).applied
            answeredSealed s c u (rekeyBody c
              { ctr := field (slice c.payload 0 12) 4 8, nonce := slice c.payload 0 12, target := field c.payload 12 4, plain := pt } u))
      s (s.headerAt ring.val).gallery))
  ∧ ∀ (c : Cmd) (o : Opened) (u : State) (b : List Byte), openBody o.plain = some b → b.length = 101 → c.gallery ≠ 0 →
    u.pairActRefusal c.gallery = none → u.conflict 7 c.gallery = none →
    let n := ((u.galAt c.gallery).keyGen.toNat + 1) % 2 ^ 16
    let keys := rekeyKeys (u.galAt c.gallery).keys (Config.ecdh u.drawPair.1 (parseShare b 4)) n
    let told := partnerTold (u.drawn.updGal c.gallery fun x => { x with
      keyGen := BitVec.ofNat 16 n, keys := keys
      oldEgress := some (u.kpr.ktime, x.egressAt u.kpr.ktime) }) c.gallery (.rekey n keys)
    let t := told.1.startActivity 7 c.gallery (some u.rings.applySeq) told.2
    rekeyBody c o u =
      if Config.p384Valid (parseShare b 4) u.drawPair.1 then
        { state := if told.2 = 0 then t.endActivity 7 c.gallery stOk else t
          status := stPending
          waits := fenceOnly told.2
          data := sealReply c.gallery (u.galAt c.gallery) u.kpr.ktime u.side o.ctr o.nonce
            (ofLe 4 104 ++ pubBytes u.drawPair.2 ++ ofLe 1 0 ++ ofLe 2 n ++ List.replicate 8 0) }
      else .refuse u.drawn stBadKey

/-- BEGIN, STATES, MASKS, TRANSITIONS, FINAL and FREE complete. Each of these rows of AID_LOAD answers with the aid's number; BEGIN lays out an aid with the counts declared, STATES, MASKS and TRANSITIONS add their items, FINAL completes the aid, FREE removes it. Without a partner session the aid stays noted as one that the partner has not been told of; with one, the segment goes to the partner with the layout chosen here, the reply waits for its acknowledgement, and a BEGIN or FINAL for which the partner lacks room is refused with OVER_BUDGET, the partner's verdict being a free value, log entry 47 (R272, R274, R277, R330, R340). -/
def Obligations.AidSegmentsBuildAnAid : Prop :=
  ∀ (seg : Nat) (i : Instr) (ring : Fin 8) (s u v : State) (c : Cmd) (o : Opened) (n : Nat) (a : AidSeg),
    (seg, i) ∈ [(1, Instr.aidBegin ring), (2, .aidStates ring), (3, .aidMasks ring), (4, .aidTransitions ring), (5, .aidFinal ring),
      (6, .aidFree ring)] →
    Sealed 0x14 sealedLayout plainEnvelope (isSeg seg) ring s c o u → u.pairActRefusal c.gallery = none →
    u.segCheck c.gallery o.target o.plain = .ok (n, a) →
    let asks := u.pairActs && (decide (seg = 1) || decide (seg = 5))
    let u0 := if asks then { u with free := u.free + 1 } else u
    ((asks && !Config.partnerAgrees u.free) = true →
      exec i s = .next ((answeredSealed s c u (.refuse u0 stOverBudget)).tellCounter s (s.headerAt ring.val).gallery))
    ∧ ((asks && !Config.partnerAgrees u.free) = false → u0.applySeg c.gallery n a none = some v →
      let w := if v.pairActs then v.markTold c.gallery n true else v.aidAlone c.gallery n a
      let laid := SMap.getD (v.galAt c.gallery).aids n {}
      let told := partnerTold w c.gallery (.aid n a laid.base laid.maskBase)
      exec i s = .next ((answeredSealed s c u
        { state := told.1, data := ofLe 4 n ++ ofLe 12 0, waits := fenceOnly told.2 }).tellCounter s (s.headerAt ring.val).gallery)
      ∧ match a with
        | .begin_ vocab st m tr start => ∃ x, SMap.find (w.galAt c.gallery).aids n = some x ∧ x.vocab = vocab
            ∧ x.states = st ∧ x.masks = m ∧ x.transitions = tr ∧ x.start = start ∧ x.complete = false
        | .final => ∃ x, SMap.find (w.galAt c.gallery).aids n = some x ∧ x.complete = true
        | .free => v = u.removeAid c.gallery n ∧ ∀ x, SMap.find (u.galAt c.gallery).aids n = some x →
            ∃ y, SMap.find (w.galAt c.gallery).aids n = some y ∧ y.removed = true
        | x => v = u.updAid c.gallery n (·.add x))

/-! ## Requests -/

/-- POWER_CAP and WING_POLICY complete. POWER_CAP that the reserved work of the served wings can hold, or a cap of 0, puts CAP_MW and EFFICIENCY in force; else it answers INFEASIBLE (R172). WING_POLICY that passes its tests gives the policy to the wing's compose points, for it to come into force with the first step composed under it, and keeps the wing's period up to its next compose point (R9, R154, R160). -/
def Obligations.PolicyAndCapComeIntoForce : Prop :=
  (∀ (ring : Fin 8) (s u : State) (c : Cmd), Clear 0x34 (layout 16 [(6, 10)] fun _ _ => none) ring s c u →
    let cap := field c.payload 0 4
    let pkg := pPkg cap (field c.payload 4 2)
    exec (.powerCap ring) s = .next (answered c u (
      if cap ≠ 0 ∧ (pkg ≤ u.cfg.baseMw ∨ u.capHolds (pkg - u.cfg.baseMw) u.allowed = false) then .refuse u stInfeasible
      else { state := { u with cap := { u.cap with capMw := cap, efficiency := field c.payload 4 2 } } })))
  ∧ ∀ (ring : Fin 8) (s u : State) (c : Cmd), Clear 0x33 policyLayout ring s c u →
    let w := field c.payload 0 1
    let p := parsePolicy c.payload
    (u.hasCatalogue w = true ∨ (u.wingAt w).commitNext ≠ none ∨ (u.wingAt w).staging ≠ []) →
    (p.fixed = true → (u.wingAt w).fixedOk w (u.wingAt w).composeSection p = true) → u.policyInfeasible w p = false →
    exec (.wingPolicy ring) s = .next (answered c u { state := (u.keepPeriod w).updWing w fun y => { y with policyNext := some p } })

/-- SUBMIT completes. Behind checks 1 to 8 a method a wing cannot serve is refused with METHOD_UNSUPPORTED; the first admission test that no wing passes gives its status and diagnostic; else a free record slot takes the request, its accession number made of the slot, the slot's next generation and the side, and the reply carries the number and the wing (R15, R39, R109, R161, R169). -/
def Obligations.SubmitAccessionsARequest : Prop :=
  ∀ (ring : Fin 8) (s u : State) (c : Cmd) (o : Opened) (r : Req), Sealed 0x20 submitLayout submitEnvelope (fun _ => true) ring s c o u →
    let blk := slice c.payload 0 48
    u.parseSubmit c.gallery blk o.plain = some r →
    let a : Ask := { gallery := c.gallery, cls := r.cls, kind := r.kind, build := r.modelBuild, sampling := r.sampling, itl := r.itlUs
                     ttft := field blk 24 4, completion := field blk 32 4, maxTokens := r.maxTokens
                     bound := field blk 16 4, owed := prefillLength r.kind (field blk 16 4) }
    let ans := fun d => (answeredSealed s c u d).tellCounter s (s.headerAt ring.val).gallery
    (u.methodOk r.kind r.sampling r.speculative = false →
      exec (.submit ring) s = .next (ans (u.submitRefused c.gallery stMethodUnsupported 0 [])))
    ∧ (u.methodOk r.kind r.sampling r.speculative = true → ∀ n w us,
      u.admission a admitOrder (u.wingSet c.gallery (field blk 14 1)) = .fail n w us →
      exec (.submit ring) s = .next (ans (u.submitRefused c.gallery (admitStatus n).1 (admitStatus n).2 (u.diagnostic a (admitStatus n).2 w us))))
    ∧ (u.methodOk r.kind r.sampling r.speculative = true → ∀ ws slot,
      u.admission a admitOrder (u.wingSet c.gallery (field blk 14 1)) = .pass ws → u.freeSlotNo = some slot →
      let w := u.chooseWing a ws
      let acc := slot + (SMap.getD u.reg.gens slot 0 + 1) % 2 ^ 15 * 2 ^ 16 + u.side * 2 ^ 31
      ∃ v : State, exec (.submit ring) s = .next (ans
          { state := v, data := ofLe 4 acc ++ ofLe 1 0 ++ ofLe 1 w ++ ofLe 10 0, waits := v.submitWaits acc w })
        ∧ (v, acc) = u.accession r slot w (field blk 24 4) (field blk 32 4) o.ctr (slice o.plain 16 32) (u.askNeed w a))

/-- CANCEL and QUERY complete. They answer NO_REQUEST where the gallery holds no request of the number; else CANCEL asks for the deaccession with reason 4 and answers with the state and the tokens committed, and QUERY answers with the request's state and changes nothing else (R16, R20, R109, R111). A deaccession asked for while a row of the request is in flight is kept until the row has committed, the first reason by the spec's order staying; without such a row the request is deaccessioned at once with a final record as its next record (R22, R23, R179). -/
def Obligations.CancelQueryAndDeaccession : Prop :=
  (
    (∀ (ring : Fin 8) (s u : State) (c : Cmd), Clear 0x21 (layout 16 [(4, 12)] fun _ _ => none) ring s c u →
      let acc := field c.payload 0 4
      (u.named c.gallery acc = none → exec (.cancel ring) s = .next (answered c u (.refuse u stNoRequest)))
      ∧ ∀ r, u.named c.gallery acc = some r →
        exec (.cancel ring) s = .next (answered c u
          { state := u.askDeaccession acc 4
            data := ofLe 4 ((((u.askDeaccession acc 4).req? acc).map fun q => stateCode q.state).getD 5) ++ ofLe 4 (reqCommitted r) ++ ofLe 8 0 }))
    ∧ ∀ (ring : Fin 8) (s u : State) (c : Cmd), Clear 0x23 (layout 16 [(4, 12)] fun _ _ => none) ring s c u →
      let acc := field c.payload 0 4
      (u.named c.gallery acc = none → exec (.query ring) s = .next (answered c u (.refuse u stNoRequest)))
      ∧ ∀ r, u.named c.gallery acc = some r →
        exec (.query ring) s = .next (answered c u
          { state := u
            data := ofLe 1 (stateCode r.state) ++ ofLe 1 r.cls ++ ofLe 1 r.kind ++ ofLe 1 r.wing ++ ofLe 4 (reqCommitted r)
              ++ ofLe 4 r.nextSeq ++ ofLe 1 (min 255 (u.heldCount r.acc)) ++ ofLe 1 r.reason ++ ofLe 2 0
              ++ ofLe 4 (reqLoans r) ++ ofLe 12 0 }))
  ∧ (
    ∀ (s : State) (acc reason : Nat) (r : Req), s.req? acc = some r → r.state ≠ .deaccessioned →
      (s.holdsRow r = true → s.askDeaccession acc reason = s.updReq acc fun x => { x with pendingReason := firstReason x.pendingReason reason })
      ∧ (s.holdsRow r = false → s.askDeaccession acc reason = (s.markDeaccessioned acc reason).tokenlessFinal acc reason))

/-- AMEND and DRAFT complete. AMEND whose fields and admission tests pass replaces the request's fields, arms its deadline again and mirrors the change; DRAFT of a speculative request replaces its drafts, less those that committed positions already passed. Both answer NO_REQUEST where the gallery holds no such request (R109, R111, R168, R170, R202). -/
def Obligations.AmendAndDraftChangeTheRequest : Prop :=
  (∀ (ring : Fin 8) (s u : State) (c : Cmd) (o : Opened) (r q : Req) (b : List Byte),
    Sealed 0x22 sealedLayout plainEnvelope (fun _ => true) ring s c o u →
    u.named c.gallery o.target = some r → r.state ≠ .deaccessioned → openBody o.plain = some b → amendForm b = true → u.amended r b = some q →
    (bit (field b 4 1) 3 = true → u.methodOk q.kind q.sampling q.speculative = true) →
    (field b 4 1 % 8 = 0 ∨ u.admission (u.amendAsk q r.bound) [4, 5, 6, 7, 8, 9, 10, 11] [r.wing] = .pass [r.wing]) →
    exec (.amend ring) s = .next ((answeredSealed s c u
      { state := ((u.updReq r.acc fun _ => if bit (field b 4 1) 2 then { q with need := u.askNeed r.wing (u.amendAsk q r.bound) } else q).armWheel
          r.acc).mirrorEvent r.acc .change }).tellCounter s (s.headerAt ring.val).gallery))
  ∧ (∀ (ring : Fin 8) (s u : State) (c : Cmd) (o : Opened) (r : Req) (b : List Byte) (ts : List Nat),
    Sealed 0x24 sealedLayout plainEnvelope (fun _ => true) ring s c o u →
    u.named c.gallery o.target = some r → r.state ≠ .deaccessioned → r.speculative = true → openBody o.plain = some b →
    1 ≤ field b 8 1 → field b 8 1 ≤ 64 → b.length = 16 + 4 * field b 8 1 → allZero (slice b 9 7) = true →
    u.parseTokens b 16 (field b 8 1) = some ts →
    exec (.draft ring) s = .next ((answeredSealed s c u
      { state := (u.updReq r.acc fun x => { x with
          drafts := ts.drop (reqPosition r - field b 4 4)
          draftFirst := field b 4 4 + (reqPosition r - field b 4 4) }).mirrorEvent r.acc .change }).tellCounter s (s.headerAt ring.val).gallery))
  ∧ ∀ (ring : Fin 8) (s u : State) (c : Cmd) (o : Opened), u.named c.gallery o.target = none →
    (Sealed 0x22 sealedLayout plainEnvelope (fun _ => true) ring s c o u →
      exec (.amend ring) s = .next ((answeredSealed s c u (.refuse u stNoRequest)).tellCounter s (s.headerAt ring.val).gallery))
    ∧ (Sealed 0x24 sealedLayout plainEnvelope (fun _ => true) ring s c o u →
      exec (.draft ring) s = .next ((answeredSealed s c u (.refuse u stNoRequest)).tellCounter s (s.headerAt ring.val).gallery))

/-! ## The catalogue -/

/-- CAT_STAGE, CAT_COMMIT, CAT_ARCHIVE and CAT_ARCHIVE_DONE complete. CAT_STAGE: the first entry that fails a condition is answered with BAD_PARAM, its index in the data and one Conservator event; else the entries are staged, and the first of a staging empties the section and begins activity 0x03 (R109, R184, R185). CAT_COMMIT on a wing outside the paired set whose staged entries are complete and of one geometry: a signature that does not verify is refused with BAD_SIGNATURE, else the section waits for the wing's flip in activity 0x04 and the reply is PENDING. CAT_ARCHIVE writes the slot that does not hold the greater commit sequence, whose header is gone until CAT_ARCHIVE_DONE gives it the new one (R186, R187, R188, R190). -/
def Obligations.CatalogueCommands : Prop :=
  (
    ∀ (ring : Fin 8) (s u : State) (c : Cmd), Clear 0x30 stageLayout ring s c u →
      let w := field c.payload 0 1
      let first := field c.payload 2 2
      let n := field c.payload 4 2
      (∀ i cond, u.stageFails w first n c.payload = some (i, cond) →
        exec (.catStage ring) s = .next (answered c u { state := u.event 10 0x11 noWing cond (first + i), status := stBadParam, data := ofLe 16 (first + i) }))
      ∧ (u.stageFails w first n c.payload = none → u.conflict 3 w = none →
        exec (.catStage ring) s = .next (answered c u
          { state := State.updWing
              (State.wrote (if (u.wingAt w).stagingFresh then u else
                (u.updWing w fun y => { y with staging := [], stagingFresh := true }).startActivity 3 w (some u.rings.applySeq) 0) 1)
              w fun y => { y with staging := (List.range n).foldl (fun m i => SMap.put m (first + i) (parseEntry (stagedRaw c.payload i))) y.staging } })))
  ∧ (
    (∀ (ring : Fin 8) (s u : State) (c : Cmd) (es : List CatEntry), Clear 0x31 commitLayout ring s c u →
      let w := field c.payload 0 1
      let sig : Sig := BitVec.ofNat 768 (fieldBe c.payload 16 96)
      (u.wingAt w).paired = false → field c.payload 4 4 ≠ 0 → field c.payload 4 4 ≤ u.sectionSize → (u.wingAt w).stagedEntries (field c.payload 4 4) = some es →
      oneGeometry es = true → u.commitInfeasible w es = false → u.conflict 4 w = none →
      exec (.catCommit ring) s = .next (answered c u (
        if Config.ecdsaVerify u.cfg.catalogueKey (catalogueDigest w es) sig then { state := u.acceptCommit w es sig (some u.rings.applySeq), status := stPending }
        else .refuse u stBadSignature)))
    ∧ (∀ (u : State) (w : Nat) (es : List CatEntry) (sig : Sig) (seq : Option W32),
      ((u.acceptCommit w es sig seq).wingAt w).commitNext = some (es, sig) ∧ ((u.acceptCommit w es sig seq).wingAt w).committed = (u.wingAt w).committed)
    ∧ (∀ (ring : Fin 8) (s u : State) (c : Cmd), Clear 0x32 (layout 16 [(1, 15)] fun _ _ => none) ring s c u →
      (∀ w, w < 8 → bit (field c.payload 0 1) w = true → u.hasCatalogue w = true) → u.runs 2 none = false → u.runs 6 none = false →
      let job := u.archiveJob (field c.payload 0 1)
      exec (.catArchive ring) s = .next (answered c u
        { state := ({ u with maint := { u.maint with
            arcJob := some job, arcSlots := setNth u.maint.arcSlots job.1 { (nth u.maint.arcSlots job.1 {}) with header := [] } } }).emit
            (.archive (if job.1 = 0 then .slotA else .slotB))
          status := stPending }))
    ∧ ∀ (s : State) (k : Nat) (slot : ArcSlot), s.dead = false → s.maint.arcJob = some (k, slot) →
      exec .catArchiveDone s = .next { s with maint := { s.maint with arcJob := none, arcSlots := setNth s.maint.arcSlots k slot } })

/-- SHAPE_STATE_READ, SHAPE_STATE_RELEASE and SHAPE_STATE_DISABLE complete. On a shape of the committed section each answers with the shape's state; RELEASE clears disablement and quarantine where the wing's period stays feasible, DISABLE asks for the shape to leave at the next compose point unless work is held on it, READ changes nothing (R189, R199, R200). -/
def Obligations.ShapeStateRows : Prop :=
  ∀ (ring : Fin 8) (s u : State) (c : Cmd) (e : CatEntry), Clear 0x35 shapeLayout ring s c u →
    u.shapeNamed (field c.payload 0 2) = some e →
    let w := shapeWing (field c.payload 0 2)
    let act := field (s.cmdBytes ring.val ((s.pairAt ring.val).cmdCi.toNat % 4096 * 16 + 16) 16) 2 1
    let freed := u.updWing w fun x => x.updShape (shapeKey e) fun t => { t with
      disabled := false, quarantined := false, wantDisable := false, wantQuarantine := false, heldReport := false, history := [] }
    (act = 0 → exec (.shapeStateRead ring) s = .next (answered c u { state := u, data := ((u.wingAt w).shapeSt e).reply }))
    ∧ (act = 1 → ((u.wingAt w).shapeSt e).code ≠ 0 → withinDc (u.dcUs w) (periodUs (freed.allowed w)) = true →
      exec (.shapeStateRelease ring) s = .next (answered c u { state := freed, data := ((freed.wingAt w).shapeSt e).reply }))
    ∧ (act = 2 → (((u.wingAt w).shapeSt e).code = 2 ∨ u.holdCause w e = 0) →
      let v := u.updWing w fun x => x.updShape (shapeKey e) fun t => { t with
        wantDisable := !t.disabled, wantQuarantine := false, heldReport := false }
      exec (.shapeStateDisable ring) s = .next (answered c u { state := v, data := ((v.wingAt w).shapeSt e).reply }))

/-! ## Pair, maintenance and service commands -/

/-- PAIR_JOIN, PAIR_RESYNC, PAIR_YIELD and PAIR_LEAVE complete. Without a partner in the capsule PAIR_JOIN, PAIR_RESYNC, PAIR_YIELD and PAIR_LEAVE answer NOT_PAIRED. With one, PAIR_JOIN from ALONE, YIELDED, SURVIVOR or DEGRADED begins the join in activity 0x09, PAIR_RESYNC does the same while heartbeats arrive, PAIR_YIELD enters YIELDED and PAIR_LEAVE goes to ALONE (R338, R341, R351, R352, R363). -/
def Obligations.PairCommands : Prop :=
  (∀ (ring : Fin 8) (s u : State) (c : Cmd), u.partner? = none →
    (Clear 0x40 noPayload ring s c u → exec (.pairJoin ring) s = .next (answered c u (.refuse u stNotPaired)))
    ∧ (Clear 0x43 noPayload ring s c u → exec (.pairResync ring) s = .next (answered c u (.refuse u stNotPaired)))
    ∧ (Clear 0x41 noPayload ring s c u → exec (.pairYield ring) s = .next (answered c u (.refuse u stNotPaired)))
    ∧ (Clear 0x44 noPayload ring s c u → exec (.pairLeave ring) s = .next (answered c u (.refuse u stNotPaired))))
  ∧ ∀ (ring : Fin 8) (s u : State) (c : Cmd), u.partner? ≠ none →
    (Clear 0x40 noPayload ring s c u → u.mayJoin = true → u.conflict 9 255 = none →
      exec (.pairJoin ring) s = .next (answered c u { state := (u.startJoin (some u.rings.applySeq)).meet, status := stPending }))
    ∧ (Clear 0x43 noPayload ring s c u → u.silent = false → u.mayJoin = true → u.conflict 9 255 = none →
      exec (.pairResync ring) s = .next (answered c u { state := (u.startJoin (some u.rings.applySeq)).meet, status := stPending }))
    ∧ (Clear 0x41 noPayload ring s c u → u.together = true →
      exec (.pairYield ring) s = .next (answered c u { state := u.enterYielded }) ∧ u.enterYielded.pair.state = .yielded)
    ∧ (Clear 0x44 noPayload ring s c u → u.kpr.fenceReq = false → u.together = true →
      exec (.pairLeave ring) s = .next (answered c u { state := (if u.pair.session then u.sendFrame .leave else u).leave, status := stPending })
      ∧ (if u.pair.session then u.sendFrame .leave else u).leave.pair.state = .alone)

/-- SCRUB_WAKE, LEDGER_CHECKPOINT and RETIRE_ROW complete. SCRUB_WAKE asks for a lap of every domain in activity 0x01; LEDGER_CHECKPOINT begins a checkpoint in activity 0x02, or answers BUSY with the conflicting activity; RETIRE_ROW takes the region's next spare row in activity 0x08, or answers NO_SPARE (R387, R390, R396, R421). -/
def Obligations.MaintenanceActivities : Prop :=
  (∀ (ring : Fin 8) (s u : State) (c : Cmd), Clear 0x51 noPayload ring s c u →
    exec (.scrubWake ring) s = .next (answered c u { state := u.startScrub allDoms (some u.rings.applySeq), status := stPending }))
  ∧ (∀ (ring : Fin 8) (s u : State) (c : Cmd), Clear 0x52 noPayload ring s c u →
    (u.conflict 2 255 = none → exec (.ledgerCheckpoint ring) s = .next (answered c u { state := u.checkpoint 2 (some u.rings.applySeq), status := stPending }))
    ∧ ∀ k, u.conflict 2 255 = some k → exec (.ledgerCheckpoint ring) s = .next (answered c u (.busy u k)))
  ∧ ∀ (ring : Fin 8) (s u : State) (c : Cmd), Clear 0x55 retireLayout ring s c u →
    let region := field c.payload 0 2
    let spare := SMap.getD u.integ.sparesUsed region 0
    u.conflict 8 region = none →
    exec (.retireRow ring) s = .next (answered c u (
      if Config.regionSpares u.kpr.size region ≤ spare then .refuse u stNoSpare
      else { state := { u with maint := { u.maint with retire := some (region, field c.payload 4 4, spare) } }.startActivity 8 region (some u.rings.applySeq) 0
             status := stPending }))

/-- FW_STAGE, FW_ACTIVATE and CAPSULE_WRITE complete. FW_STAGE writes its bytes into the staging buffer; FW_ACTIVATE of a staged image that verifies begins its programming in activity 0x06 and answers PENDING, and one that does not verify is refused with BAD_SIGNATURE; CAPSULE_WRITE stages its bytes, and the last of them gives the capsule to the archive if phase 0x04 would accept it (R109, R336, R370, R396). -/
def Obligations.FirmwareAndCapsule : Prop :=
  (∀ (ring : Fin 8) (s u : State) (c : Cmd), Clear 0x53 fwStageLayout ring s c u → u.conflict 5 255 = none → u.maint.capStage = [] →
    exec (.fwStage ring) s = .next (answered c u
      { state :=
          let v := (u.startActivity 5 255 (some u.rings.applySeq) 0).wrote 6
          State.endActivity { v with maint := { v.maint with
            fwStage := stageBytes u.maint.fwStage (field c.payload 0 4) (slice c.payload 16 (field c.payload 4 4)) } } 5 255 stOk }))
  ∧ (∀ (ring : Fin 8) (verdict : Option ImageInfo) (s u : State) (c : Cmd), Clear 0x54 noPayload ring s c u → u.conflict 6 255 = none →
    u.maint.fwStage ≠ [] → u.together = false →
    exec (.fwActivate ring verdict) s = .next (answered c u (match verdict with
      | none => .refuse u stBadSignature
      | some i =>
        { state :=
            let v := u.startActivity 6 255 (some u.rings.applySeq) 0
            State.emit { v with maint := { v.maint with fwImage := some i, fwProgram := true } } (.archive .image)
          status := stPending })))
  ∧ ∀ (ring : Fin 8) (verdict : Option Capsule) (s u : State) (c : Cmd), Clear 0x73 capsuleLayout ring s c u → u.maint.fwStage = [] →
    u.capsuleBlocks = none →
    let off := field c.payload 0 4
    let bs := slice c.payload 16 (field c.payload 4 4)
    let total := if off = 0 then field bs 0 4 else u.maint.capTotal
    let v := { u with maint := { u.maint with capStage := (if off = 0 then [] else u.maint.capStage) ++ bs, capTotal := total } }.wrote 6
    exec (.capsuleWrite ring verdict) s = .next (answered c u (
      if off + field c.payload 4 4 < total then { state := v }
      else match verdict.filter capsuleAccepted with
        | none => .refuse u stBadSignature
        | some cap => { state := { v with maint := { v.maint with capNext := some cap } }.emit (.archive .capsule), status := stPending }))

/-- SNAPSHOT, COUNTER_RESET, DAYBOOK_CTRL, FREEZE and THAW complete. SNAPSHOT arms a snapshot under the next identity and answers with identity and tick; COUNTER_RESET queues the group's reset in every delay class; DAYBOOK_CTRL selects the wings and kinds of entry; FREEZE holds wings, answers PENDING and leaves its completion due; THAW lets every wing go and ends a freeze not yet complete (R401, R402, R404, R409, R410, R412). -/
def Obligations.ObservationCommands : Prop :=
  (∀ (ring : Fin 8) (s u : State) (c : Cmd), Clear 0x60 (layout 16 [(8, 8)] fun _ _ => none) ring s c u →
    let tick : W64 := BitVec.ofNat 64 (u.snapTick (field c.payload 0 8))
    exec (.snapshot ring) s = .next (answered c u
      { state := { u with cnt := { u.cnt with lastId := u.cnt.lastId + 1, armed := some { id := u.cnt.lastId + 1, tick := tick, freeze := false } } }
        data := ofLe 4 (u.cnt.lastId + 1).toNat ++ ofLe 4 0 ++ ofLe 8 tick.toNat }))
  ∧ (∀ (ring : Fin 8) (s u : State) (c : Cmd), Clear 0x61 counterResetLayout ring s c u →
    exec (.counterReset ring) s = .next (answered c u
      { state := { u with cnt := { u.cnt with queue := u.cnt.queue ++ delayClasses.map fun d =>
          { event := u.now, due := u.now + d, op := .reset d (field c.payload 0 2) } } } }))
  ∧ (∀ (ring : Fin 8) (s u : State) (c : Cmd), Clear 0x62 daybookLayout ring s c u →
    exec (.daybookCtrl ring) s = .next (answered c u
      { state := { u with logs := { u.logs with
          dbkWings := BitVec.ofNat 4 (Nat.land (field c.payload 0 1) u.kpr.caps.wingMask), dbkSelect := decide (field c.payload 1 1 = 1) } } }))
  ∧ (∀ (ring : Fin 8) (s u : State) (c : Cmd), Clear 0x63 freezeLayout ring s c u →
    exec (.freeze ring) s = .next (answered c u
      { state := { u with cnt := { u.cnt with holding := u.cnt.holding ||| BitVec.ofNat 4 (field c.payload 0 1), freezeDue := true } }, status := stPending }))
  ∧ ∀ (ring : Fin 8) (s u : State) (c : Cmd), Clear 0x64 noPayload ring s c u →
    exec (.thaw ring) s = .next (answered c u { state := { u with cnt := { u.cnt with holding := 0, frozen := 0, freezeDue := false } } })

/-- SERVICE_CHALLENGE, SERVICE_UNLOCK, SERVICE_LOCK and CHALLENGE_EXPIRY complete. SERVICE_CHALLENGE answers with a fresh challenge; SERVICE_UNLOCK without one, or with a tenant gallery open, is refused, and else uses the challenge up and grants the unlock if the signature verifies; SERVICE_LOCK ends the unlock and disarms an injection; CHALLENGE_EXPIRY ends a challenge that is too old (R334, R335, R438). -/
def Obligations.ServiceCommands : Prop :=
  (∀ (ring : Fin 8) (s u : State) (c : Cmd), Clear 0x70 noPayload ring s c u →
    let ch := hash384 (u.draw 48)
    exec (.serviceChallenge ring) s = .next (answered c u
      { state := { u.drawn with sec := { u.drawn.sec with challenge := some (ch, u.kpr.ktime) } }, data := hashBytes ch }))
  ∧ (∀ (ring : Fin 8) (s u : State) (c : Cmd), Clear 0x71 (layout 96 [] fun _ _ => none) ring s c u →
    ((u.sec.challenge = none ∨ u.tenantsOpen = true) → exec (.serviceUnlock ring) s = .next (answered c u (.refuse u stNotAuthorised)))
    ∧ ∀ ch t, u.sec.challenge = some (ch, t) → u.tenantsOpen = false →
      let v := { u with sec := { u.sec with challenge := none } }
      exec (.serviceUnlock ring) s = .next (answered c u (
        if Config.ecdsaVerify Config.serviceKey (Config.sha384 (serviceMessage ch)) (BitVec.ofNat 768 (fieldBe c.payload 0 96)) then { state := v.grantUnlock }
        else .refuse v stBadSignature)))
  ∧ (∀ (ring : Fin 8) (s u : State) (c : Cmd), Clear 0x72 noPayload ring s c u →
    exec (.serviceLock ring) s = .next (answered c u
      { state := { u with sec := { u.sec with unlocked := false, dbgInject := u.sec.dbgInject &&& 0x7FFFFFFF#32 } } }))
  ∧ ∀ (s : State) (ch : Hash384) (t : W64), s.dead = false → s.sec.challenge = some (ch, t) → t.toNat + challengeTicks ≤ s.now →
    exec .challengeExpiry s = .next { s with sec := { s.sec with challenge := none } }

/-! ## Accesses, registers, rings -/

/-- REGISTER_WRITE, ACCESS_REFUSED and HIF_ACCESS_WAKE complete. An access whose MID is not the port's is logged and refused; one to a window that does not answer, or of a size that does not fit, is refused; one whose home domain sleeps, or behind an earlier held access of the same master, waits and wakes the home; any other takes effect at once and is answered. While a reset pin is low no access does anything (R34, R43, R44, R68, R428, R429). -/
def Obligations.AccessesReachTheirRegister : Prop :=
  (∀ (port : Port) (mid : Byte) (a : Nat) (data : List Byte) (s : State), Reaches s port mid a data.length →
    let off := portOffset port a
    exec (.registerWrite port mid a data) s = .next ((s.writeAt mid off data).2.respond mid (s.writeAt mid off data).1 []))
  ∧ (∀ (port : Port) (mid : Byte) (write : Bool) (a : Nat) (data : List Byte) (s : State), s.resetLow = false →
    let off := portOffset port a
    let none_ := if write then [] else List.replicate data.length 0
    (midOk port mid = false →
      exec (.accessRefused port mid write a data) s = .next ((s.event 8 1 noWing mid.toNat off).respond mid false none_))
    ∧ (midOk port mid = true → (s.winShut off = true ∨ accessFits off data.length = false) →
      exec (.accessRefused port mid write a data) s = .next (s.respond mid false none_)))
  ∧ (∀ (mid : Byte) (write : Bool) (a : Nat) (data : List Byte) (s : State), s.resetLow = false → midOk .hif mid = true → s.winShut a = false →
    accessFits a data.length = true → (∃ d ∈ s.homes a, s.active d = false) →
    exec (.hifAccessWake mid write a data) s = .next (State.wake
      { s with power := { s.power with heldAccesses := s.power.heldAccesses ++ [{ mid := mid, write := write, addr := a, data := data }] } } (s.homes a)))
  ∧ ∀ (port : Port) (mid : Byte) (write : Bool) (a : Nat) (data : List Byte) (s : State), s.resetLow = true →
    exec (.accessRefused port mid write a data) s = .next s

/-- DOORBELL, DBL_RPL_CI, DBL_RES_CI, CNS_CI and DBK_CI complete with OK. A doorbell write within the ring's capacity sets CMD_PI and wakes the Control domain, one beyond it sets PI_ERR alone; a consumer index between the old one and the producer index is taken, any other sets CI_ERR alone, noted as an error bit set in this tick. The same for the result rings, the condition ring and the Daybook. Every other register stays (R73, R90, R307, R395, R408). -/
def Obligations.IndicesAreTakenOrFlagged : Prop :=
  (∀ (mid : Byte) (ring : Fin 8) (v : W32) (s : State), Reaches s .hif mid (0x2000 + ring.val * 0x20) 4 → (s.pairAt ring.val).resetBusy = false →
    let new := BitVec.ofNat 13 v.toNat
    exec (.doorbell mid ring v) s = .next (State.respond
      (if occupancy new (s.pairAt ring.val).cmdCi ≤ 4096 then (s.updPair ring.val fun q => { q with cmdPi := new }).wake [.control]
        else (s.updPair ring.val fun q => { q with piErr := true }).mark (8 + ring.val)) mid true []))
  ∧ (∀ (mid : Byte) (ring : Fin 8) (v : W32) (s : State), Reaches s .hif mid (0x2014 + ring.val * 0x20) 4 → (s.pairAt ring.val).resetBusy = false →
    let new := BitVec.ofNat 13 v.toNat
    exec (.dblRplCi mid ring v) s = .next (State.respond
      (if ciAccepted (s.pairAt ring.val).rplPi (s.pairAt ring.val).rplCi new then s.updPair ring.val fun q => { q with rplCi := new }
        else (s.updPair ring.val fun q => { q with ciErr := true }).mark ring.val) mid true []))
  ∧ (∀ (mid : Byte) (ring : Fin 8) (v : W32) (s : State), Reaches s .hif mid (0x2204 + ring.val * 0x10) 4 → (s.resAt ring.val).resetBusy = false →
    let new := BitVec.ofNat 13 v.toNat
    exec (.dblResCi mid ring v) s = .next (State.respond
      (if ciAccepted (s.resAt ring.val).pi (s.resAt ring.val).ci new then s.updRes ring.val fun q => { q with ci := new }
        else (s.updRes ring.val fun q => { q with ciErr := true }).mark (16 + ring.val)) mid true []))
  ∧ (∀ (mid : Byte) (v : W32) (s : State), Reaches s .hif mid 0x610004 4 →
    let new := BitVec.ofNat 11 v.toNat
    exec (.cnsCi mid v) s = .next (State.respond
      (if ciAccepted s.logs.cnsPi s.logs.cnsCi new then { s with logs := { s.logs with cnsCi := new } }
        else ({ s with logs := { s.logs with cnsErr := true } } : State).mark 25) mid true []))
  ∧ ∀ (mid : Byte) (v : W32) (s : State), Reaches s .hif mid 0x5C0004 4 →
    let new := BitVec.ofNat 14 v.toNat
    exec (.dbkCi mid v) s = .next (State.respond
      (if ciAccepted s.logs.dbkPi s.logs.dbkCi new then { s with logs := { s.logs with dbkCi := new } }
        else ({ s with logs := { s.logs with dbkErr := true } } : State).mark 24) mid true [])

/-- RING_PAIR_RESET, RING_PAIR_RESET_COMPLETE, RING_RESET and RING_RESET_COMPLETE complete. A write to a ring's control register clears each error flag that it names, unless an event of the same tick set it (R6), and sets RESET_BUSY if bit 0 is set. A pair's reset completes once no reply of the ring waits: its registers are all zero, its chain is gone, its reply memory reads zero and no other memory changes. A result ring's reset zeroes its indices, its flags and its memory, no other memory changes, and its RING_RESET event with the ring's number and the entries lost is on its way to the Egress event ring (R95, R308, R405). -/
def Obligations.RingResetsClearTheRing : Prop :=
  (∀ (mid : Byte) (ring : Fin 8) (v : W32) (s : State), Reaches s .hif mid (0x2008 + ring.val * 0x20) 4 →
    exec (.ringPairReset mid ring v) s = .next ((s.updPair ring.val fun q => { q with
      ciErr := q.ciErr && (!bit v.toNat 3 || s.isFresh ring.val), piErr := q.piErr && (!bit v.toNat 2 || s.isFresh (8 + ring.val))
      resetBusy := q.resetBusy || bit v.toNat 0 }).respond mid true []))
  ∧ (∀ (mid : Byte) (ring : Fin 8) (v : W32) (s : State), Reaches s .hif mid (0x2208 + ring.val * 0x10) 4 →
    exec (.ringReset mid ring v) s = .next ((s.updRes ring.val fun q => { q with
      ciErr := q.ciErr && (!bit v.toNat 1 || s.isFresh (16 + ring.val)), resetBusy := q.resetBusy || bit v.toNat 0 }).respond mid true []))
  ∧ (∀ (ring : Fin 8) (s : State), s.dead = false → (s.pairAt ring.val).resetBusy = true → (∀ r ∈ s.rings.replies, r.ring ≠ ring.val) →
    ∃ t, exec (.ringPairResetComplete ring) s = .next t ∧ t.pairAt ring.val = {} ∧ (∀ i, i ≠ ring.val → t.pairAt i = s.pairAt i)
      ∧ (∀ a, 0x180000 + ring.val * 0x10000 ≤ a → a < 0x180000 + ring.val * 0x10000 + 0x10000 → Memory.read t.mem a = 0)
      ∧ ∀ a, (a < 0x180000 + ring.val * 0x10000 ∨ 0x180000 + ring.val * 0x10000 + 0x10000 ≤ a) → Memory.read t.mem a = Memory.read s.mem a)
  ∧ ∀ (ring : Fin 8) (s : State), s.dead = false → (s.resAt ring.val).resetBusy = true →
    ∃ t, exec (.ringResetComplete ring) s = .next t ∧ t.resAt ring.val = {} ∧ (∀ i, i ≠ ring.val → t.resAt i = s.resAt i)
      ∧ (∀ a, 0x200000 + ring.val * 0x40000 ≤ a → a < 0x200000 + ring.val * 0x40000 + 0x40000 → Memory.read t.mem a = 0)
      ∧ (∀ a, (a < 0x200000 + ring.val * 0x40000 ∨ 0x200000 + ring.val * 0x40000 + 0x40000 ≤ a) → Memory.read t.mem a = Memory.read s.mem a)
      ∧ t.cnt.queue = s.cnt.queue ++ [{ event := s.now, due := s.now + eventDelay 7 0x48
                                        op := .event 7 (eventBytes s.now (Config.eventCycle s.free % 36) 0x48 noWing ring.val
                                          (occupancy (s.resAt ring.val).pi (s.resAt ring.val).ci) s.throttled) }]

/-- LOW_WORD_READ, HIGH_WORD_READ and READ_CLEAR complete with OK. A 4-byte read of a pair's low word returns its low half and sets the reader's latch to the pair and its high half; a read of the high word by the master whose latch names the pair returns the latched value and frees the latch, by any other master the current high half. A read of DBK_STATUS or CNS_STATUS without a loss in the same tick returns the loss count and clears it; with n losses in the tick behind a count of b it returns b and leaves n (R5, R6, R7, R395, R408, R430). -/
def Obligations.ReadsWithAnEffect : Prop :=
  (∀ (mid : Byte) (a : Nat) (s : State), Reaches s .hif mid a 4 → pairLow a = true →
    exec (.lowWordRead mid a) s = .next (State.respond
      { s with mbx := { s.mbx with latches := SMap.put s.mbx.latches mid.toNat (a, BitVec.ofNat 32 (s.pairValue a / 2 ^ 32)) } }
      mid true (ofLe 4 (s.pairValue a % 2 ^ 32))))
  ∧ (∀ (mid : Byte) (a : Nat) (high : W32) (s : State), Reaches s .hif mid (a + 4) 4 → pairLow a = true →
    SMap.find s.mbx.latches mid.toNat = some (a, high) →
    exec (.highWordRead mid (a + 4)) s = .next (State.respond
      { s with mbx := { s.mbx with latches := SMap.drop s.mbx.latches mid.toNat } } mid true (ofLe 4 high.toNat)))
  ∧ (∀ (mid : Byte) (a : Nat) (s : State), Reaches s .hif mid (a + 4) 4 → pairLow a = true → pairLow (a + 4) = false →
    (∀ high, SMap.find s.mbx.latches mid.toNat ≠ some (a, high)) →
    exec (.highWordRead mid (a + 4)) s = .next (s.respond mid true (ofLe 4 (s.pairValue a / 2 ^ 32))))
  ∧ (∀ (mid : Byte) (s : State), Reaches s .hif mid 0x5C0008 4 →
    let word := fun (lost : Nat) => ofLe 4 (s.logs.dbkWings.toNat * 2 ^ 20 + b2n s.logs.dbkSelect * 2 ^ 19 + b2n s.logs.dbkErr * 2 ^ 18 + lost)
    (s.freshNow.dbk = none → ∃ t, exec (.readClear mid 0x5C0008) s = .next t ∧ t.logs = { s.logs with dbkLost := 0 }
      ∧ t.rings = (s.respond mid true (word s.logs.dbkLost.toNat)).rings ∧ t.mem = s.mem)
    ∧ ∀ (b : W16) (n : Nat), s.freshNow.dbk = some (b, n) → ∃ t, exec (.readClear mid 0x5C0008) s = .next t
      ∧ t.logs = { s.logs with dbkLost := BitVec.ofNat 16 (min n 0xFFFF) } ∧ t.rings = (s.respond mid true (word b.toNat)).rings ∧ t.mem = s.mem)
  ∧ ∀ (mid : Byte) (s : State), Reaches s .hif mid 0x610008 4 →
    let word := fun (lost : Nat) => ofLe 4 (b2n s.logs.cnsLostModule * 2 ^ 17 + b2n s.logs.cnsErr * 2 ^ 16 + lost)
    (s.freshNow.cns = none → ∃ t, exec (.readClear mid 0x610008) s = .next t ∧ t.logs = { s.logs with cnsLost := 0 }
      ∧ t.rings = (s.respond mid true (word s.logs.cnsLost.toNat)).rings ∧ t.mem = s.mem)
    ∧ ∀ (b : W16) (n : Nat), s.freshNow.cns = some (b, n) → ∃ t, exec (.readClear mid 0x610008) s = .next t
      ∧ t.logs = { s.logs with cnsLost := BitVec.ofNat 16 (min n 0xFFFF) } ∧ t.rings = (s.respond mid true (word b.toNat)).rings ∧ t.mem = s.mem

/-- DOMAIN_SOFT_RESET, HARD_HALT, IRQ_MASK_WRITE and IRQ_ACK complete. KPR_SOFT_RESET, written by a host MID, resets the domains it names in ascending order; KPR_HALT written while a halt is not allowed is refused and changes nothing, and while it is allowed sets the arming and halts if bit 0 is set; KPR_IRQ_MASK takes the mask and requests the message of each pending vector it unmasks; an acknowledgement of the message on IRQ_VEC sends the next that waits (R81, R413, R414, R431). -/
def Obligations.KeeperRegisters : Prop :=
  (∀ (mid : Byte) (v : W32) (s : State), Reaches s .hif mid 0x1020 4 →
    exec (.domainSoftReset mid v) s = .next (((allDoms.filter fun d => bit v.toNat (domBit d)).foldl State.softReset s).respond mid true []))
  ∧ (∀ (mid : Byte) (v : W32) (s : State), Reaches s .hif mid 0x1030 4 →
    let armed := { s with kpr := { s.kpr with armCode := BitVec.ofNat 16 (v.toNat / 2 ^ 16), arm := bit v.toNat 1 } }
    exec (.hardHalt mid v) s = .next (
      if s.haltAllowed then State.respond (if bit v.toNat 0 then armed.halt else armed) mid true [] else s.respond mid false []))
  ∧ (∀ (mid : Byte) (v : W32) (s : State), Reaches s .hif mid 0x1044 4 →
    ∃ t, exec (.irqMaskWrite mid v) s = .next t ∧ t.kpr.irqMask = BitVec.ofNat 16 v.toNat ∧ t.kpr.irqPending = s.kpr.irqPending
      ∧ t.mem = s.mem ∧ t.rings = (s.respond mid true []).rings
      ∧ ∀ k, k < 16 → s.kpr.irqMask.getLsbD k = true → v.getLsbD k = false → s.kpr.irqPending.getLsbD k = true →
        t.kpr.irqSent = some (BitVec.ofNat 4 k) ∨ t.kpr.irqWait.getLsbD k = true)
  ∧ (∀ s : State, s.kpr.irqSent = none → exec .irqAck s = .next s)
  ∧ ∀ (s : State) (v : BitVec 4), s.kpr.irqSent = some v → s.resetLow = false →
    (s.kpr.irqWait = 0 → exec .irqAck s = .next { s with kpr := { s.kpr with irqSent := none } })
    ∧ ∀ k, k < 16 → s.kpr.irqWait.getLsbD k = true → (∀ j, j < k → s.kpr.irqWait.getLsbD j = false) →
      ∃ t, exec .irqAck s = .next t ∧ t.kpr.irqSent = some (BitVec.ofNat 4 k) ∧ t.kpr.irqWait.getLsbD k = false
        ∧ t.outs = .message k :: s.outs

/-- POST, MBX_ACK and MBX_EPOCH complete. A post by the channel's sender, the first of its tick, makes word 7 and the seven staged words the message, with the epochs' stamps, FULL set, and COLLISION set if the slot was full, and the Keeper acts on a message to it in the same tick; an acknowledgement by its receiver, in a tick without a post, empties the slot and carries the message's SEQ and stamps. Any other MID is refused and logged. An epoch write by its identity takes the value and gives up that identity's locks and latches (R119, R122, R123, R124, R125, R128, R135). -/
def Obligations.MailboxesPostAndAcknowledge : Prop :=
  (∀ (port : Port) (mid : Byte) (chan : Fin 32) (v : W32) (s : State),
    let a := mbxOffset port (chan.val * 0x40 + 0x1C)
    let ch := s.chanAt chan.val
    Reaches s port mid a 4 →
    (ch.sentBy mid.toNat = false → exec (.post port mid chan v) s =
      .next ((s.event 8 1 noWing mid.toNat (0x10000 + chan.val * 0x40 + 0x1C)).respond mid false []))
    ∧ (ch.sentBy mid.toNat = true →
      exec (.post port mid chan v) s = .next (((s.postMessage chan.val mid v).keeperMail chan.val).respond mid true [])
      ∧ (ch.receivedBy 0x48 = false → (s.postMessage chan.val mid v).keeperMail chan.val = s.postMessage chan.val mid v)
      ∧ ((∀ p, ch.prior = some p → p.tick ≠ s.kpr.ktime) → ∃ p, (s.postMessage chan.val mid v).chanAt chan.val = { ch with
          slot := ch.staging ++ [v], full := true, collision := ch.collision || ch.full, prior := some p
          msgTx := s.epochOf ch.sender.toNat, msgRx := s.epochOf ch.receiver.toNat })
      ∧ (∀ n, n ≠ chan.val → (s.postMessage chan.val mid v).chanAt n = s.chanAt n) ∧ (s.postMessage chan.val mid v).mem = s.mem))
  ∧ (∀ (port : Port) (mid : Byte) (chan : Fin 32) (v : W32) (s : State),
    let a := mbxOffset port (chan.val * 0x40 + 0x24)
    let ch := s.chanAt chan.val
    Reaches s port mid a 4 →
    (ch.receivedBy mid.toNat = false → exec (.mbxAck port mid chan v) s =
      .next ((s.event 8 1 noWing mid.toNat (0x10000 + chan.val * 0x40 + 0x24)).respond mid false []))
    ∧ (ch.receivedBy mid.toNat = true → (∀ p, ch.prior = some p → p.tick ≠ s.kpr.ktime) →
      ∃ t, exec (.mbxAck port mid chan v) s = .next t
      ∧ t.chanAt chan.val = (if ch.full then { ch with
          full := false, ackValid := true, ackSeq := ch.seq, ackCode := BitVec.ofNat 16 v.toNat, ackTx := ch.msgTx, ackRx := ch.msgRx } else ch)
      ∧ (∀ n, n ≠ chan.val → t.chanAt n = s.chanAt n) ∧ t.mem = s.mem ∧ t.rings = (s.respond mid true []).rings))
  ∧ ∀ (port : Port) (mid : Byte) (index : Fin 7) (v : W32) (s : State), Reaches s port mid (mbxOffset port (0x810 + 4 * index.val)) 4 →
    (epochIndex mid.toNat ≠ some index.val → exec (.mbxEpoch port mid index v) s = .next (s.respond mid false []))
    ∧ (epochIndex mid.toNat = some index.val → exec (.mbxEpoch port mid index v) s = .next (State.respond
      { s with mbx := { s.mbx with
        epochs := SMap.put s.mbx.epochs index.val (BitVec.ofNat 16 v.toNat)
        latches := s.mbx.latches.filter fun e => !decide (epochIndex e.1 = some index.val)
        locks := s.mbx.locks.filter fun e => !decide (epochIndex e.2.toNat = some index.val) } } mid true []))

/-- R133: a write to a lock register by the owner releases the lock, whatever the value written; a write by any other MID is ignored; both complete with OK. A lock so released is free, unless other masters have read it before in the same tick: then the lowest of them has it (R134). -/
def Obligations.LockWritesRelease : Prop :=
  ∀ (port : Port) (mid : Byte) (lock : Fin 64) (v : W32) (s : State), Reaches s port mid (lockOffset port lock.val) 4 → SMap.wf s.mbx.locks = true →
    ∃ t, exec (.lockRelease port mid lock v) s = .next t
      ∧ (SMap.find s.mbx.locks lock.val = some mid → SMap.find t.mbx.locks lock.val ≠ some mid)
      ∧ (SMap.find s.mbx.locks lock.val = some mid → (∀ r ∈ (s.readsNow lock.val).readers, r.1 = mid) → SMap.find t.mbx.locks lock.val = none)
      ∧ (SMap.find s.mbx.locks lock.val = some mid → (s.readsNow lock.val).fresh = false → ∀ m k, (m, k) ∈ (s.readsNow lock.val).readers → m ≠ mid →
          (∀ r ∈ (s.readsNow lock.val).readers, r.1 ≠ mid → m.toNat ≤ r.1.toNat) → SMap.find t.mbx.locks lock.val = some m)
      ∧ (SMap.find s.mbx.locks lock.val ≠ some mid → t.mbx = s.mbx)
      ∧ t.rings.out.head? = some { mid := mid, ok := true, data := [] }
      ∧ ∀ n, n ≠ lock.val → SMap.find t.mbx.locks n = SMap.find s.mbx.locks n

/-- R132: a read of a free lock makes the reader its owner and returns ACQUIRED (STATE 0) with its MID; one of the reader's own lock returns OWNED (STATE 1), one of a lock that another MID owns LOCKED (STATE 2) with the owner's MID, and neither changes a lock. A lock that a higher MID took in the same tick goes to the reader, who reads ACQUIRED (R134). -/
def Obligations.LockReadsAcquire : Prop :=
  ∀ (port : Port) (mid : Byte) (lock : Fin 64) (s : State), Reaches s port mid (lockOffset port lock.val) 4 →
    ∃ t, exec (.lockAcquire port mid lock) s = .next t
      ∧ (SMap.find s.mbx.locks lock.val = none → t.mbx.locks = SMap.put s.mbx.locks lock.val mid
        ∧ t.rings = (s.respond mid true (ofLe 4 mid.toNat)).rings)
      ∧ (∀ o, SMap.find s.mbx.locks lock.val = some o → ((s.readsNow lock.val).fresh = false ∨ o.toNat ≤ mid.toNat) →
        t.mbx.locks = s.mbx.locks
        ∧ t.rings = (s.respond mid true (ofLe 4 (if o = mid then 2 ^ 30 + mid.toNat else 2 ^ 31 + o.toNat))).rings)
      ∧ ∀ o, SMap.find s.mbx.locks lock.val = some o → (s.readsNow lock.val).fresh = true → mid.toNat < o.toNat →
        t.mbx.locks = SMap.put s.mbx.locks lock.val mid ∧ t.rings.out.head? = some { mid := mid, ok := true, data := ofLe 4 mid.toNat }

/-! ## Mailbox messages to Basam -/

/-- TELEMETRY, FENCE_CONFIRMED, FENCE_DENIED and RECOVERY_CHUNK complete. TELEMETRY puts the report of channel 0 into the telemetry state and acknowledges it with code 0; FENCE_CONFIRMED of the partner's side enters TAKEOVER from FENCING or DEGRADED, FENCE_DENIED enters DEGRADED from FENCING and lowers FENCE_REQ in either, and each is acknowledged with code 0; a message that names another side is acknowledged with 0x8014 and not acted on, which for the member's own side is the model's choice (log entry 94); a RECOVERY chunk out of sequence is acknowledged with 0x0001 whatever its total, one in sequence but not the last is counted and acknowledged with 0 (R86, R118, R127, R174, R362, R367). -/
def Obligations.MessagesToBasam : Prop :=
  (∀ (s : State) (ty : Nat) (ws : List Nat), s.mail 0 telemetryMails = .message ty ws →
    exec .telemetry s = .next ((s.telemetry (nth ws 0 0) (nth ws 1 0) (nth ws 2 0) (nth ws 3 0)).ackMessage 0 0)
    ∧ (s.telemetry (nth ws 0 0) (nth ws 1 0) (nth ws 2 0) (nth ws 3 0)).cap.pkgMw = BitVec.ofNat 32 (nth ws 2 0)
    ∧ (s.telemetry (nth ws 0 0) (nth ws 1 0) (nth ws 2 0) (nth ws 3 0)).cap.throttling = bit (nth ws 3 0) 16)
  ∧ (∀ (s : State) (ws : List Nat), s.active .control = true → s.kpr.halted = false → s.pair.journalAsked = none →
    (s.mail 1 fenceMails = .message 0x10 ws →
      exec .fenceConfirmed s = .next (
        if nth ws 0 0 ≠ 1 - s.side then s.ackMessage 1 0x8014
        else (if s.pair.state = .fencing ∨ s.pair.state = .degraded then s.enterTakeover else s).ackMessage 1 0))
    ∧ (s.mail 1 fenceMails = .message 0x11 ws →
      exec .fenceDenied s = .next (
        if nth ws 0 0 ≠ 1 - s.side then s.ackMessage 1 0x8014
        else (if s.pair.state = .fencing then s.enterDegraded.lowerFence else if s.pair.state = .degraded then s.lowerFence
          else s).ackMessage 1 0)))
  ∧ (∀ s : State, s.enterTakeover.pair.state = .takeover ∧ s.enterDegraded.pair.state = .degraded)
  ∧ ∀ (s : State) (ty : Nat) (ws : List Nat) (verdict : Option RecoveredItem), s.kpr.recovery = true → s.resetLow = false → s.active .control = true →
    s.maint.recoverProgram = false → s.mail 31 [(0x40, 4, 0)] = .message ty ws →
    nth ws 0 0 = s.missingItem → nth ws 2 0 ≠ 0 → nth ws 2 0 ≤ 65536 →
    (nth ws 1 0 ≠ s.pair.recChunks → exec (.recoveryChunk verdict) s = .next (s.ackMessage 31 1))
    ∧ (nth ws 1 0 = s.pair.recChunks → s.pair.recBytes + nth ws 2 0 < nth ws 3 0 → (s.pair.recChunks = 0 ∨ nth ws 3 0 = s.pair.recTotal) →
      exec (.recoveryChunk verdict) s = .next (State.ackMessage
        { s with pair := { s.pair with recItem := s.missingItem, recChunks := s.pair.recChunks + 1, recBytes := s.pair.recBytes + nth ws 2 0
                                       recTotal := nth ws 3 0 } } 31 0))

/-! ## Resets and start-up -/

/-- POWER_ON_RESET, BLOCK_RESET, FENCE_RESET and RESET_RELEASE complete. A fall of POR_N resets all with CAUSE 1 but the archive, the journal of the Ledger in it among it; a fall of BLK_RST_N or of the fence pin resets the block with CAUSE 2 or 3, raises BLOCK_EPOCH and the epochs of Control and the Registrar by one and keeps KTIME, the generations, the retained Ledger and what the array holds of the rings, which start-up clears (R79, R80); a reset by the fence pin drops the takeover journal; the rise of the last pin begins start-up at phase 1 (R68, R69, R79, R80). What a reset leaves of an item being programmed to the archive lacks its header or stands in its earlier copy (R87). -/
def Obligations.ResetsLeaveWhatTheyMust : Prop :=
  (∀ s : State, s.kpr.porLow = false → ∃ t, exec .powerOnReset s = .next t ∧ t.kpr.porLow = true ∧ t.kpr.cause = 1 ∧ t.kpr.blockEpoch = 0
    ∧ t.kpr.ready = false ∧ t.ledger.journal = s.ledger.journal ∧ t.maint.arcSlots = s.maint.arcSlots ∧ t.maint.flash = s.flashInReset ∧ t.ledger.words = [] ∧ t.mem = []
    ∧ t.galleries = [] ∧ t.reg = {} ∧ t.wings = [] ∧ t.sec.unlocked = false)
  ∧ (∀ s : State, s.resetLow = false → ∃ t, exec .blockReset s = .next t ∧ t.kpr.blkLow = true ∧ t.kpr.cause = 2
    ∧ t.kpr.blockEpoch = s.kpr.blockEpoch + 1 ∧ t.kpr.controlCount = s.kpr.controlCount + 1 ∧ t.kpr.registrarEpoch = s.kpr.registrarEpoch + 1
    ∧ t.kpr.ktime = s.kpr.ktime ∧ t.kpr.ready = false ∧ t.ledger.words = s.ledger.words ∧ t.ledger.journal = s.ledger.journal
    ∧ t.reg.gens = s.reg.gens ∧ t.mem = s.mem.filter inArray ∧ t.maint.flash = s.flashInReset ∧ t.sec.unlocked = false)
  ∧ (∀ s : State, s.kpr.porLow = false → s.kpr.fenceLow = false → s.kpr.blkLow = false → ∃ t, exec .fenceReset s = .next t
    ∧ t.kpr.fenceLow = true ∧ t.kpr.cause = 3 ∧ t.kpr.blockEpoch = s.kpr.blockEpoch + 1 ∧ t.kpr.ktime = s.kpr.ktime ∧ t.kpr.ready = false
    ∧ t.reg.gens = s.reg.gens ∧ t.mem = s.mem.filter inArray ∧ t.pair.journal = none ∧ t.sec.unlocked = false)
  ∧ (∀ s : State, s.imageProgramming = true → s.flashInReset.image = .broken)
  ∧ ∀ (pin : ResetPin) (s : State), s.kpr.pinLow pin = true →
    (({ s with kpr := s.kpr.release pin } : State).resetLow = true → exec (.resetRelease pin) s = .next { s with kpr := s.kpr.release pin })
    ∧ (({ s with kpr := s.kpr.release pin } : State).resetLow = false → ∃ t, exec (.resetRelease pin) s = .next t ∧ t.kpr.phase = 1
      ∧ (s.kpr.halted = false → s.power.fclkAck = false → s.power.control = {} → t.power.fclkReq = true ∧ t.power.control.req = true))

/-- PUF_CHECK, BOOT_IMAGE, BOOT_CAPSULE, ECC_REGIONS and BOOT_CATALOGUE complete in their phases. PUF_CHECK without a usable archive device halts with 0x01; a part that keeps its device key begins phase 3; else no helper copy with a good CRC halts with 0x02, and the first such copy gives the device key and phase 3 or, where it does not reconstruct the key, halts with 0x03. BOOT_IMAGE begins phase 4 with the image that the archive holds, else enters recovery; BOOT_CAPSULE begins phase 5 with the first copy of the capsule that is accepted, copy 0 before copy 1, else enters recovery; ECC_REGIONS that fails halts with 0x05, else what no live journal preserves is cleared, the key memories are erased and phase 6 begins; BOOT_CATALOGUE raises READY (R35, R62, R80, R83, R84, R433). -/
def Obligations.StartUpPhases : Prop :=
  (∀ (s : State) (table : Option ArcTable) (copy0 copy1 : HelperCopy), (s.boots 1 = true ∨ s.boots 2 = true) →
    s.active .registrar = true → s.active .control = true →
    let v := (s.atPhase 2).discover table
    (table.filter arcUsable = none → exec (.pufCheck ⟨table, copy0, copy1⟩) s = .next (v.bootHalt 0x01))
    ∧ ∀ u, table.filter arcUsable = some u →
      (s.kpr.deviceKey = true → exec (.pufCheck ⟨table, copy0, copy1⟩) s = .next (v.atPhase 3))
      ∧ (s.kpr.deviceKey = false → copy0.crcOk = false → copy1.crcOk = false →
        exec (.pufCheck ⟨table, copy0, copy1⟩) s = .next (v.bootHalt 0x02))
      ∧ (s.kpr.deviceKey = false → s.sec.pufLocked = false → ∀ c, c = (if copy0.crcOk then copy0 else copy1) → c.crcOk = true →
        let locked := { v with sec := { v.sec with pufLocked := true } }
        exec (.pufCheck ⟨table, copy0, copy1⟩) s = .next (
          if c.keyOk then { locked with kpr := { locked.kpr with phase := 3, deviceKey := true } } else locked.bootHalt 0x03)))
  ∧ (∀ (s : State) (verdict : Option ImageInfo), s.boots 3 = true →
    (∀ i, found s.maint.flash.image verdict = some i →
      exec (.bootImage verdict) s = .next { s with kpr := { s.kpr with phase := 4, image := some i, fwVersion := i.version } })
    ∧ (found s.maint.flash.image verdict = none → exec (.bootImage verdict) s = .next s.enterRecovery))
  ∧ (∀ (s : State) (copy0 copy1 : Option Capsule), s.boots 4 = true →
    (∀ c, bootCopy s.maint.flash copy0 copy1 = some c → ∃ t, exec (.bootCapsule ⟨copy0, copy1⟩) s = .next t
      ∧ t.kpr.phase = 5 ∧ t.kpr.capValid = true ∧ t.kpr.capsule = some c ∧ t.kpr.caps = limitCaps (Config.built s.kpr.size) c.limits
      ∧ t.pair.state = if c.partner.isSome then .alone else .unpaired)
    ∧ (bootCopy s.maint.flash copy0 copy1 = none → exec (.bootCapsule ⟨copy0, copy1⟩) s = .next s.enterRecovery))
  ∧ (∀ (f : Flash) (copy0 copy1 : Option Capsule) (c : Capsule), f.capsule0 = .delivered → f.capsule1 = .delivered → capsuleAccepted c = true →
    bootCopy f (some c) copy1 = some c ∧ (copy0.filter capsuleAccepted = none → bootCopy f copy0 (some c) = some c))
  ∧ (∀ (s : State) (bad : List Nat), s.boots 5 = true → s.pair.journalAsked = none →
    exec (.eccRegions ⟨false, bad⟩) s = .next { s with kpr := { s.kpr with haltCode := 0x05 } }
    ∧ (s.kpr.journalResumed = false →
      exec (.eccRegions ⟨true, bad⟩) s = .next ((s.clearPreserved.clearArray.eraseAll.loadControlKey).atPhase 6))
    ∧ (s.kpr.journalResumed = true → exec (.eccRegions ⟨true, bad⟩) s = .next
      ((bad.foldl State.badRecord s.clearArray.eraseAll.loadControlKey.resumeRecords.reloadKeys).atPhase 6)))
  ∧ ∀ s : State, s.boots 6 = true → ∃ t, exec .bootCatalogue s = .next t ∧ t.kpr.ready = true

/-- RECOVERY_PROGRAMMED, IMAGE_REQUEST_RETRY, GRV_LINK_UP and JOURNAL_TIMEOUT complete. RECOVERY_PROGRAMMED acknowledges the host's last chunk with 0x0003, leaves the item in its region of the archive and resets the block with CAUSE 4; the image request is repeated every 100 ms while no image data has come; a rise of the link while the image is wanted sends the request; a journal whose question stays unanswered for 5 ms is dropped with all it preserved (R86, R88, R350). -/
def Obligations.RecoveryAndJournal : Prop :=
  (∀ (s : State) (r : RecoveredItem), s.maint.recoverProgram = true → s.pair.recDone = some r →
    let v := s.ackMessage 31 3
    exec .recoveryProgrammed s = .next (
      ({ v with maint := { v.maint with recoverProgram := false, flash := putItem s.maint.flash r } } : State).internalReset 4))
  ∧ (∀ s : State, s.wantsImage = true → s.power.linkUp = true → s.resetLow = false → s.pair.imgChunks = 0 →
    s.pair.recAskedAt.toNat + 10000000 ≤ s.now → exec .imageRequestRetry s = .next s.askImage)
  ∧ (∀ (up : Bool) (s : State), (up = false ∨ s.power.linkUp = true ∨ s.wantsImage = false ∨ s.resetLow = true) →
    exec (.grvLinkUp up) s = .next { s with power := { s.power with linkUp := up } })
  ∧ (∀ s : State, s.power.linkUp = false → s.wantsImage = true → s.resetLow = false →
    exec (.grvLinkUp true) s = .next (State.askImage { s with power := { s.power with linkUp := true } }))
  ∧ ∀ (s : State) (t : W64), s.pair.journalAsked = some t →
    (t.toNat + 500000 ≤ s.now → ∃ v, exec .journalTimeout s = .next v ∧ v.pair.journal = none ∧ v.pair.journalAsked = none
      ∧ v.reg = { gens := s.reg.gens } ∧ v.path.records = [])
    ∧ (s.now < t.toNat + 500000 → exec .journalTimeout s = .next s)

/-! ## Clock and power -/

/-- FCLK_ACK_RISE, FCLK_ACK_FALL, PSW_ACK_RISE, PSW_ACK_FALL, DOMAIN_POWER_DOWN, PRE_WAKE and COMPOSE_WAKE complete. The acknowledgements set what they name: FCLK_ACK follows FCLK_REQ up, with its latency put into the warm or the cold histogram of the Ledger, and down, with its tick; a switch's ACK follows its REQ up and down, and RET_EN rises as the Registrar's falls (R66, R73, R76, R79, R419). A domain that has no work and no timer near lowers its request. The pre-wake of a wing wakes the Intake and the Docent, the compose wake the Curator, once the armed tick less the domains' wake time is reached, but not in the tick of the arming, and disarms its timer (R71, R75, R78). -/
def Obligations.ClockAndPowerFollow : Prop :=
  (
    (∀ s : State, s.power.fclkReq = true → s.power.fclkAck = false → s.resetLow = false →
      exec .fclkAckRise s = .next (State.ledgerAdd { s with power := { s.power with fclkAck := true } }
        (if s.power.coldStart then 238 + binOf [500, 1000, 2000, 3500, 7000] (s.now - s.power.fclkRose.toNat)
          else 232 + binOf [30, 60, 90, 120, 240] (s.now - s.power.fclkRose.toNat)) 1))
    ∧ (∀ s : State, s.power.fclkReq = false → s.power.fclkAck = true →
      exec .fclkAckFall s = .next { s with power := { s.power with fclkAck := false, fclkFell := some s.kpr.ktime } })
    ∧ (∀ (d : Dom) (s : State), (s.power.dom d).req = true → (s.power.dom d).ack = false → s.resetLow = false →
      exec (.pswAckRise d) s = .next (s.updDom d fun y => { y with ack := true }))
    ∧ (∀ (d : Dom) (s : State), (s.power.dom d).req = false → (s.power.dom d).ack = true → ∃ t, exec (.pswAckFall d) s = .next t
      ∧ (t.power.dom d).ack = false
      ∧ t.power.retEn = (s.power.retEn || (decide (d = .registrar) && !(s.power.dom d).waiting && !s.resetLow)))
    ∧ ∀ (d : Dom) (s : State), (s.power.dom d).req = true → (s.power.dom d).active = true → s.hasWork d = false → s.dead = false →
      exec (.domainPowerDown d) s = .next (s.updDom d fun y => { y with req := false, active := false }))
  ∧ (
    ∀ (w : Fin 4) (s : State) (t : W64), s.dead = false →
      ((s.wingAt w.val).preWake = some t → (s.wingAt w.val).armedAt.toNat < s.now → t.toNat ≤ s.now + s.wakeLead t.toNat 600 600 4000 →
        exec (.preWake w) s = .next ((s.updWing w.val fun y => { y with preWake := none }).wake [.intake, .docent]))
      ∧ ((s.wingAt w.val).composeWake = some t → (s.wingAt w.val).armedAt.toNat < s.now → t.toNat ≤ s.now + s.wakeLead t.toNat 210 320 3700 →
        exec (.composeWake w) s = .next ((s.updWing w.val fun y => { y with composeWake := none }).wake [.curator]))
      ∧ ((s.wingAt w.val).preWake = some t → (s.now ≤ (s.wingAt w.val).armedAt.toNat ∨ s.now + s.wakeLead t.toNat 600 600 4000 < t.toNat) → exec (.preWake w) s = .next s)
      ∧ ((s.wingAt w.val).composeWake = some t → (s.now ≤ (s.wingAt w.val).armedAt.toNat ∨ s.now + s.wakeLead t.toNat 210 320 3700 < t.toNat) → exec (.composeWake w) s = .next s))

/-! ## Composition and steps -/

/-- COMPOSE_POINT, IDLE_COMPOSE, DESCRIPTOR and REPLAY complete. A compose point whose tick is reached on a wing that may compose disarms itself and composes, one on a wing whose running step is discarded does not; a wing without a step, a composed step or a descriptor composes as soon as it may and there is work, and wakes the Curator first where it sleeps (R8, R13, R205, R208); in a tick that has applied a command it waits for the next, which is the model's choice (log entry 114). A composed step whose gap has passed, whose area writes are acknowledged and whose noise keys are loaded is sent to the wing as its descriptor and stands pending, with one event; a discarded step is composed again for the same rows and chunks with the wing's next tag, a Daybook entry and the replay counters, once the power window holds its shape or it is a fixed-shape step (R158, R173, R208, R213, R224, R225, R375, R378; log entry 120). -/
def Obligations.WingsComposeAndIssue : Prop :=
  (
    ∀ (w : Fin 4) (s : State), s.dead = false →
      (∀ t run, (s.wingAt w.val).composeAt = some t → (s.wingAt w.val).running = some run → t.toNat ≤ s.now →
        (s.wingAt w.val).armedAt.toNat < s.now → s.mayCompose w.val = true →
        exec (.composePoint w) s = .next (if run.discarded = 0 then (s.updWing w.val fun y => { y with composeAt := none }).compose w.val else s))
      ∧ ((s.wingAt w.val).running = none → (s.wingAt w.val).pending = none → (s.wingAt w.val).composed = none → s.kpr.ready = true →
        s.served w.val = true → s.frozen w.val = false → (s.wingAt w.val).stopped = false → s.rings.appliedAt ≠ some s.kpr.ktime →
        ((s.wingAt w.val).fixedEntry ≠ none ∨ s.readyWork w.val ≠ []) →
        exec (.idleCompose w) s = .next (if s.mayCompose w.val then s.compose w.val else if s.active .curator then s else s.wake [.curator])))
  ∧ (
    ∀ (w : Fin 4) (s : State), s.dead = false → s.kpr.halted = false → (s.wingAt w.val).stopped = false → (s.wingAt w.val).pending = none →
      (∀ t, (s.wingAt w.val).composed = some t → s.resetLow = false → (t.gap = 0 ∨ t.planned ≤ s.now + 1) → s.writesDone w.val t = true →
        s.keysDone w.val = true →
        let u := s.updWing w.val fun y => { y with composed := none, pending := some t }
        exec (.descriptor w) s = .next ((u.emit (.descriptor w.val (s.descriptorBeats w.val t))).event
          3 0x20 w.val t.tag.toNat (t.shape.shapeId + (if t.replay then 2 ^ 31 else 0))))
      ∧ ∀ d, (s.wingAt w.val).replayOf = some d → s.kpr.ready = true → s.active .curator = true → (s.wingAt w.val).composed = none →
        (d.fixed = true ∨ s.powerOk w.val d.shape = true) →
        let t : Step := { tag := (s.wingAt w.val).nextTag, shape := d.shape, index := d.index, composeKtime := d.composeKtime, rows := d.rows
                          chunks := d.chunks, replay := true, replayTag := some d.tag, fixed := d.fixed, gap := s.gapTo w.val d.shape
                          planned := s.plannedStart w.val d.shape, replays := d.replays + 1, throttled := s.throttled }
        let u := (s.noiseKeys w.val (s.wingAt w.val).lastRows d.rows).updWing w.val fun y => { y with
          replayOf := none, composed := some t, nextTag := y.nextTag + 1, lastRows := rowHolders d.rows }
        exec (.replay w) s = .next (((u.enterStep w.val t false false [] []).count (1 + w.val) 2 1).ledgerAdd (ledgerWing w.val 2) 1))

/-- STEP_START and STEP_END complete. STEP_START with the pending descriptor's tag makes it the running step, started now, arms the wing's timers, flips a section that waits for it and brings the policy it was composed under into force; with any other tag, or without a descriptor, it is a reserved event, which for the tag of a step that has begun and ended is the model's choice (log entry 111). STEP_END with the running step's tag ends it; for a step known to have begun it changes nothing, and any other tag is a reserved event (R8, R9, R48, R49, R50, R71, R188). -/
def Obligations.StepsStartAndEnd : Prop :=
  ∀ (w : Fin 4) (tag : W16) (s : State), s.dead = false →
    (∀ t, (s.wingAt w.val).pending = some t → (s.wingAt w.val).running = none → t.tag = tag → s.throttled = false →
      let run := { t with started := some s.kpr.ktime }
      let u := s.updWing w.val fun y => ({ y with pending := none, running := some run }).armTimers run s.now
      exec (.stepStart w tag) s = .next ((((if t.sectionNew then u.flip w.val else u).updWing w.val fun y => y.takePolicy t).event 3 0x21 w.val tag.toNat t.shape.shapeId).count (1 + w.val) 1 1))
    ∧ ((∀ t, (s.wingAt w.val).pending = some t → (s.wingAt w.val).running = none → t.tag ≠ tag) →
      exec (.stepStart w tag) s = .next (s.event 3 0x25 w.val tag.toNat (eventHigh 1 tag)))
    ∧ (∀ t, (s.wingAt w.val).running = some t → t.tag = tag → exec (.stepEnd w tag) s = .next (s.endStep w.val t))
    ∧ ((∀ t, (s.wingAt w.val).running = some t → t.tag ≠ tag) → (s.wingAt w.val).begun tag ≠ none → exec (.stepEnd w tag) s = .next s)
    ∧ ((∀ t, (s.wingAt w.val).running = some t → t.tag ≠ tag) → (s.wingAt w.val).begun tag = none →
      exec (.stepEnd w tag) s = .next (s.event 3 0x25 w.val tag.toNat (eventHigh 2 tag)))

/-- FEED_TAKEN, ENERGY, ERROR_UE, EVENT_RESERVED, HUNG and TAIL_OVERRUN complete. The events that name a step: FEED_TAKEN opens the feed gate and counts the stall ticks, ENERGY is kept for the running step and breaches where it exceeds the shape's declared energy, ERROR_UE discards the running step, drops the replay pending behind a step already discarded, and breaches for one that has ended. With a tag of no step that has begun each is a reserved event, as is a word of no defined type (R49, R50, R54, R193, R375). A step that runs 10 µs beyond its period is HUNG: one breach and one report of severity 2, once for the step; a step whose successor's feed words are not sent within 40 µs of its last window is a TAIL_OVERRUN breach (R193, R196). -/
def Obligations.StepEventsAndLateSteps : Prop :=
  (
    ∀ (w : Fin 4) (tag : W16) (info : W32) (s : State), s.dead = false →
      ((s.wingAt w.val).begun tag = none →
        exec (.feedTaken w tag info) s = .next (s.event 3 0x25 w.val tag.toNat (eventHigh 3 tag))
        ∧ exec (.energy w tag info) s = .next (s.event 3 0x25 w.val tag.toNat (eventHigh 4 tag))
        ∧ exec (.errorUe w tag info) s = .next (s.event 3 0x25 w.val tag.toNat (eventHigh 0x10 tag)))
      ∧ (∀ t, (s.wingAt w.val).begun tag = some t →
        (info = 0 → exec (.feedTaken w tag info) s = .next (((s.event 3 0x23 w.val tag.toNat 0).count (1 + w.val) 11 0).updWing w.val fun x =>
          { (x.mapBegun tag fun y => { y with taken := true }) with feedGate := if x.feedGate = some tag then none else x.feedGate }))
        ∧ exec (.energy w tag info) s = .next (
          let u := if t.ended = none then s.updStep w.val tag fun y => { y with energy := some info } else s
          if t.shape.energyUj < info.toNat then u.breach w.val tag brEnergy else u)
        ∧ exec (.errorUe w tag info) s = .next (
          let u := s.event 3 0x24 w.val tag.toNat info.toNat
          if t.ended ≠ none then u.breach w.val tag brLateError else if t.discarded = 0 then u.discardRunning w.val 1 else u.dropReplay w.val))
      ∧ ∀ word : W64, eventTypes.contains (bits word.toNat 63 56) = false →
        exec (.eventReserved w word) s = .next (s.event 3 0x25 w.val (bits word.toNat 47 32) (word.toNat / 2 ^ 32)))
  ∧ (
    (∀ (w : Fin 4) (s : State) (t : Step), s.dead = false → (s.wingAt w.val).running = some t → t.free s = true →
      t.startAt + shapeTicks t.shape + 1000 ≤ s.now →
      exec (.hung w) s = .next (if t.breaches.getLsbD brHung then s
        else (s.breach w.val t.tag brHung).report 0x0004 2 0x03 w.val 255 [t.tag.toNat, t.shape.shapeId]))
    ∧ ∀ (w : Fin 4) (s : State) (t n : Step) (c : W64), s.dead = false →
      ((s.wingAt w.val).running.toList ++ (s.wingAt w.val).tails.reverse).find? (fun t => t.lastClose.isSome) = some t → t.lastClose = some c →
      (s.wingAt w.val).nextFed t = some n → n.fedAt = none → t.discarded = 0 → t.free s = true →
      exec (.tailOverrun w) s = .next (if c.toNat + 4000 ≤ s.now then s.breach w.val t.tag 0x80 else s))

/-! ## Intake, merge, sampling, commit -/

/-- WINDOW_OPEN, WINDOW_CLOSE, CANDIDATE_BURST, SHARD_HEADER and ROW_AREA_FREE complete. A window opens at its tick if the Intake is active, and closes at the end of its CLOSE tick, where a row that lacks headers or bursts discards the running step as incomplete; a burst or a header that arrives while no window is open breaches, a candidate burst that arrives in a window for a row not yet released is stored; a released row whose merge units are all read gives its area back (R51, R182, R193, R229, R238, R239). -/
def Obligations.WindowsTakeCandidates : Prop :=
  (∀ (w : Fin 4) (k : Nat) (s : State) (t : Step) (win : Window), s.dead = false → (s.wingAt w.val).running = some t → t.shape.windows[k]? = some win →
    (s.active .intake = true → t.openWindows.contains k = false → t.closedWindows.contains k = false → t.startAt + win.openAt ≤ s.now →
      exec (.windowOpen w k) s = .next (s.updStep w.val t.tag fun y => { y with openWindows := k :: y.openWindows }))
    ∧ (t.closedWindows.contains k = false → t.closing.contains k = false →
      let u := s.updStep w.val t.tag fun y => { y with
        openWindows := y.openWindows.filter (· != k), closedWindows := k :: y.closedWindows, closing := y.closing.filter (· != k)
        lastClose := if t.closedWindows.length + 1 = t.shape.windows.length then some (BitVec.ofNat 64 (t.startAt + win.closeAt)) else y.lastClose }
      (s.now = t.startAt + win.closeAt →
        exec (.windowClose w k) s = .next (s.updStep w.val t.tag fun y => { y with closing := k :: y.closing }))
      ∧ (t.startAt + win.closeAt < s.now → exec (.windowClose w k) s = .next (s.closeWindow w.val k))
      ∧ s.closeWindow w.val k =
        if t.overlaps s = false ∧ t.discarded = 0 ∧ t.lacksRow win = true then (u.breach w.val t.tag brIncomplete).discardRunning w.val 2 else u))
  ∧ (∀ (s : State) (w k : Nat) (t : Step), (s.wingAt w).running = some t → t.closing = [k] → s.closeDue w = s.closeWindow w k)
  ∧ (∀ (w : Fin 4) (addr : Nat) (data : List Byte) (s : State), s.dead = false → s.cipReady = true →
    exec (.candidateBurst w addr 1 0 data) s = .next (s.beat w.val (decide (addr < intakeBursts s.kpr.size)) [(addr, false, slice data 0 64)])
    ∧ exec (.shardHeader w addr true data) s = .next (s.beat w.val (decide (addr < intakeBursts s.kpr.size)) [(addr, true, slice data 0 64)]))
  ∧ (∀ (w : Nat) (ok : Bool) (bs : List (Nat × Bool × List Byte)) (s : State) (t : Step), (s.wingAt w).running = some t → bs ≠ [] →
    t.windowOpen s = false → s.beat w ok bs = (s.count 9 (8 + w) 1).breach w t.tag brWindow)
  ∧ (∀ (w p : Nat) (bs : List Byte) (s : State) (t : Step) (q : Place), (s.wingAt w).running = some t → t.windowOpen s = true → t.discarded = 0 →
    (t.freeAreas (intakeBursts s.kpr.size)).place (intakeBursts s.kpr.size) p = some q → t.released.contains q.row = false →
    q.burst ≠ q.win.candBursts → SMap.find t.headers (headerKey q.row q.slot q.shard) = none →
    ∃ y, ((s.beat w true [(p, false, bs)]).wingAt w).running = some y ∧ SMap.find y.bursts p = some (slice bs 0 64)
      ∧ y.headers = t.headers ∧ y.released = t.released)
  ∧ ∀ (w : Fin 4) (row : Nat) (s : State) (t : Step), s.dead = false →
    ((s.wingAt w.val).tails ++ (s.wingAt w.val).running.toList).find? (fun t => t.released.contains row && !t.freed.contains row
      && (List.range (t.shape.specWidth + 1)).all fun d => t.read.contains (unitKey row d)) = some t →
    exec (.rowAreaFree w row) s = .next (s.updStep w.val t.tag fun y => { y with
      freed := row :: y.freed, bursts := y.bursts.filter fun b => (offsetIn (intakeBursts s.kpr.size) y.shape row b.1).isNone })

/-- TREE_TAKE, MERGE_RESULT, LANE_DISPATCH, UNIT_SAMPLED and ROW_COMMIT complete. A free tree takes the front of the merge queue and merges its unit; its result goes to the dispatch queue of a step that still counts; the lowest free lane takes the front of the dispatch queue, samples the unit with its row's parameters and key, and stores the outcome under the unit's row and slot (R237, R240, R250, R253, R259, R265, R266). A row whose units are sampled commits its run: the accepted drafts and the token behind them become the job's outcomes, token by token; a row whose request is gone only counts as committed (R18, R269, R270). -/
def Obligations.UnitsMergeSampleAndCommit : Prop :=
  (
    (∀ (tree : Nat) (s : State) (u : MUnit) (rest : List MUnit) (t : Step) (win : Window), s.dead = false → s.path.mergeQueue = u :: rest →
      tree < s.kpr.caps.trees → SMap.find s.path.trees tree = none → s.path.buffered s.now tree < 2 → s.cipReady = true →
      s.unitStep u.wing u.tag = some t → windowOf t.shape u.row = some win → (s.mergeUnit t tree u win).dup = false →
      ∃ v, exec (.treeTake tree) s = .next v ∧ v.path.mergeQueue = rest
        ∧ SMap.find v.path.trees tree = some { unit := u, takenAt := s.kpr.ktime, bound := treeBound (s.unitRecords t u.row u.slot win) (s.mergeUnit t tree u win).km, result := s.mergeUnit t tree u win } ∧ v.mem = s.mem)
    ∧ (∀ (tree : Nat) (s : State) (ts : TreeSt) (t : Step), s.dead = false → SMap.find s.path.trees tree = some ts →
      s.unitStep ts.result.wing ts.result.tag = some t → t.discarded = 0 → ts.result.dup = false → ts.result.tiesCut = 0 →
      let u := ({ s with path := { s.path with trees := SMap.drop s.path.trees tree } }).count 9 1 ((s.now - ts.takenAt.toNat) * 36)
      exec (.mergeResult tree) s = .next { u with path := { u.path with dispatch := handOver s.path.dispatch { ts.result with madeAt := s.kpr.ktime } } })
    ∧ (∀ (lane : Nat) (s : State) (r : MergeRes) (rest : List MergeRes), s.dead = false → s.path.dispatch = r :: rest → lane < s.kpr.caps.lanes →
      SMap.find s.path.lanes lane = none → (∀ l, l < lane → SMap.find s.path.lanes l ≠ none) → s.active .docent = true → s.kpr.halted = false →
      exec (.laneDispatch lane) s = .next (({ s with path := { s.path with
        dispatch := rest, lanes := SMap.put s.path.lanes lane { result := r, takenAt := s.kpr.ktime } } }).count 9 3 ((s.now - r.madeAt.toNat) * 36)))
    ∧ ∀ (lane : Nat) (s : State) (l : LaneSt) (t : Step), s.dead = false → SMap.find s.path.lanes lane = some l →
      s.unitStep l.result.wing l.result.tag = some t → t.discarded = 0 →
      let a := nth t.rows l.result.row {}
      let out := sampleUnit a.sampling a.key (a.inputPos + 1 + l.result.slot) l.result
      noiseMismatch a.sampling l.result = false → out ≠ .noCandidate →
      let u := ({ s with path := { s.path with lanes := SMap.drop s.path.lanes lane } }).count 9 2 ((s.now - l.takenAt.toNat) * 36)
      exec (.unitSampled lane) s = .next (u.updStep l.result.wing l.result.tag fun y => { y with
        units := SMap.put y.units (unitKey l.result.row l.result.slot) out }))
  ∧ (
    ∀ (w : Fin 4) (row : Nat) (s : State) (t : Step) (a : RowAsg), s.dead = false → s.commitRow? w.val row = some (t, a) →
      (s.req? a.acc = none → exec (.rowCommit w row) s =
        .next ((s.updStep w.val t.tag fun y => { y with committed := row :: y.committed }).settle w.val))
      ∧ ∀ r, s.req? a.acc = some r →
        (r.kind ≠ 0 → exec (.rowCommit w row) s = .next (s.commitResult t a r))
        ∧ (r.kind = 0 →
          let run := runOf a.drafts ((List.range (a.drafts.length + 1)).map fun d => SMap.getD t.units (unitKey row d) .discarded)
          let j : CommitJob := { wing := w.val, tag := t.tag, row := row, acc := a.acc, todo := run.1, noCandidate := run.2
                                 stopTokens := a.sampling.stopTokens, maxTokens := a.maxTokens
                                 words := a.draftWords.take (acceptedDrafts run.1 a.drafts), firstPos := reqPosition r, runPos := reqPosition r
                                 replayed := t.replay }
          exec (.rowCommit w row) s = .next (({ s with path := { s.path with jobs := s.path.jobs ++ [j] } }).nextToken a.acc)))

/-- SMP_RESPONSE and KYB_ACK complete. An SMP response with the tag of an outstanding request completes it with the data, or fails it with a status other than 0 (for the reserved codes 4 to 7 that is the model's choice, log entry 104), after its latency is counted; one with any other tag changes nothing. A KYB acknowledgement completes the first operation of its wing and bank: a load of a gallery's stack key counts the wing as loaded, a load of slot 64 lets the wing's requests under that slot go out, an erase takes it off the closing gallery's list (R56, R58, R61, R140, R145). -/
def Obligations.SideBandResponses : Prop :=
  (∀ (tag status : Nat) (data : List Byte) (s : State), s.dead = false →
    (s.path.smp.find? (fun q => decide (q.tag = tag)) = none → exec (.smpResponse tag status data) s = .next s)
    ∧ ∀ q, s.path.smp.find? (fun q => decide (q.tag = tag)) = some q →
      let lat := s.now - q.issued.toNat
      let u := (({ s with path := { s.path with smp := s.path.smp.filter fun x => decide (x.tag ≠ tag) } }).count 9 5 lat).gaugeMax 9 6 lat
      exec (.smpResponse tag status data) s = .next (if status = 0 then u.smpDone q data else u.smpFailed q status).smpFlush)
  ∧ ∀ (w : Fin 4) (target : Bool) (status : BitVec 2) (s : State), s.dead = false →
    (takeFirst (fun (o : KybOp) => decide (o.wing = w.val) && (o.noise == target)) s.path.kyb = none → exec (.kybAck w target status) s = .next s)
    ∧ ∀ o rest, takeFirst (fun (o : KybOp) => decide (o.wing = w.val) && (o.noise == target)) s.path.kyb = some (o, rest) →
      let u := { s with path := { s.path with kyb := rest } }
      (o.noise = true → exec (.kybAck w target status) s = .next u)
      ∧ (o.noise = false → o.slot < 64 → o.op ≠ 0 →
        exec (.kybAck w target status) s = .next (u.updGal o.slot fun x => { x with erasing := x.erasing.filter (· != o.wing) }))
      ∧ (o.noise = false → o.slot < 64 → o.op = 0 → ∃ v, exec (.kybAck w target status) s = .next v
        ∧ o.wing ∈ (v.galAt o.slot).loaded)
      ∧ (o.noise = false → 64 ≤ o.slot → o.op = 0 → ∃ v, exec (.kybAck w target status) s = .next v ∧ o.wing ∈ v.path.ctlLoaded)
      ∧ (o.noise = false → 64 ≤ o.slot → o.op ≠ 0 → exec (.kybAck w target status) s = .next u)

/-! ## Records -/

/-- RECORD_SEAL, RECORD_RELEASE, RELEASE_TICK, RESULT_GROUP and FEED_STREAM complete. The records of a request that were made before this tick are sealed in one act, and its mirror record goes out unless the wing's drop count is still being read; sealed records that may be released are written to the ring in order; the rows of a fixed-shape step whose release tick is reached take their turns; a result is read and sealed group by group, and a result without bytes ends with its final record alone (R18, R19, R155, R303, R309, R312, R359). The feed stream of the next step: the words of its rows are prepared where they are final, and while the gate is not shut by the stream before, the beats whose words are final go out in order, four words to a beat, and the gate is shut to the next stream (R53, R54, R276, R313, R314, R315). -/
def Obligations.RecordsAndFeedStreams : Prop :=
  (
    (∀ (acc : W32) (s : State) (o : OutRec) (os : List OutRec), s.dead = false →
      (s.path.records.filter fun o => decide (o.acc = acc.toNat) && !o.sealed && decide (o.madeAt.toNat < s.now)) = o :: os →
      exec (.recordSeal acc) s = .next (
        let u := (o :: os).foldl State.sealRecord s
        if u.statusRead o.wing then u else u.sendCommit acc.toNat))
    ∧ (∀ (acc : W32) (s : State), s.dead = false →
      exec (.recordRelease acc) s = .next ((s.recordsOf acc.toNat).foldl
        (fun t o => if t.mayRelease o = true ∧ t.awaitsTurn o = false then t.releaseOne o (t.heldBefore o) else t) s))
    ∧ (∀ (w : Fin 4) (s : State) (t : Step), s.dead = false → s.releaseDue w.val = some t →
      exec (.releaseTick w) s = .next ((List.range t.shape.rows).foldl (fun u r => u.rowTurn w.val t r)
        (s.updStep w.val t.tag fun y => { y with releaseDone := true })))
    ∧ ∀ (acc : W32) (s : State) (j : ResultJob) (r : Req), s.dead = false → SMap.find s.path.results acc.toNat = some j → s.req? acc.toNat = some r →
      j.reading = false → (∀ o ∈ s.path.records, o.acc ≠ acc.toNat) →
      (j.length = none → exec (.resultGroup acc) s = .next (s.readResult r j))
      ∧ (j.length = some 0 → exec (.resultGroup acc) s = .next (State.tokenlessFinal
        { s with path := { s.path with results := SMap.drop s.path.results acc.toNat } } acc.toNat r.reason))
      ∧ ∀ n, j.length = some n → n ≠ 0 → s.ringRoom r.gallery (1 + ceilDiv j.groupLength 64) = true →
        exec (.resultGroup acc) s = .next (if j.buf.length < j.groupLength then s.readResult r j else s.sealResult r j))
  ∧ (
    (∀ (w : Fin 4) (s : State) (t t1 : Step), s.dead = false → (s.wingAt w.val).feedStep = some t →
      let u := t.rows.foldl (fun u a => u.prepareRow w.val t.tag a) s
      (u.wingAt w.val).feedStep = some t1 → u.kpr.halted = false →
      (((u.wingAt w.val).feedGate = none ∨ (u.wingAt w.val).feedGate = some t1.tag) → (t1.fedWhole = true ∨ t1.fedBeats < t1.finalBeats) →
        exec (.feedStream w) s = .next (u.sendFeed w.val t1))
      ∧ ((∃ g, (u.wingAt w.val).feedGate = some g ∧ g ≠ t1.tag) → exec (.feedStream w) s = .next u))
    ∧ ∀ (s : State) (w : Nat) (t : Step), ((s.sendFeed w t).wingAt w).feedGate = some t.tag ∧ (s.sendFeed w t).mem = s.mem
      ∧ (s.sendFeed w t).outs = .feed w t.tag (((List.range t.finalBeats).drop t.fedBeats).map
          (feedBeat (t.feedOn s.kpr.ktime).feedWords)) :: s.outs)

/-! ## Deadlines -/

/-- DEADLINE_FIRED, FAR_LIST_SCAN and THROTTLE_END complete. A deadline of the wheel that has passed and is the next in the wheel's order, the earliest, the lowest slot among equals, leaves the wheel, the request's next deadline takes its place, and the request is asked to end with reason 5 if its completion deadline has passed; the scan every 4,096 µs brings entries within 4,095 µs of their deadline off the far list; a throttling period ends 1,000 µs after the last report that carried THROTTLING (R72, R171, R201). The last figure holds though telemetry stops, which is the model's reading (log entry 32). -/
def Obligations.DeadlinesAndPeriodsEnd : Prop :=
  (∀ (slot : Nat) (s : State) (e : WheelEntry) (r : Req), SMap.find s.reg.wheel slot = some e → s.ownSlot slot = some r → e.far = false →
    passed s.nowUs e.deadline = true →
    (s.nextFired ≠ some slot → exec (.deadlineFired slot) s = .next s)
    ∧ (s.nextFired = some slot →
    let u := (State.armWheel { s with reg := { s.reg with wheel := SMap.drop s.reg.wheel slot } } r.acc).wake [.control]
    ((∀ d, r.completion = some d → passed s.nowUs d = false) → exec (.deadlineFired slot) s = .next u)
    ∧ ∀ d, r.completion = some d → passed s.nowUs d = true → exec (.deadlineFired slot) s = .next (u.askDeaccession r.acc 5)))
  ∧ (∀ s : State, s.reg.farScan + 4096 ≤ s.nowUs → exec .farListScan s = .next { s with reg := { s.reg with
      farScan := s.nowUs
      wheel := s.reg.wheel.map fun e =>
        (e.1, if passed s.nowUs e.2.deadline || decide (ahead s.nowUs e.2.deadline ≤ 4095) then { e.2 with far := false } else e.2) } })
  ∧ (∀ s : State, s.nowUs < s.reg.farScan + 4096 → exec .farListScan s = .next s)
  ∧ ∀ s : State, s.cap.inPeriod = true → exec .throttleEnd s =
      .next (if s.cap.throttleAt.toNat + 100000 ≤ s.now then { s with cap := { s.cap with inPeriod := false } } else s)

/-! ## Heartbeats and the pair -/

/-- HEARTBEAT_TX, HEARTBEAT, ECHO, FAILURE and YIELD complete. A heartbeat goes out every 100 µs with the next HSEQ and KTIME's low 16 bits, and is a YIELD from a yielded member whose steps are done; a partner's heartbeat is echoed with the time since its own send; an echo that answers the last heartbeat, where the partner's own left within 100 µs of it, gives an exchange; FAILURE is a detected failure; YIELD is a takeover while PAIRED, JOINING or FENCING, and the side rule while YIELDED. Each counts as a frame heard, and a frame of a partner that goes on has a waiting fence withdrawn behind its tick (R341 to R345, R361 to R363, R371). -/
def Obligations.HeartbeatsAreExchanged : Prop :=
  (∀ s : State, s.beats = true → s.now % 10000 = 0 → (∀ h t, s.pair.sentAt = some (h, t) → t ≠ s.kpr.ktime) →
    exec .heartbeatTx s = .next (State.emit { s with pair := { s.pair with hseq := s.pair.hseq + 1, sentAt := some (s.pair.hseq + 1, s.kpr.ktime) } }
      (.heartbeat (beatFrame (if s.pair.state = .yielded ∧ s.yieldDone = true then 4 else 1) (s.pair.hseq + 1).toNat (s.now % 2 ^ 16)))))
  ∧ (∀ (frame : W64) (s : State), s.heard frame 1 = true →
    let e := (s.now % 2 ^ 16 + 2 ^ 16 - beatValue frame) % 2 ^ 16
    let u := State.count { s with pair := { s.pair with lastFrame := some s.kpr.ktime, withdrawDue := true } } 8 4 1
    exec (.grvHeartbeat frame) s = .next (State.emit { u with pair := { u.pair with ownEcho := some (e, s.kpr.ktime) } }
      (.heartbeat (beatFrame 2 (beatSeq frame) e))))
  ∧ (∀ (frame : W64) (h : BitVec 12) (sent came : W64) (eO : Nat) (s : State), s.heard frame 2 = true →
    s.pair.sentAt = some (h, sent) → s.pair.ownEcho = some (eO, came) →
    let u : State := { s with pair := { s.pair with lastFrame := some s.kpr.ktime, withdrawDue := true } }
    let trip := (beatValue frame + eO) % 2 ^ 16
    let left := came.toNat - trip / 2
    (h.toNat = beatSeq frame → sent.toNat ≤ left + 10000 → left ≤ sent.toNat + 10000 →
      exec (.grvEcho frame) s = .next (u.exchange (rawOffset s.pair.theta (beatValue frame) eO) trip))
    ∧ (h.toNat ≠ beatSeq frame ∨ left + 10000 < sent.toNat ∨ sent.toNat + 10000 < left → exec (.grvEcho frame) s = .next u))
  ∧ (∀ (frame : W64) (s : State), s.heard frame 3 = true → exec (.grvFailure frame) s = .next s.noteFrame.detectFailure)
  ∧ ∀ (frame : W64) (s : State), s.heard frame 4 = true →
    ((s.pair.state = .paired ∨ s.pair.state = .joining ∨ s.pair.state = .fencing) → exec (.grvYield frame) s = .next s.noteFrame.enterTakeover)
    ∧ (s.pair.state = .yielded → exec (.grvYield frame) s = .next (if s.side = 0 then s.noteFrame.setPair .alone else s.noteFrame))
    ∧ (s.pair.state = .alone → exec (.grvYield frame) s = .next s.noteFrame)

/-- HEARTBEAT_TIMEOUT, FENCE_TIMEOUT and HELLO_TIMEOUT complete. A partner unheard of for 310 µs while PAIRED or JOINING is a failure: FENCING begins, the fence is requested and the journal opens at phase 1; 5 ms without a confirmation end in DEGRADED behind the tick, unless a confirmation of that tick has gone before or frames that came have the fence withdrawn, and FENCE_REQ then stays up; a HELLO unanswered for 100 ms ends the join with PAIR_DEGRADED (R65, R88, R341, R351, R361, R362, R371). -/
def Obligations.PairTimeouts : Prop :=
  (∀ (s : State) (t : W64), s.pair.lastFrame = some t → exec .heartbeatTimeout s = .next (if t.toNat + 31000 ≤ s.now then s.detectFailure else s))
  ∧ (∀ s : State, (s.pair.state = .paired ∨ s.pair.state = .joining) →
    s.detectFailure.pair.state = .fencing ∧ s.detectFailure.kpr.fenceReq = true ∧ s.detectFailure.pair.journal = some (1, s.kpr.ktime)
      ∧ s.detectFailure.pair.before = s.pair.state)
  ∧ (∀ s : State, s.pair.state ≠ .paired → s.pair.state ≠ .joining → s.detectFailure = s)
  ∧ (∀ s : State, s.pair.state = .fencing → exec .fenceTimeout s = .next (
      if s.pair.detectedAt.toNat + 500000 ≤ s.now then { s with pair := { s.pair with expireDue := true } } else s))
  ∧ (∀ s : State, s.pair.state ≠ .fencing → exec .fenceTimeout s = .next s)
  ∧ (∀ s : State, s.pair.withdrawDue = false →
    let u : State := { s with pair := { s.pair with expireDue := false } }
    (s.pair.expireDue = true → s.pair.state = .fencing → s.fenceTick = u.enterDegraded ∧ s.fenceTick.kpr.fenceReq = s.kpr.fenceReq)
    ∧ (s.pair.expireDue = false ∨ s.pair.state ≠ .fencing → s.fenceTick = u))
  ∧ (∀ s : State, s.pair.withdrawDue = true → s.kpr.fenceReq = true →
    s.fenceTick.kpr.fenceReq = false ∧ s.fenceTick.pair.journal = none
      ∧ (s.pair.state = .fencing → s.fenceTick.pair.state = s.pair.before) ∧ (s.pair.state ≠ .fencing → s.fenceTick.pair.state = s.pair.state))
  ∧ ∀ (s : State) (t : W64), s.dead = false → s.pair.helloSent = some t → s.pair.state = .joining → s.pair.session = false →
    exec .helloTimeout s = .next (if t.toNat + 10000000 ≤ s.now then s.failJoin stPairDegraded else s)

/-- ACK_TIMER and RESEND complete. Every frame sent goes out as its bytes, with its FSEQ and the ACKED of now, and is kept until it is acknowledged; an acknowledgement alone goes out 5 µs after the last frame where one is owed, and all kept frames go out again, in order, 20 µs after ACKED last moved, in the pair's session and in the recovery session alike (R346, R347, R350). A data frame that is intact and next in FSEQ is taken: ACKED advances, its FSEQ is the last applied, and its effect is made; one that is damaged, out of order or outside a session counts as dropped and changes nothing else; one that finds the Registrar asleep wakes it and is left to the resend (R347; the last is the model's reading, log entry 40). -/
def Obligations.FramesAreKeptAndTakenInOrder : Prop :=
  (
    (∀ (s : State) (p : FrameOut), ∃ t, s.sendFrame p = t ∧ t.pair.kept = s.pair.kept ++ [{ fseq := s.pair.fseqNext, payload := p }]
      ∧ t.pair.fseqNext = s.pair.fseqNext + 1 ∧ t.mem = s.mem
      ∧ t.outs = .frame (frameBytes (s.directionKey s.side) s.side p s.pair.fseqNext s.ackValue) :: s.outs)
    ∧ (∀ s : State, s.dead = false →
      (s.pair.recov.applied ≤ s.pair.recov.ackSent → s.pair.session = true → s.pair.ackSent < s.ackValue → s.pair.ackSentAt.toNat + 500 ≤ s.now →
        exec .ackTimer s = .next (s.sendFrame .ack))
      ∧ (s.pair.session = false → s.power.linkUp = true → s.pair.recov.ackSent < s.pair.recov.applied → s.pair.recov.ackSentAt.toNat + 500 ≤ s.now →
        exec .ackTimer s = .next (s.sendRecovery .ack)))
    ∧ (∀ (s : State) (k : KeptFrame) (ks : List KeptFrame), s.dead = false → s.pair.recov.kept = [] →
      s.pair.kept = k :: ks → s.pair.ackMovedAt.toNat + 2000 ≤ s.now →
      let u := (k :: ks).foldl (fun t f => t.emit (.frame (s.ownFrame f.payload f.fseq s.ackValue))) s
      exec .resend s = .next (({ u with pair := { u.pair with ackMovedAt := s.kpr.ktime } }.count 8 2 (ks.length + 1)).event
        11 0x69 noWing (ks.length + 1) k.fseq))
    ∧ ∀ s : State, s.dead = false → s.power.linkUp = true → s.pair.kept = [] → s.pair.recov.kept ≠ [] → s.pair.recov.ackMovedAt.toNat + 2000 ≤ s.now →
      let u := s.pair.recov.kept.foldl (fun t f => t.emit (.frame (s.ownFrame f.payload f.fseq s.pair.recov.applied))) s
      exec .resend s = .next { u with pair := { u.pair with recov := { s.pair.recov with ackMovedAt := s.kpr.ktime } } })
  ∧ (
    ∀ (hdr : FrameHdr) (p : FrameOut) (effect : State → State) (s : State), s.dead = false →
      (s.active .registrar = true → s.pair.session = true → s.intact hdr p = true → hdr.fseq = s.pair.applied + 1 →
        let u := s.ackAdvance hdr.acked
        let v := effect { u with pair := { u.pair with applied := hdr.fseq, applying := hdr.fseq } }
        s.receive hdr p effect = { v with pair := { v.pair with applying := 0 } })
      ∧ (s.active .registrar = true → (s.pair.session = false ∨ s.intact hdr p = false ∨ hdr.fseq ≠ s.pair.applied + 1) →
        s.receive hdr p effect = s.count 8 3 1)
      ∧ (s.active .registrar = false → s.receive hdr p effect = s.wake []))

/-- ACK, TIME, REC, BULK, HANDBACK, GALLERY, COUNTER, CATALOGUE and LEAVE complete. When such a data frame is taken, TIME answers or settles the offset from an exchange at full width, REC and BULK update the mirror half, HANDBACK gives a record home, ACK does nothing more; GALLERY applies the partner's act, an aid at the place the partner gave it, COUNTER raises the gallery's last counter, never lowers it, CATALOGUE takes the partner's commit where the digests agree, LEAVE goes to ALONE (R340, R341, R344, R345, R347, R349, R352, R353, R355). An opening that this member closed while no session stood is not opened again (the model's choice, log entry 106). -/
def Obligations.FramesHaveTheirEffect : Prop :=
  ∀ (hdr : FrameHdr) (s : State),
    exec (.grvAck hdr) s = .next (s.receive hdr .ack id)
    ∧ (∀ sent, exec (.grvTime hdr sent 0 0) s = .next (s.receive hdr (.time sent 0 0) fun t => t.sendFrame (.time t.kpr.ktime sent t.kpr.ktime)))
    ∧ (∀ sent a b, (a ≠ 0 ∨ b ≠ 0) → exec (.grvTime hdr sent a b) s = .next (s.receive hdr (.time sent a b) fun t =>
        let eP : Int := b.toNat - a.toNat
        let eO : Int := t.now - sent.toNat
        { t with pair := { t.pair with theta := eP - eO, thetaKnown := true, exchanges := [(eP - eO, (eP + eO).toNat)] } }))
    ∧ (∀ r, exec (.grvRec hdr r) s = .next (s.receive hdr (.rec_ r) fun t => t.applyRec r false))
    ∧ (∀ r, exec (.grvBulk hdr r) s = .next (s.receive hdr (.bulk r) fun t => t.applyRec r true))
    ∧ (∀ r, exec (.grvHandback hdr r) s = .next (s.receive hdr (.handback r) fun t => t.takeBack r))
    ∧ (∀ g act, exec (.grvGallery hdr g act) s = .next (s.receive hdr (.gallery g act) fun t => match act with
        | .open_ policy gen keys =>
          if (t.galAt g).closedAlone = true ∧ (t.galAt g).gen.toNat = gen then t else t.openGallery g policy gen keys
        | .rekey keyGen keys => t.installRekey g keyGen keys
        | .close => t.closeGallery g
        | .aid n seg base maskBase => ((t.applySeg g n seg (some (base, maskBase))).getD t).markTold g n true))
    ∧ (∀ g ctr, exec (.grvCounter hdr g ctr) s = .next (s.receive hdr (.counter g ctr) fun t => t.updGal g fun x => { x with
        lastCtr := BitVec.ofNat 64 (max x.lastCtr.toNat ctr) }))
    ∧ (∀ w n digest sig, exec (.grvCatalogue hdr (.commit w n digest sig)) s = .next (s.receive hdr (.catalogue (.commit w n digest sig)) fun t =>
        match (t.wingAt w).stagedEntries n with
        | some es => if catalogueDigest w es = digest then t.acceptCommit w es sig none else t
        | none => t))
    ∧ (∀ w i digest entry, exec (.grvCatalogue hdr (.restore w i digest entry)) s =
        .next (s.receive hdr (.catalogue (.restore w i digest entry)) fun t =>
        let es := setNth (t.wingAt w).committed i entry
        if catalogueDigest w es = digest then
          t.updWing w fun x => { x with committed := es }.updShape (shapeKey entry) fun y => { y with lost := false }
        else t))
    ∧ exec (.grvLeave hdr) s = .next (s.receive hdr .leave State.leave)

/-- HELLO and IMAGE complete. The first frame of a session is a HELLO: one that is intact, with FSEQ 1, outside a session is kept for the join and meets it; any other counts as dropped. An image request opens a recovery session and is answered by a side that runs its image with that image in chunks of 65,536 bytes, numbered from 0, each a frame of that session kept until it is acknowledged; a chunk in sequence is acknowledged and assembled by a side that lacks its own. A recovery frame while no link is up does nothing (R347, R350, R351; that a request opens the session anew is the model's choice, log entry 105). -/
def Obligations.HelloAndImageFrames : Prop :=
  (∀ (hdr : FrameHdr) (h : Hello) (s : State), s.dead = false → s.partner? ≠ none → s.active .registrar = true →
    exec (.grvHello hdr h) s = .next (
      if s.intact hdr (.hello h) = true ∧ hdr.fseq = 1 ∧ s.pair.session = false then
        State.meet { s with pair := { s.pair with helloIn := some (h, hdr.fseq) } }
      else s.count 8 3 1))
  ∧ (∀ (hdr : FrameHdr) (s : State), s.resetLow = false → s.kpr.halted = false → s.power.linkUp = true →
    (∀ i, s.intact hdr (.image .request) = true → s.partner? ≠ none → s.kpr.image = some i → hdr.fseq = 1 → ∃ t,
      exec (.grvImage hdr .request) s = .next t
      ∧ t.pair.recov.applied = 1
      ∧ t.pair.recov.kept.map (·.payload) = ((piecesOf 65536 (ceilDiv (Config.imageBytes i).length 65536) (Config.imageBytes i)).zipIdx).map
          (fun c => FrameOut.image (.chunk c.2 (Config.imageBytes i).length c.1 none))
      ∧ t.pair.recov.kept.map (·.fseq) = (List.range t.pair.recov.kept.length).map (· + 1))
    ∧ (∀ n total data v, s.intact hdr (.image (.chunk n total data v)) = true → s.wantsImage = true → hdr.fseq = s.pair.recov.applied + 1 →
      n = s.pair.imgChunks → data.length ≤ 65536 →
      exec (.grvImage hdr (.chunk n total data v)) s = .next ((s.applyRecovery hdr).imageChunk data.length total v))
    ∧ (s.intact hdr (.image .ack) = true → hdr.fseq = s.pair.recov.applied + 1 → exec (.grvImage hdr .ack) s = .next (s.applyRecovery hdr)))
  ∧ (∀ (hdr : FrameHdr) (s : State), ∃ t, s.applyRecovery hdr = t ∧ t.pair.recov.applied = hdr.fseq
    ∧ (s.pair.recov.acked < hdr.acked → hdr.acked < s.pair.recov.fseqNext →
      t.pair.recov.acked = hdr.acked ∧ t.pair.recov.kept = s.pair.recov.kept.filter fun k => decide (hdr.acked < k.fseq)))
  ∧ ∀ (hdr : FrameHdr) (f : ImageFrame) (s : State), s.power.linkUp = false → exec (.grvImage hdr f) s = .next s

/-- ADOPTION, MIRROR_LATE and COPY_CLEARED complete. Adoption in TAKEOVER takes over the mirror half's records of the partner's side and ends in SURVIVOR; a sealed record not covered within 1 ms while PAIRED is reported once; a page whose copy is cleared is mapped as mirrored (R356, R357, R364, R365). -/
def Obligations.AdoptionAndMirror : Prop :=
  (∀ s : State, s.dead = false → s.pair.state = .takeover → ∃ t, exec .adoption s = .next t ∧ t.pair.state = .survivor)
  ∧ (∀ s : State, s.pair.state ≠ .takeover → exec .adoption s = .next s)
  ∧ (∀ (acc : W32) (seq : Nat) (s : State) (o : OutRec) (r : Req), s.dead = false → s.pair.state = .paired →
    s.path.records.find? (fun o => decide (o.acc = acc.toNat) && decide (o.seq = seq)) = some o → s.req? o.acc = some r → s.awaitsAck r = true →
    (o.mirrorDue = true ∨ s.pair.acked < o.fseq) → o.sealed = true → o.stamp.toNat + 100000 ≤ s.now →
    exec (.mirrorLate acc seq) s = .next (if o.mirrorLate then s
      else (s.updRec o.acc o.seq fun x => { x with mirrorLate := true }).report 0x0008 1 0x0B o.wing o.gallery [o.acc, o.seq]))
  ∧ ∀ (w : Fin 4) (page : Nat) (s : State), s.dead = false → w.val * 2 ^ 32 + page ∈ s.pair.copying →
    exec (.copyCleared w page) s = .next (State.pairProgress { s with pair := { s.pair with
      copying := s.pair.copying.filter (· != w.val * 2 ^ 32 + page)
      mirrorMap := SMap.adjust s.pair.mirrorMap (w.val * 2 ^ 32 + page) fun _ => 2 ^ 31 + s.mapTarget w.val page } })

/-! ## Integrity, maintenance, observation -/

/-- SCRUB_CODEWORD, LAP_LATE and SCRUB_WAKE_DONE complete. The codeword due in its domain's lap is decoded: a clean one changes no count, a corrected one is counted and perhaps marked, an uncorrectable one is reported; the lap moves on by one and ends with its last codeword. A word out of turn is not read (R383, R386, R388, R389, R391). A lap 7/8 of its time old starts a scrub wake of its domain; a scrub wake ends as its last domain's lap does (R386, R387). -/
def Obligations.ScrubbingGoesThroughItsLap : Prop :=
  (∀ (region row cw : Nat) (word : List Byte) (s : State), s.kpr.ready = true → s.dead = false → s.scrubs (regionDomain region) = true → region < 10 →
    row < Config.regionRows s.kpr.size region → cw < 64 → word.length = (if s.byteMode region then 64 else 35) →
    let d := regionDomain region
    (s.lapPlace region row cw = SMap.getD s.integ.lapDone d 0 →
      let u := match (if s.byteMode region then byteModeRead word else s35Read word) with
        | .clean => s
        | .corrected _ => s.corrected region row cw
        | .uncorrectable => s.uncorrectable region row cw
      let v := { u with integ := { u.integ with lapDone := SMap.put u.integ.lapDone d (s.lapPlace region row cw + 1) } }
      exec (.scrubCodeword region row cw word) s = .next (if s.lapPlace region row cw + 1 = s.domainWords d then v.lapDone d else v))
    ∧ (s.lapPlace region row cw ≠ SMap.getD s.integ.lapDone d 0 → exec (.scrubCodeword region row cw word) s = .next s))
  ∧ (∀ (dom : Dom) (s : State), s.kpr.ready = true → s.dead = false → s.domainWords (scrubIndex dom) ≠ 0 →
    s.integ.scrubWake.contains (scrubIndex dom) = false → s.lapStart (scrubIndex dom) + s.lapLimit * 7 / 8 ≤ s.now →
    exec (.lapLate dom) s = .next ((s.startScrub [dom] none).report 0x0014 0 0x09 255 255 [domBit dom, SMap.getD s.integ.lapDone (scrubIndex dom) 0]))
  ∧ ∀ (dom : Dom) (s : State), s.dead = false → s.integ.scrubWake.contains (scrubIndex dom + 8) = true → s.runs 1 none = true →
    let left := s.integ.scrubWake.filter (· != scrubIndex dom + 8)
    let u := { s with integ := { s.integ with scrubWake := left } }
    exec (.scrubWakeDone dom) s = .next (if left = [] then u.endActivity 1 255 stOk else u)

/-- PERIODIC_CHECKPOINT, CHECKPOINT_COMPLETE, ROW_RETIRED, CAPSULE_PROGRAMMED and FIRMWARE_ACTIVATION_DONE complete. A periodic checkpoint joins the waiting starts every 600 s; a checkpoint takes its journal slot, frees the slot behind it, is counted and ends activity 0x02; a retired row is remembered with its spare, reported, counted and ends activity 0x08; a programmed capsule is in both copies, leaves the staging buffer empty and raises vector 14; a programmed firmware image is the archive's, is counted as an activation and resets the block, in a yielded member once its steps are done (R103, R336, R370, R390, R396, R420, R421, R423). -/
def Obligations.MaintenanceCompletes : Prop :=
  (∀ s : State, s.dead = false → s.kpr.ready = true → exec .periodicCheckpoint s = .next (
    if s.ledger.nextPeriodic ≤ s.now then
      { s with ledger := { s.ledger with waiting := s.ledger.waiting ++ [3], nextPeriodic := s.ledger.nextPeriodic + 60000000000 } }
    else s))
  ∧ (∀ (s : State) (slot : Nat) (c : Checkpoint), s.dead = false → s.ledger.running = some (slot, c) →
    ∃ t, exec .checkpointComplete s = .next t ∧ t.ledger.running = none
      ∧ t.ledger.journal = SMap.drop (SMap.put s.ledger.journal slot { c with
          bytes := sealCheckpoint c.seq (setNth (c.bytes.take 28) 20 (BitVec.ofNat 8 s.ledger.cause)) (c.bytes.drop 28) }) ((slot + 1) % 256)
      ∧ t.maint.last = 2 ∧ t.maint.result = stOk)
  ∧ (∀ (s : State) (region row spare : Nat), s.dead = false → s.maint.retire = some (region, row, spare) →
    ∃ t, exec .rowRetired s = .next t ∧ t.maint.retire = none ∧ SMap.find t.integ.retired (region * 2 ^ 17 + row) = some spare
      ∧ SMap.getD t.integ.sparesUsed region 0 = spare + 1 ∧ t.maint.last = 8 ∧ t.maint.result = stOk)
  ∧ (∀ (s : State) (c : Capsule), s.dead = false → s.maint.capNext = some c → ∃ t, exec .capsuleProgrammed s = .next t
    ∧ t.maint = { s.maint with
        capNext := none, capStage := [], capTotal := 0
        flash := { s.maint.flash with capsule0 := .holds c, capsule1 := .holds c } } ∧ t.kpr.irqPending = s.kpr.irqPending ||| 0x4000#16)
  ∧ ∀ (s : State) (i : ImageInfo), s.maint.fwImage = some i → s.maint.fwProgram = true → s.dead = false → (s.pair.state ≠ .yielded ∨ s.yieldDone = true) →
    let u := s.countActivation i
    exec .firmwareActivationDone s = .next (State.internalReset { u with maint := { u.maint with
      fwProgram := false, flash := { u.maint.flash with image := .holds i } } } 2)

/-- SNAPSHOT_TICK, SNAPSHOT_TAKEN and FREEZE_COMPLETE complete. An armed snapshot is taken at its tick: its copy is queued in every delay class and SNAP_VALID falls; seven ticks later its identity, tick and freeze mark are in the snapshot registers, SNAP_VALID is set and one Keeper event is written, and in the tick behind it the Keeper's snapshot cause is raised. A freeze that waits completes once every held wing is quiet, and arms a snapshot for two ticks on (R402, R404, R410, R432). -/
def Obligations.SnapshotsAreTaken : Prop :=
  (∀ (s : State) (a : Armed), s.cnt.armed = some a →
    (s.now < a.tick.toNat → exec .snapshotTick s = .next s)
    ∧ (a.tick.toNat ≤ s.now → exec .snapshotTick s = .next { s with cnt := { s.cnt with
        armed := none, taking := some { a with tick := s.kpr.ktime }, snapValid := false, lastTick := some s.kpr.ktime
        queue := s.cnt.queue ++ delayClasses.map fun d => { event := s.now, due := s.now + d, op := .copy d } } }))
  ∧ (∀ (s : State) (a : Armed), s.cnt.taking = some a → a.tick.toNat + 7 ≤ s.now → ∃ t, exec .snapshotTaken s = .next t
    ∧ t.cnt.snapValid = true ∧ t.cnt.snapId = a.id ∧ t.cnt.snapKtime = a.tick ∧ t.cnt.snapFreeze = a.freeze ∧ t.cnt.taking = none
    ∧ t.cnt.snapDue = true ∧ t.cnt.shadowId = (List.range 10).map (fun g => (g, a.id))
    ∧ (Memory.wf s.mem = true → ∀ x, (x < evrBase 8 ∨ evrBase 8 + 0x1000 ≤ x) → Memory.read t.mem x = Memory.read s.mem x))
  ∧ (∀ s : State, s.cnt.snapDue = true → s.announceSnapshot.kpr.irqKeeper = s.kpr.irqKeeper ||| 2
    ∧ s.announceSnapshot.kpr.irqPending = s.kpr.irqPending ||| 0x8000#16 ∧ s.announceSnapshot.cnt.snapDue = false)
  ∧ ∀ s : State, s.dead = false → s.cnt.freezeDue = true → (∀ w, w < 4 → s.frozen w = true → s.wingQuiet w = true) →
    exec .freezeComplete s = .next { s with cnt := { s.cnt with
      lastId := s.cnt.lastId + 1, frozen := s.cnt.holding, freezeDue := false
      armed := some { id := s.cnt.lastId + 1, tick := BitVec.ofNat 64 (s.snapTick (s.now + 2)), freeze := true } } }

/-- LOCKSTEP, COMPOSE_OVERRUN, TREE_OVERRUN and LANE_OVERRUN complete. A lockstep mismatch soft resets the Control domain with a report of severity 1; the second within one second is of severity 2, sends FAILURE to the partner and halts with 0x06. A composition 40 µs late resets the Curator, a merge four times its bound the Intake, a lane four times its bound the Docent; each reset reports 0x0023 (R343, R373, R374, R393). -/
def Obligations.OwnResets : Prop :=
  (∀ (pairB : Bool) (s : State), s.active .control = true → s.dead = false →
    let u := { s with integ := { s.integ with lockstepAt := some s.kpr.ktime } }
    let fail := fun n => (((u.ledgerAdd 11 1).count 6 13 1).report 0x0020 n 0x0A 255 255 [b2n pairB, n]).ownReset .control 0x0A 1
    ((∀ t, s.integ.lockstepAt = some t → 100000000 < s.now - t.toNat) → exec (.lockstep pairB) s = .next (fail 1))
    ∧ ∀ t, s.integ.lockstepAt = some t → s.now - t.toNat ≤ 100000000 →
      let v := (fail 2).sendFailure 0x06
      exec (.lockstep pairB) s = .next { v with kpr := { v.kpr with haltCode := 0x06 } })
  ∧ (∀ (s : State) (code : Nat), s.partner? ≠ none → s.kpr.ready = true →
    (s.sendFailure code).outs = .heartbeat (beatFrame 3 (s.pair.hseq + 1).toNat code) :: s.outs)
  ∧ (∀ (w : Fin 4) (s : State) (t : W64), s.active .curator = true → s.dead = false → (s.wingAt w.val).composed = none →
    (s.wingAt w.val).composeAt = some t → s.composeDue w.val = true →
    exec (.composeOverrun w) s = .next (if t.toNat + 4000 ≤ s.now then s.ownReset .curator 0x03 2 else s))
  ∧ (∀ (w : Fin 4) (s : State) (t : Step), s.active .curator = true → s.dead = false → (s.wingAt w.val).composed = some t → t.replay = false →
    (s.writesDone w.val t = false ∨ s.keysDone w.val = false) →
    exec (.composeOverrun w) s = .next (if t.composeKtime.toNat + 4000 ≤ s.now then s.ownReset .curator 0x03 2 else s))
  ∧ (∀ (tree : Nat) (s : State) (ts : TreeSt), s.active .intake = true → s.dead = false → SMap.find s.path.trees tree = some ts →
    exec (.treeOverrun tree) s = .next (if 4 * ts.bound ≤ (s.now - ts.takenAt.toNat) * 36 then s.ownReset .intake 0x04 3 else s))
  ∧ (∀ (lane : Nat) (s : State) (l : LaneSt) (t : Step), s.active .docent = true → s.dead = false → SMap.find s.path.lanes lane = some l →
    s.unitStep l.result.wing l.result.tag = some t →
    exec (.laneOverrun lane) s = .next (
      if 4 * laneBound (nth t.rows l.result.row {}).sampling l.result ≤ (s.now - l.takenAt.toNat) * 36 then s.ownReset .docent 0x06 4 else s))
  ∧ ∀ (s : State) (d : Dom) (unit cause : Nat), s.ownReset d unit cause = (s.softReset d).report 0x0023 1 unit 255 255 [domBit d, cause]

/-- WS_BYPASS, WS_EXTEST, WS_INTEST_SCAN, WS_MBIST and WS_STATUS complete. BYPASS and WS_STATUS are taken in every state; EXTEST is taken while POR_N or BLK_RST_N is low, INTEST_SCAN while halted or POR_N is low, MBIST while POR_N is low, and the bypass stands in their place otherwise; WS_STATUS puts the Keeper's status out and changes no data; leaving one that disturbed the block resets it with CAUSE 2, where no reset pin is low (R444, R445; while one is low that pin's reset is in force, R67). -/
def Obligations.WrapperInstructions : Prop :=
  (∀ s : State, s.kpr.wrapper = 0 →
    exec .wsBypass s = .next (s.emit (.wrapper 0))
    ∧ exec (.wsExtest false) s = .next (if s.kpr.porLow = true ∨ s.kpr.blkLow = true then
        State.emit { s with kpr := { s.kpr with wrapper := 1 } } (.wrapper 1) else s.emit (.wrapper 0))
    ∧ exec (.wsIntestScan false) s = .next (if s.kpr.halted = true ∨ s.kpr.porLow = true then
        State.emit { s with kpr := { s.kpr with wrapper := 2 } } (.wrapper 2) else s.emit (.wrapper 0))
    ∧ exec (.wsMbist false) s = .next (if s.kpr.porLow = true then
        State.emit { s with kpr := { s.kpr with wrapper := 3 } } (.wrapper 3) else s.emit (.wrapper 0))
    ∧ exec (.wsExtest true) s = .next s ∧ exec (.wsIntestScan true) s = .next s ∧ exec (.wsMbist true) s = .next s)
  ∧ (∀ s : State,
    let u : State := { s with kpr := { s.kpr with wrapper := 0 } }
    let left := .next ((if s.resetLow = true then u else u.internalReset 2).emit (.wrapper 0))
    (s.kpr.wrapper = 1 → exec (.wsExtest true) s = left) ∧ (s.kpr.wrapper = 2 → exec (.wsIntestScan true) s = left)
      ∧ (s.kpr.wrapper = 3 → exec (.wsMbist true) s = left))
  ∧ ∀ s : State, s.kpr.wrapper = 0 →
    exec .wsStatus s = .next ((State.emit { s with kpr := { s.kpr with wrapper := 4 } } (.wrapper 4)).emit (.wrapper s.wrapperStatus))

/-! ## Frames -/

/-- What an event, a count and a report leave: a Keeper event goes to ring 8 at once, any other only into the queue of its delay, and where it reaches its ring it is the 16 bytes at that ring's next place and nothing else of memory changes; a count changes no memory, a report none outside the condition ring and ring 8, where a halt that it triggers is noted; and none of them changes the galleries, the requests, the wings, the data path, the pair, the mailboxes, maintenance or the command queue (R395, R399, R402, R405, R406). -/
def Obligations.NoticesTouchOnlyTheirRings : Prop :=
  (∀ (s : State) (n code wing arg0 arg1 : Nat), Memory.wf s.mem = true →
    let t := s.event n code wing arg0 arg1
    (n ≠ 8 → t.mem = s.mem ∧ t.sec = s.sec)
    ∧ (∀ a, (a < evrBase 8 ∨ evrBase 8 + 0x1000 ≤ a) → Memory.read t.mem a = Memory.read s.mem a)
    ∧ t.galleries = s.galleries ∧ t.reg = s.reg ∧ t.wings = s.wings ∧ t.path = s.path ∧ t.pair = s.pair ∧ t.mbx = s.mbx ∧ t.maint = s.maint
    ∧ t.kpr = s.kpr ∧ t.logs = s.logs ∧ t.ledger = s.ledger ∧ t.rings = s.rings ∧ t.pending = s.pending)
  ∧ (∀ (s : State) (n : Nat) (bs : List Byte), Memory.wf s.mem = true → bs.length = 16 →
    let t := s.writeEvent n bs
    let at_ := evrBase n + ((SMap.getD s.cnt.evrCount n 0).toNat % 256) * 16
    (∀ i, i < 16 → Memory.read t.mem (at_ + i) = nth bs i 0)
    ∧ (∀ a, (a < at_ ∨ at_ + 16 ≤ a) → Memory.read t.mem a = Memory.read s.mem a)
    ∧ SMap.getD t.cnt.evrCount n 0 = SMap.getD s.cnt.evrCount n 0 + 1 ∧ t.kpr = s.kpr ∧ t.logs = s.logs ∧ t.rings = s.rings)
  ∧ (∀ (s : State) (g i n : Nat), ∃ q, s.count g i n = { s with cnt := { s.cnt with queue := s.cnt.queue ++ q } })
  ∧ ∀ (s : State) (code sev unit wing gal : Nat) (detail : List Nat), Memory.wf s.mem = true →
    let t := s.report code sev unit wing gal detail
    (∀ a, (a < 0x600000 ∨ 0x610000 ≤ a) → (a < evrBase 8 ∨ evrBase 8 + 0x1000 ≤ a) → Memory.read t.mem a = Memory.read s.mem a)
    ∧ t.galleries = s.galleries ∧ t.reg = s.reg ∧ t.wings = s.wings ∧ t.path = s.path ∧ t.pair = s.pair ∧ t.mbx = s.mbx ∧ t.maint = s.maint
    ∧ t.ledger = s.ledger ∧ t.rings = s.rings ∧ t.pending = s.pending

/-- The frame of the commands that store nothing: clock and switch acknowledgements, the end of a domain's power, the wake timers, the far-list scan, the end of a throttling period, the snapshot and freeze points, the interrupt acknowledgement, the ends of a challenge and of an archive, the heartbeats, the dispatch of a unit to a lane, the mailbox's ends. Every byte of memory, every gallery, request and Ledger entry of a checkpoint's journal, every ring index and every channel stays (R66, R71, R72, R190, R201, R334, R343, R404, R410, R431). -/
def Obligations.QuietCommandsStoreNothing : Prop :=
  ∀ (i : Instr) (s t : State),
    (i ∈ [.fclkAckRise, .fclkAckFall, .farListScan, .throttleEnd, .snapshotTick, .freezeComplete, .irqAck, .challengeExpiry, .catArchiveDone,
        .heartbeatTx, .periodicCheckpoint]
      ∨ (∃ d, i = .pswAckRise d ∨ i = .pswAckFall d ∨ i = .domainPowerDown d) ∨ (∃ w, i = .preWake w ∨ i = .composeWake w)
      ∨ (∃ lane, i = .laneDispatch lane) ∨ (∃ n, i = .mergeResult n) ∨ (∃ w r, i = .rowAreaFree w r)) →
    exec i s = .next t →
    (∀ a, Memory.read t.mem a = Memory.read s.mem a) ∧ t.rings = s.rings ∧ t.mbx = s.mbx ∧ t.galleries = s.galleries
      ∧ t.reg.reqs = s.reg.reqs ∧ t.ledger.journal = s.ledger.journal ∧ t.integ = s.integ ∧ t.cap.capMw = s.cap.capMw ∧ t.logs = s.logs
end

