-- ==== Sys2Proof/Laws/Memory.lean ====
section
/-! SUPPORT. Sparse tables and the byte memory: what a write leaves, and that every operation keeps the canonical form. -/

namespace Sys2Proof

namespace SMap

variable {α : Type}

/-- Every key of the table is above a bound. -/
def above (lo : Nat) (m : SMap α) : Prop := ∀ e ∈ m, lo < e.1

/-- A table in canonical form: each key is below every later key. -/
theorem wf_cons (e : Nat × α) (m : SMap α) : wf (e :: m) = true ↔ above e.1 m ∧ wf m = true := by
  induction m generalizing e with
  | nil => simp [wf, above]
  | cons d m ih =>
    obtain ⟨k, v⟩ := e
    obtain ⟨k', v'⟩ := d
    simp only [wf, Bool.and_eq_true, decide_eq_true_eq, ih, above, List.mem_cons, forall_eq_or_imp]
    constructor
    · rintro ⟨h, ha, hw⟩
      exact ⟨⟨h, fun e he => Nat.lt_trans h (ha e he)⟩, ha, hw⟩
    · rintro ⟨⟨h, _⟩, ha, hw⟩
      exact ⟨h, ha, hw⟩

/-- An entry of a table with a value put is the new one or an old one. -/
theorem mem_put {m : SMap α} {q : Nat} {x : α} {e : Nat × α} (h : e ∈ put m q x) : e = (q, x) ∨ e ∈ m := by
  induction m with
  | nil => simpa [put] using h
  | cons d m ih =>
    obtain ⟨k, v⟩ := d
    simp only [put] at h
    split at h
    · simpa using h
    · split at h
      · rcases List.mem_cons.mp h with h | h
        · exact .inl h
        · exact .inr (List.mem_cons_of_mem _ h)
      · rcases List.mem_cons.mp h with h | h
        · exact .inr (h ▸ List.mem_cons_self)
        · exact (ih h).imp id (List.mem_cons_of_mem _)

/-- Putting a value keeps the canonical form. -/
theorem put_wf {m : SMap α} (h : wf m = true) (q : Nat) (x : α) : wf (put m q x) = true := by
  induction m with
  | nil => rfl
  | cons d m ih =>
    obtain ⟨k, v⟩ := d
    obtain ⟨ha, hw⟩ := (wf_cons _ _).mp h
    simp only [put]
    split
    · rename_i hlt
      exact (wf_cons _ _).mpr ⟨fun e he => by
        rcases List.mem_cons.mp he with he | he
        · exact he ▸ hlt
        · exact Nat.lt_trans hlt (ha e he), h⟩
    · split
      · rename_i heq
        exact (wf_cons _ _).mpr ⟨fun e he => heq ▸ ha e he, hw⟩
      · refine (wf_cons _ _).mpr ⟨fun e he => ?_, ih hw⟩
        rcases mem_put he with he | he
        · subst he; simp only; omega
        · exact ha e he

/-- An entry left by a drop is an old one. -/
theorem mem_drop {m : SMap α} {q : Nat} {e : Nat × α} (h : e ∈ drop m q) : e ∈ m := by
  induction m with
  | nil => exact h
  | cons d m ih =>
    obtain ⟨k, v⟩ := d
    simp only [drop] at h
    split at h
    · exact List.mem_cons_of_mem _ h
    · rcases List.mem_cons.mp h with h | h
      · exact h ▸ List.mem_cons_self
      · exact List.mem_cons_of_mem _ (ih h)

/-- Dropping a key keeps the canonical form. -/
theorem drop_wf {m : SMap α} (h : wf m = true) (q : Nat) : wf (drop m q) = true := by
  induction m with
  | nil => rfl
  | cons d m ih =>
    obtain ⟨k, v⟩ := d
    obtain ⟨ha, hw⟩ := (wf_cons _ _).mp h
    simp only [drop]
    split
    · exact hw
    · exact (wf_cons _ _).mpr ⟨fun e he => ha e (mem_drop he), ih hw⟩

/-- Filtering keeps the canonical form. -/
theorem filter_wf {m : SMap α} (h : wf m = true) (p : Nat × α → Bool) : wf (m.filter p) = true := by
  induction m with
  | nil => rfl
  | cons d m ih =>
    obtain ⟨ha, hw⟩ := (wf_cons _ _).mp h
    simp only [List.filter_cons]
    split
    · exact (wf_cons _ _).mpr ⟨fun e he => ha e (List.mem_filter.mp he).1, ih hw⟩
    · exact ih hw

/-- A value put is found at its key, and every other key keeps its value. -/
theorem find_put (m : SMap α) (q : Nat) (x : α) (a : Nat) :
    find (put m q x) a = if a = q then some x else find m a := by
  induction m with
  | nil =>
    by_cases h : a = q
    · simp [put, find, h]
    · simp [put, find, h, Ne.symm h]
  | cons d m ih =>
    obtain ⟨k, v⟩ := d
    by_cases h : a = q
    · subst h
      simp only [put]
      split
      · simp [find]
      · split
        · simp [find]
        · rename_i hne
          simp [find, ih, Ne.symm hne]
    · simp only [put]
      split
      · simp [find, Ne.symm h]
      · split
        · rename_i heq
          subst heq
          simp [find, Ne.symm h]
        · simp [find, ih, h]

/-- A key above a bound that every entry exceeds is not listed. -/
theorem find_above {m : SMap α} {lo : Nat} (h : above lo m) : find m lo = none := by
  induction m with
  | nil => rfl
  | cons d m ih =>
    obtain ⟨k, v⟩ := d
    have h1 : lo < k := h _ List.mem_cons_self
    simp only [find]
    rw [if_neg (by omega)]
    exact ih fun e he => h e (List.mem_cons_of_mem _ he)

/-- In canonical form a dropped key is not found, and every other key keeps its value. -/
theorem find_drop {m : SMap α} (hw : wf m = true) (q a : Nat) :
    find (drop m q) a = if a = q then none else find m a := by
  induction m with
  | nil => simp [drop, find]
  | cons d m ih =>
    obtain ⟨k, v⟩ := d
    obtain ⟨ha, hm⟩ := (wf_cons _ _).mp hw
    simp only [drop]
    split
    · rename_i hk
      subst hk
      by_cases h : a = k
      · subst h; simpa using find_above ha
      · simp [find, h, Ne.symm h]
    · rename_i hk
      by_cases h : a = q
      · subst h; simp [find, hk, ih hm]
      · simp [find, h, ih hm]

/-- The value read after a modification: the new one at the key, the old one elsewhere. -/
@[simp] theorem getD_modify (m : SMap α) (q : Nat) (d : α) (f : α → α) (a : Nat) :
    getD (modify m q d f) a d = if a = q then f (getD m q d) else getD m a d := by
  simp only [getD, modify, find_put]
  split <;> rfl

end SMap

namespace Memory

/-- Every listed byte is other than 0. -/
def noZero (m : Memory) : Prop := ∀ c ∈ m, c.2 ≠ 0

theorem wf_iff (m : Memory) : wf m = true ↔ SMap.wf m = true ∧ noZero m := by
  simp [wf, noZero]

/-- A byte written keeps the canonical form. -/
theorem write_wf {m : Memory} (h : wf m = true) (a : Nat) (b : Byte) : wf (write m a b) = true := by
  obtain ⟨hw, hz⟩ := (wf_iff m).mp h
  rw [wf_iff]
  unfold write
  split
  · exact ⟨SMap.drop_wf hw a, fun c hc => hz c (SMap.mem_drop hc)⟩
  · rename_i hb
    refine ⟨SMap.put_wf hw a b, fun c hc => ?_⟩
    rcases SMap.mem_put hc with hc | hc
    · exact hc ▸ hb
    · exact hz c hc

/-- Bytes written keep the canonical form. -/
theorem writeBytes_wf {m : Memory} (h : wf m = true) (a : Nat) (bs : List Byte) : wf (writeBytes m a bs) = true := by
  induction bs generalizing m a with
  | nil => exact h
  | cons b bs ih => exact ih (write_wf h a b) (a + 1)

/-- Entries kept by a test are in canonical form. -/
theorem filter_wf {m : Memory} (h : wf m = true) (p : Host.Cell → Bool) : wf (m.filter p) = true := by
  obtain ⟨hw, hz⟩ := (wf_iff m).mp h
  rw [wf_iff]
  exact ⟨SMap.filter_wf hw _, fun c hc => hz c (List.mem_filter.mp hc).1⟩

/-- A range cleared keeps the canonical form. -/
theorem clear_wf {m : Memory} (h : wf m = true) (lo hi : Nat) : wf (clear m lo hi) = true := filter_wf h _

/-- Reading after a write: the byte written at its offset, the old byte elsewhere. -/
theorem read_write {m : Memory} (h : wf m = true) (a : Nat) (b : Byte) (x : Nat) :
    read (write m a b) x = if x = a then b else read m x := by
  obtain ⟨hw, _⟩ := (wf_iff m).mp h
  unfold read write SMap.getD
  split
  · rename_i hb
    rw [SMap.find_drop hw]
    split
    · simp [hb]
    · rfl
  · rw [SMap.find_put]
    split <;> rfl

/-- Bytes written leave every offset outside them as it was. -/
theorem read_writeBytes_other {m : Memory} (h : wf m = true) (a : Nat) (bs : List Byte) (x : Nat)
    (hx : x < a ∨ a + bs.length ≤ x) : read (writeBytes m a bs) x = read m x := by
  induction bs generalizing m a with
  | nil => rfl
  | cons b bs ih =>
    simp only [List.length_cons] at hx
    rw [writeBytes, ih (write_wf h a b) (a + 1) (by omega), read_write h, if_neg (by omega)]

/-- A range cleared reads 0, and every offset outside it as it was. -/
theorem read_clear {m : Memory} (lo hi x : Nat) :
    read (clear m lo hi) x = if lo ≤ x ∧ x < hi then 0 else read m x := by
  unfold read clear SMap.getD
  induction m with
  | nil => simp [SMap.find]
  | cons d m ih =>
    obtain ⟨k, v⟩ := d
    simp only [List.filter_cons]
    split
    · rename_i hk
      simp only [SMap.find]
      by_cases h : k = x
      · subst h
        have : ¬(lo ≤ k ∧ k < hi) := by simp at hk; omega
        simp [this]
      · simp only [h, if_false]; exact ih
    · rename_i hk
      rw [ih]
      simp only [SMap.find]
      by_cases h : k = x
      · subst h
        have : lo ≤ k ∧ k < hi := by simp at hk; omega
        simp [this]
      · simp [h]

end Memory

namespace Machine

/-- Bytes written to a reply ring keep the canonical form. -/
theorem writeRpl_wf {m : Memory} (h : Memory.wf m = true) (i off : Nat) (bs : List Byte) : Memory.wf (writeRpl m i off bs) = true := by
  induction bs generalizing m off with
  | nil => exact h
  | cons b bs ih => exact ih (Memory.write_wf h _ b) (off + 1)

/-- Bytes written to reply ring i leave every offset outside that ring as it was (R94). -/
theorem read_writeRpl_other {m : Memory} (h : Memory.wf m = true) (i off : Nat) (bs : List Byte) (x : Nat)
    (hx : x < 0x180000 + i * 0x10000 ∨ 0x180000 + i * 0x10000 + 0x10000 ≤ x) :
    Memory.read (writeRpl m i off bs) x = Memory.read m x := by
  induction bs generalizing m off with
  | nil => rfl
  | cons b bs ih =>
    rw [writeRpl, ih (Memory.write_wf h _ b), Memory.read_write h, if_neg]
    simp only [rplAddr]
    have : off % 0x10000 < 0x10000 := Nat.mod_lt _ (by decide)
    omega

end Machine

end Sys2Proof
end

