-- ==== Sys2Proof/Laws/Kept.lean ====
section
/-! SUPPORT. What nearly every operation of the model keeps: the queue of waiting commands, the canonical form of the memory, KTIME, and a service unlock that is not in force. -/

namespace Sys2Proof.Machine

/-- The queue of waiting commands stays as it is, and the memory keeps its canonical form. -/
def Based (o t : State) : Prop := t.pending = o.pending ∧ (Memory.wf o.mem = true → Memory.wf t.mem = true)

/-- What nearly every operation keeps: the queue, the canonical memory, KTIME, and a service unlock that is not in force stays so. -/
def Kept (o t : State) : Prop :=
  Based o t ∧ t.kpr.ktime = o.kpr.ktime ∧ (t.sec.unlocked = true → o.sec.unlocked = true)

theorem Based.refl (o : State) : Based o o := ⟨rfl, id⟩

theorem Based.trans {o t u : State} (h : Based o t) (k : Based t u) : Based o u := ⟨k.1.trans h.1, fun w => k.2 (h.2 w)⟩

theorem Kept.refl (o : State) : Kept o o := ⟨Based.refl o, rfl, id⟩

theorem Kept.trans {o t u : State} (h : Kept o t) (k : Kept t u) : Kept o u :=
  ⟨h.1.trans k.1, k.2.1.trans h.2.1, fun w => h.2.2 (k.2.2 w)⟩

/-- The components of an updated state that `Kept` speaks of. -/
def KeptLit (o : State) (k : Kpr) (m : Memory) (x : Sec) (p : List Instr) : Prop :=
  (p = o.pending ∧ (Memory.wf o.mem = true → Memory.wf m = true)) ∧ k.ktime = o.kpr.ktime ∧ (x.unlocked = true → o.sec.unlocked = true)

/-- An update of fields other than the Keeper's registers, the memory, the security state and the queue. -/
theorem Kept.other_iff {o t : State} {a2 a3 a5 a6 a7 a8 a9 a10 a11 a12 a13 a14 a15 a16 a18 a19} :
    Kept o (State.mk t.kpr a2 a3 t.mem a5 a6 a7 a8 a9 a10 a11 a12 a13 a14 a15 a16 t.sec a18 a19 t.pending) = Kept o t := propext Iff.rfl

/-- Any update, by its components. -/
theorem Kept.lit_iff {o : State} {a1 a2 a3 a4 a5 a6 a7 a8 a9 a10 a11 a12 a13 a14 a15 a16 a17 a18 a19 p} :
    Kept o (State.mk a1 a2 a3 a4 a5 a6 a7 a8 a9 a10 a11 a12 a13 a14 a15 a16 a17 a18 a19 p) = KeptLit o a1 a4 a17 p := propext Iff.rfl

/-- A memory that an operation leaves canonical. -/
def MemStep (m n : Memory) : Prop := Memory.wf m = true → Memory.wf n = true

theorem MemStep.refl (m : Memory) : MemStep m m := id

theorem MemStep.empty (m : Memory) : MemStep m [] := fun _ => rfl

theorem MemStep.write (m : Memory) (n : Nat) (bs : List Byte) : MemStep m (Memory.writeBytes m n bs) := fun w => Memory.writeBytes_wf w n bs

theorem MemStep.clear (m : Memory) (n k : Nat) : MemStep m (Memory.clear m n k) := fun w => Memory.clear_wf w n k

theorem MemStep.reply (m : Memory) (i n : Nat) (bs : List Byte) : MemStep m (writeRpl m i n bs) := fun w => writeRpl_wf w i n bs

theorem MemStep.filter (m : Memory) (p : Host.Cell → Bool) : MemStep m (m.filter p) := fun w => Memory.filter_wf w p

/-- Memories that a fold of byte writes gives stay canonical. -/
theorem MemStep.foldl {α : Type} (l : List α) (at_ : α → Nat) (bs : α → List Byte) (m : Memory) :
    MemStep m (l.foldl (fun m x => Memory.writeBytes m (at_ x) (bs x)) m) := by
  intro h
  induction l generalizing m with
  | nil => exact h
  | cons x l ih => exact ih _ (Memory.writeBytes_wf h _ _)

/-- Security states in which no unlock is new. -/
def SecStep (x y : Sec) : Prop := y.unlocked = true → x.unlocked = true

theorem SecStep.refl (x : Sec) : SecStep x x := id

theorem SecStep.wrote (x : Sec) (r : Nat) : SecStep x (x.wrote r) := by
  unfold SecStep Sec.wrote
  extract_lets
  split <;> exact id

theorem SecStep.other (x : Sec) (a b c d e f) : SecStep x (Sec.mk x.unlocked a b c d e f) := id

theorem SecStep.locked (x : Sec) (a b c d e f) : SecStep x (Sec.mk false a b c d e f) := nofun

theorem KeptLit.intro {o t : State} {k : Kpr} {m : Memory} {x : Sec} (h : Kept o t) (hk : k.ktime = t.kpr.ktime)
    (hm : MemStep t.mem m) (hx : SecStep t.sec x) : KeptLit o k m x t.pending :=
  ⟨⟨h.1.1, fun w => hm (h.1.2 w)⟩, hk.trans h.2.1, fun w => h.2.2 (hx w)⟩

theorem Kept.foldl {o : State} {α : Type} {f : State → α → State} {l : List α} {t : State} (h : Kept o t)
    (hf : ∀ u x, Kept o u → Kept o (f u x)) : Kept o (l.foldl f t) := by
  induction l generalizing t with
  | nil => exact h
  | cons x l ih => exact ih (hf _ _ h)

/-- An outcome that, where it is a next state, keeps what a state keeps. -/
def KeptOut (o : State) (r : Host.Outcome State Fault Refusal) : Prop :=
  match r with
  | .next t => Kept o t
  | _ => True

theorem KeptOut.next {o t : State} : KeptOut o (.next t) = Kept o t := propext Iff.rfl

theorem refuse_state (s : State) (st : Nat) : (Done.refuse s st).state = s := rfl

theorem busy_state (s : State) (k : Nat) : (Done.busy s k).state = s := rfl

end Sys2Proof.Machine
end

