-- ==== Sys2Proof/Laws/Kept1.lean ====
section
/-! SUPPORT. `Kept` of each operation and meaning of Machine/Ops, Power, Mailbox, Packets, PairOps, ReqOps, Shapes, Maint.lean. -/

set_option linter.unusedSimpArgs false

namespace Sys2Proof.Machine

open Sys2Proof.Bytes

/-! ## Ops -/

theorem State.wrote_kept {o0 : State} (s : State) (region : Nat) (hk : Kept o0 s) : Kept o0 (State.wrote s region) := by
  unfold State.wrote
  repeat' first
    | with_reducible assumption
    | simp -zeta only [Kept.other_iff]
    | (simp -zeta only [Kept.lit_iff]; with_reducible refine KeptLit.intro ?_ ?_ ?_ ?_)
    | with_reducible exact MemStep.refl _
    | with_reducible exact SecStep.refl _
    | with_reducible rfl
    | with_reducible exact SecStep.wrote _ _
    | with_reducible exact SecStep.other _ _ _ _ _ _ _
    | with_reducible exact SecStep.locked _ _ _ _ _ _ _
    | extract_lets
    | simp -zeta +zetaDelta only [Kept.other_iff]

theorem State.mark_kept {o0 : State} (s : State) (key : Nat) (hk : Kept o0 s) : Kept o0 (State.mark s key) := by
  unfold State.mark
  repeat' first
    | with_reducible assumption
    | simp -zeta only [Kept.other_iff]
    | (simp -zeta only [Kept.lit_iff]; with_reducible refine KeptLit.intro ?_ ?_ ?_ ?_)
    | with_reducible exact MemStep.refl _
    | with_reducible exact SecStep.refl _
    | with_reducible rfl
    | exact rfl
    | extract_lets
    | simp -zeta +zetaDelta only [Kept.other_iff]

theorem State.markIf_kept {o0 : State} (s : State) (on : Bool) (key : Nat) (hk : Kept o0 s) : Kept o0 (State.markIf s on key) := by
  unfold State.markIf
  repeat' first
    | with_reducible assumption
    | simp -zeta only [Kept.other_iff]
    | with_reducible apply State.mark_kept
    | split
    | extract_lets
    | simp -zeta +zetaDelta only [Kept.other_iff]

theorem State.updPair_kept {o0 : State} (s : State) (i : Nat) (f : RingPair → RingPair) (hk : Kept o0 s) : Kept o0 (State.updPair s i f) := by
  unfold State.updPair
  repeat' first
    | with_reducible assumption
    | simp -zeta only [Kept.other_iff]
    | extract_lets
    | simp -zeta +zetaDelta only [Kept.other_iff]

theorem State.updRes_kept {o0 : State} (s : State) (i : Nat) (f : ResRing → ResRing) (hk : Kept o0 s) : Kept o0 (State.updRes s i f) := by
  unfold State.updRes
  repeat' first
    | with_reducible assumption
    | simp -zeta only [Kept.other_iff]
    | extract_lets
    | simp -zeta +zetaDelta only [Kept.other_iff]

theorem State.updChan_kept {o0 : State} (s : State) (n : Nat) (f : Chan → Chan) (hk : Kept o0 s) : Kept o0 (State.updChan s n f) := by
  unfold State.updChan
  repeat' first
    | with_reducible assumption
    | simp -zeta only [Kept.other_iff]
    | (simp -zeta only [Kept.lit_iff]; with_reducible refine KeptLit.intro ?_ ?_ ?_ ?_)
    | with_reducible exact MemStep.refl _
    | with_reducible exact SecStep.refl _
    | with_reducible rfl
    | with_reducible exact SecStep.wrote _ _
    | with_reducible exact SecStep.other _ _ _ _ _ _ _
    | with_reducible exact SecStep.locked _ _ _ _ _ _ _
    | with_reducible apply State.wrote_kept
    | extract_lets
    | simp -zeta +zetaDelta only [Kept.other_iff]

theorem State.updWing_kept {o0 : State} (s : State) (w : Nat) (f : Wing → Wing) (hk : Kept o0 s) : Kept o0 (State.updWing s w f) := by
  unfold State.updWing
  repeat' first
    | with_reducible assumption
    | simp -zeta only [Kept.other_iff]
    | extract_lets
    | simp -zeta +zetaDelta only [Kept.other_iff]

theorem State.updGal_kept {o0 : State} (s : State) (g : Nat) (f : Gallery → Gallery) (hk : Kept o0 s) : Kept o0 (State.updGal s g f) := by
  unfold State.updGal
  repeat' first
    | with_reducible assumption
    | simp -zeta only [Kept.other_iff]
    | (simp -zeta only [Kept.lit_iff]; with_reducible refine KeptLit.intro ?_ ?_ ?_ ?_)
    | with_reducible exact MemStep.refl _
    | with_reducible exact SecStep.refl _
    | with_reducible rfl
    | with_reducible exact SecStep.wrote _ _
    | with_reducible exact SecStep.other _ _ _ _ _ _ _
    | with_reducible exact SecStep.locked _ _ _ _ _ _ _
    | with_reducible apply State.wrote_kept
    | extract_lets
    | simp -zeta +zetaDelta only [Kept.other_iff]

theorem State.updReq_kept {o0 : State} (s : State) (acc : Nat) (f : Req → Req) (hk : Kept o0 s) : Kept o0 (State.updReq s acc f) := by
  unfold State.updReq
  repeat' first
    | with_reducible assumption
    | simp -zeta only [Kept.other_iff]
    | (simp -zeta only [Kept.lit_iff]; with_reducible refine KeptLit.intro ?_ ?_ ?_ ?_)
    | with_reducible exact MemStep.refl _
    | with_reducible exact SecStep.refl _
    | with_reducible rfl
    | with_reducible exact SecStep.wrote _ _
    | with_reducible exact SecStep.other _ _ _ _ _ _ _
    | with_reducible exact SecStep.locked _ _ _ _ _ _ _
    | with_reducible apply State.wrote_kept
    | extract_lets
    | simp -zeta +zetaDelta only [Kept.other_iff]

theorem State.emit_kept {o0 : State} (s : State) (o : PortOut) (hk : Kept o0 s) : Kept o0 (State.emit s o) := by
  unfold State.emit
  repeat' first
    | with_reducible assumption
    | simp -zeta only [Kept.other_iff]
    | extract_lets
    | simp -zeta +zetaDelta only [Kept.other_iff]

theorem State.seedFrom_kept {o0 : State} (s : State) (key v : Hash384) (hk : Kept o0 s) : Kept o0 (State.seedFrom s key v) := by
  unfold State.seedFrom
  repeat' first
    | with_reducible assumption
    | simp -zeta only [Kept.other_iff]
    | (simp -zeta only [Kept.lit_iff]; with_reducible refine KeptLit.intro ?_ ?_ ?_ ?_)
    | with_reducible exact MemStep.refl _
    | with_reducible exact SecStep.refl _
    | with_reducible rfl
    | with_reducible exact SecStep.wrote _ _
    | with_reducible exact SecStep.other _ _ _ _ _ _ _
    | with_reducible exact SecStep.locked _ _ _ _ _ _ _
    | extract_lets
    | simp -zeta +zetaDelta only [Kept.other_iff]

theorem State.seedSource_kept {o0 : State} (s : State) (hk : Kept o0 s) : Kept o0 (State.seedSource s) := by
  unfold State.seedSource
  repeat' first
    | with_reducible assumption
    | simp -zeta only [Kept.other_iff]
    | with_reducible apply State.seedFrom_kept
    | extract_lets
    | simp -zeta +zetaDelta only [Kept.other_iff]

theorem State.drawn_kept {o0 : State} (s : State) (hk : Kept o0 s) : Kept o0 (State.drawn s) := by
  unfold State.drawn
  repeat' first
    | with_reducible assumption
    | simp -zeta only [Kept.other_iff]
    | (simp -zeta only [Kept.lit_iff]; with_reducible refine KeptLit.intro ?_ ?_ ?_ ?_)
    | with_reducible exact MemStep.refl _
    | with_reducible exact SecStep.refl _
    | with_reducible rfl
    | with_reducible exact SecStep.wrote _ _
    | with_reducible exact SecStep.other _ _ _ _ _ _ _
    | with_reducible exact SecStep.locked _ _ _ _ _ _ _
    | with_reducible apply State.seedFrom_kept
    | split
    | extract_lets
    | simp -zeta +zetaDelta only [Kept.other_iff]

theorem State.bank_kept {o0 : State} (s : State) (delay : Nat) (op : BankOp) (hk : Kept o0 s) : Kept o0 (State.bank s delay op) := by
  unfold State.bank
  repeat' first
    | with_reducible assumption
    | simp -zeta only [Kept.other_iff]
    | extract_lets
    | simp -zeta +zetaDelta only [Kept.other_iff]

theorem State.count_kept {o0 : State} (s : State) (g i n : Nat) (hk : Kept o0 s) : Kept o0 (State.count s g i n) := by
  unfold State.count
  repeat' first
    | with_reducible assumption
    | simp -zeta only [Kept.other_iff]
    | with_reducible apply State.bank_kept
    | split
    | extract_lets
    | simp -zeta +zetaDelta only [Kept.other_iff]

theorem State.gaugeMax_kept {o0 : State} (s : State) (g i n : Nat) (hk : Kept o0 s) : Kept o0 (State.gaugeMax s g i n) := by
  unfold State.gaugeMax
  repeat' first
    | with_reducible assumption
    | simp -zeta only [Kept.other_iff]
    | with_reducible apply State.bank_kept
    | split
    | extract_lets
    | simp -zeta +zetaDelta only [Kept.other_iff]

theorem State.gauge_kept {o0 : State} (s : State) (g i n : Nat) (hk : Kept o0 s) : Kept o0 (State.gauge s g i n) := by
  unfold State.gauge
  repeat' first
    | with_reducible assumption
    | simp -zeta only [Kept.other_iff]
    | with_reducible apply State.bank_kept
    | split
    | extract_lets
    | simp -zeta +zetaDelta only [Kept.other_iff]

theorem State.ledgerAdd_kept {o0 : State} (s : State) (i n : Nat) (hk : Kept o0 s) : Kept o0 (State.ledgerAdd s i n) := by
  unfold State.ledgerAdd
  repeat' first
    | with_reducible assumption
    | simp -zeta only [Kept.other_iff]
    | extract_lets
    | simp -zeta +zetaDelta only [Kept.other_iff]

theorem State.ledgerSet_kept {o0 : State} (s : State) (i n : Nat) (hk : Kept o0 s) : Kept o0 (State.ledgerSet s i n) := by
  unfold State.ledgerSet
  repeat' first
    | with_reducible assumption
    | simp -zeta only [Kept.other_iff]
    | extract_lets
    | simp -zeta +zetaDelta only [Kept.other_iff]

theorem State.ledgerMax_kept {o0 : State} (s : State) (i n : Nat) (hk : Kept o0 s) : Kept o0 (State.ledgerMax s i n) := by
  unfold State.ledgerMax
  repeat' first
    | with_reducible assumption
    | simp -zeta only [Kept.other_iff]
    | with_reducible apply State.ledgerSet_kept
    | split
    | extract_lets
    | simp -zeta +zetaDelta only [Kept.other_iff]

theorem State.requestMsg_kept {o0 : State} (s : State) (v : Nat) (hk : Kept o0 s) : Kept o0 (State.requestMsg s v) := by
  unfold State.requestMsg
  repeat' first
    | with_reducible assumption
    | simp -zeta only [Kept.other_iff]
    | (simp -zeta only [Kept.lit_iff]; with_reducible refine KeptLit.intro ?_ ?_ ?_ ?_)
    | with_reducible exact MemStep.refl _
    | with_reducible exact SecStep.refl _
    | with_reducible rfl
    | exact rfl
    | split
    | extract_lets
    | simp -zeta +zetaDelta only [Kept.other_iff]

theorem State.announce_kept {o0 : State} (s : State) (v : Nat) (hk : Kept o0 s) : Kept o0 (State.announce s v) := by
  unfold State.announce
  repeat' first
    | with_reducible assumption
    | simp -zeta only [Kept.other_iff]
    | with_reducible apply State.mark_kept
    | with_reducible apply State.requestMsg_kept
    | extract_lets
    | simp -zeta +zetaDelta only [Kept.other_iff]

theorem State.raiseVec_kept {o0 : State} (s : State) (v : Nat) (hk : Kept o0 s) : Kept o0 (State.raiseVec s v) := by
  unfold State.raiseVec
  repeat' first
    | with_reducible assumption
    | simp -zeta only [Kept.other_iff]
    | (simp -zeta only [Kept.lit_iff]; with_reducible refine KeptLit.intro ?_ ?_ ?_ ?_)
    | with_reducible exact MemStep.refl _
    | with_reducible exact SecStep.refl _
    | with_reducible rfl
    | exact rfl
    | with_reducible apply State.mark_kept
    | with_reducible apply State.announce_kept
    | split
    | extract_lets
    | simp -zeta +zetaDelta only [Kept.other_iff]

theorem State.nextMsg_kept {o0 : State} (s : State) (hk : Kept o0 s) : Kept o0 (State.nextMsg s) := by
  unfold State.nextMsg
  repeat' first
    | with_reducible assumption
    | simp -zeta only [Kept.other_iff]
    | (simp -zeta only [Kept.lit_iff]; with_reducible refine KeptLit.intro ?_ ?_ ?_ ?_)
    | with_reducible exact MemStep.refl _
    | with_reducible exact SecStep.refl _
    | with_reducible rfl
    | exact rfl
    | split
    | intro _
    | extract_lets
    | simp -zeta +zetaDelta only [Kept.other_iff]

theorem State.withdrawMsg_kept {o0 : State} (s : State) (v : Nat) (hk : Kept o0 s) : Kept o0 (State.withdrawMsg s v) := by
  unfold State.withdrawMsg
  repeat' first
    | with_reducible assumption
    | simp -zeta only [Kept.other_iff]
    | (simp -zeta only [Kept.lit_iff]; with_reducible refine KeptLit.intro ?_ ?_ ?_ ?_)
    | with_reducible exact MemStep.refl _
    | with_reducible exact SecStep.refl _
    | with_reducible rfl
    | exact rfl
    | with_reducible apply State.nextMsg_kept
    | split
    | extract_lets
    | simp -zeta +zetaDelta only [Kept.other_iff]

theorem State.keeperCause_kept {o0 : State} (s : State) (b : Nat) (hk : Kept o0 s) : Kept o0 (State.keeperCause s b) := by
  unfold State.keeperCause
  repeat' first
    | with_reducible assumption
    | simp -zeta only [Kept.other_iff]
    | (simp -zeta only [Kept.lit_iff]; with_reducible refine KeptLit.intro ?_ ?_ ?_ ?_)
    | with_reducible exact MemStep.refl _
    | with_reducible exact SecStep.refl _
    | with_reducible rfl
    | exact rfl
    | with_reducible apply State.mark_kept
    | with_reducible apply State.raiseVec_kept
    | extract_lets
    | simp -zeta +zetaDelta only [Kept.other_iff]

theorem State.traceDropped_kept {o0 : State} (s : State) (n : Nat) (hk : Kept o0 s) : Kept o0 (State.traceDropped s n) := by
  unfold State.traceDropped
  repeat' first
    | with_reducible assumption
    | simp -zeta only [Kept.other_iff]
    | with_reducible apply State.count_kept
    | extract_lets
    | simp -zeta +zetaDelta only [Kept.other_iff]

theorem State.tracePacket_kept {o0 : State} (s : State) (kind source : Nat) (words : List W32) (hk : Kept o0 s) : Kept o0 (State.tracePacket s kind source words) := by
  unfold State.tracePacket
  repeat' first
    | with_reducible assumption
    | simp -zeta only [Kept.other_iff]
    | with_reducible apply State.traceDropped_kept
    | split
    | extract_lets
    | simp -zeta +zetaDelta only [Kept.other_iff]

theorem State.traceSync_kept {o0 : State} (s : State) (hk : Kept o0 s) : Kept o0 (State.traceSync s) := by
  unfold State.traceSync
  repeat' first
    | with_reducible assumption
    | simp -zeta only [Kept.other_iff]
    | with_reducible apply State.tracePacket_kept
    | extract_lets
    | simp -zeta +zetaDelta only [Kept.other_iff]

theorem State.trace_kept {o0 : State} (s : State) (kind source : Nat) (words : List W32) (hk : Kept o0 s) : Kept o0 (State.trace s kind source words) := by
  unfold State.trace
  repeat' first
    | with_reducible assumption
    | simp -zeta only [Kept.other_iff]
    | with_reducible apply State.traceDropped_kept
    | with_reducible apply State.tracePacket_kept
    | with_reducible apply State.traceSync_kept
    | split
    | extract_lets
    | simp -zeta +zetaDelta only [Kept.other_iff]

theorem State.writeEvent_kept {o0 : State} (s : State) (n : Nat) (bs : List Byte) (hk : Kept o0 s) : Kept o0 (State.writeEvent s n bs) := by
  unfold State.writeEvent
  repeat' first
    | with_reducible assumption
    | simp -zeta only [Kept.other_iff]
    | (simp -zeta only [Kept.lit_iff]; with_reducible refine KeptLit.intro ?_ ?_ ?_ ?_)
    | with_reducible exact MemStep.refl _
    | with_reducible exact SecStep.refl _
    | with_reducible rfl
    | with_reducible exact MemStep.write _ _ _
    | with_reducible exact MemStep.clear _ _ _
    | with_reducible exact MemStep.reply _ _ _ _
    | with_reducible exact MemStep.filter _ _
    | with_reducible exact SecStep.wrote _ _
    | with_reducible exact SecStep.other _ _ _ _ _ _ _
    | with_reducible exact SecStep.locked _ _ _ _ _ _ _
    | with_reducible apply State.wrote_kept
    | with_reducible apply State.trace_kept
    | split
    | extract_lets
    | simp -zeta +zetaDelta only [Kept.other_iff]

theorem State.event_kept {o0 : State} (s : State) (n code wing arg0 arg1 : Nat) (hk : Kept o0 s) : Kept o0 (State.event s n code wing arg0 arg1) := by
  unfold State.event
  repeat' first
    | with_reducible assumption
    | simp -zeta only [Kept.other_iff]
    | with_reducible apply State.bank_kept
    | with_reducible apply State.writeEvent_kept
    | split
    | extract_lets
    | simp -zeta +zetaDelta only [Kept.other_iff]

theorem State.halt_kept {o0 : State} (s : State) (hk : Kept o0 s) : Kept o0 (State.halt s) := by
  unfold State.halt
  repeat' first
    | with_reducible assumption
    | simp -zeta only [Kept.other_iff]
    | (simp -zeta only [Kept.lit_iff]; with_reducible refine KeptLit.intro ?_ ?_ ?_ ?_)
    | with_reducible exact MemStep.refl _
    | with_reducible exact SecStep.refl _
    | with_reducible rfl
    | exact rfl
    | with_reducible apply State.event_kept
    | (with_reducible refine Kept.foldl ?_ ?_)
    | split
    | intro _
    | extract_lets
    | simp -zeta +zetaDelta only [Kept.other_iff]

theorem State.report_kept {o0 : State} (s : State) (code sev unit wing gal : Nat) (detail : List Nat) (hk : Kept o0 s) : Kept o0 (State.report s code sev unit wing gal detail) := by
  unfold State.report
  repeat' first
    | with_reducible assumption
    | simp -zeta only [Kept.other_iff]
    | (simp -zeta only [Kept.lit_iff]; with_reducible refine KeptLit.intro ?_ ?_ ?_ ?_)
    | with_reducible exact MemStep.refl _
    | with_reducible exact SecStep.refl _
    | with_reducible rfl
    | exact rfl
    | with_reducible exact MemStep.write _ _ _
    | with_reducible exact MemStep.clear _ _ _
    | with_reducible exact MemStep.reply _ _ _ _
    | with_reducible exact MemStep.filter _ _
    | with_reducible exact SecStep.wrote _ _
    | with_reducible exact SecStep.other _ _ _ _ _ _ _
    | with_reducible exact SecStep.locked _ _ _ _ _ _ _
    | with_reducible apply State.wrote_kept
    | with_reducible apply State.mark_kept
    | with_reducible apply State.count_kept
    | with_reducible apply State.raiseVec_kept
    | with_reducible apply State.event_kept
    | with_reducible apply State.halt_kept
    | split
    | intro _
    | extract_lets
    | simp -zeta +zetaDelta only [Kept.other_iff]

theorem State.logRefused_kept {o0 : State} (s : State) (mid : Byte) (addr : Nat) (hk : Kept o0 s) : Kept o0 (State.logRefused s mid addr) := by
  unfold State.logRefused
  repeat' first
    | with_reducible assumption
    | simp -zeta only [Kept.other_iff]
    | with_reducible apply State.event_kept
    | extract_lets
    | simp -zeta +zetaDelta only [Kept.other_iff]

theorem State.respond_kept {o0 : State} (s : State) (mid : Byte) (ok : Bool) (data : List Byte) (hk : Kept o0 s) : Kept o0 (State.respond s mid ok data) := by
  unfold State.respond
  repeat' first
    | with_reducible assumption
    | simp -zeta only [Kept.other_iff]
    | extract_lets
    | simp -zeta +zetaDelta only [Kept.other_iff]

/-! ## Power -/

theorem State.updDom_kept {o0 : State} (s : State) (d : Dom) (f : DomSt → DomSt) (hk : Kept o0 s) : Kept o0 (State.updDom s d f) := by
  unfold State.updDom
  repeat' first
    | with_reducible assumption
    | simp -zeta only [Kept.other_iff]
    | extract_lets
    | simp -zeta +zetaDelta only [Kept.other_iff]

theorem State.raiseFclk_kept {o0 : State} (s : State) (hk : Kept o0 s) : Kept o0 (State.raiseFclk s) := by
  unfold State.raiseFclk
  repeat' first
    | with_reducible assumption
    | simp -zeta only [Kept.other_iff]
    | with_reducible apply State.count_kept
    | split
    | extract_lets
    | simp -zeta +zetaDelta only [Kept.other_iff]

theorem State.requestFclk_kept {o0 : State} (s : State) (hk : Kept o0 s) : Kept o0 (State.requestFclk s) := by
  unfold State.requestFclk
  repeat' first
    | with_reducible assumption
    | simp -zeta only [Kept.other_iff]
    | with_reducible apply State.raiseFclk_kept
    | split
    | extract_lets
    | simp -zeta +zetaDelta only [Kept.other_iff]

theorem State.wakeSwitch_kept {o0 : State} (s : State) (d : Dom) (hk : Kept o0 s) : Kept o0 (State.wakeSwitch s d) := by
  unfold State.wakeSwitch
  repeat' first
    | with_reducible assumption
    | simp -zeta only [Kept.other_iff]
    | with_reducible apply State.updDom_kept
    | split
    | intro _
    | extract_lets
    | simp -zeta +zetaDelta only [Kept.other_iff]

theorem State.wake_kept {o0 : State} (s : State) (ds : List Dom) (hk : Kept o0 s) : Kept o0 (State.wake s ds) := by
  unfold State.wake
  repeat' first
    | with_reducible assumption
    | simp -zeta only [Kept.other_iff]
    | with_reducible apply State.requestFclk_kept
    | with_reducible apply State.wakeSwitch_kept
    | (with_reducible refine Kept.foldl ?_ ?_)
    | split
    | intro _
    | extract_lets
    | simp -zeta +zetaDelta only [Kept.other_iff]

theorem State.activate_kept {o0 : State} (s : State) (hk : Kept o0 s) : Kept o0 (State.activate s) := by
  unfold State.activate
  repeat' first
    | with_reducible assumption
    | simp -zeta only [Kept.other_iff]
    | with_reducible apply State.count_kept
    | with_reducible apply State.ledgerAdd_kept
    | with_reducible apply State.event_kept
    | with_reducible apply State.updDom_kept
    | (with_reducible refine Kept.foldl ?_ ?_)
    | split
    | intro _
    | extract_lets
    | simp -zeta +zetaDelta only [Kept.other_iff]

theorem State.raiseWaiting_kept {o0 : State} (s : State) (hk : Kept o0 s) : Kept o0 (State.raiseWaiting s) := by
  unfold State.raiseWaiting
  repeat' first
    | with_reducible assumption
    | simp -zeta only [Kept.other_iff]
    | with_reducible apply State.updDom_kept
    | (with_reducible refine Kept.foldl ?_ ?_)
    | split
    | intro _
    | extract_lets
    | simp -zeta +zetaDelta only [Kept.other_iff]

theorem State.clockTick_kept {o0 : State} (s : State) (hk : Kept o0 s) : Kept o0 (State.clockTick s) := by
  unfold State.clockTick
  repeat' first
    | with_reducible assumption
    | simp -zeta only [Kept.other_iff]
    | with_reducible apply State.raiseFclk_kept
    | split
    | extract_lets
    | simp -zeta +zetaDelta only [Kept.other_iff]

theorem execFclkAckRise_kept {o0 : State} (s : State) (hk : Kept o0 s) : KeptOut o0 (execFclkAckRise s) := by
  unfold execFclkAckRise
  repeat' first
    | with_reducible assumption
    | simp -zeta only [Kept.other_iff, KeptOut.next]
    | with_reducible apply State.ledgerAdd_kept
    | split
    | extract_lets
    | simp -zeta +zetaDelta only [Kept.other_iff]

theorem execFclkAckFall_kept {o0 : State} (s : State) (hk : Kept o0 s) : KeptOut o0 (execFclkAckFall s) := by
  unfold execFclkAckFall
  repeat' first
    | with_reducible assumption
    | simp -zeta only [Kept.other_iff, KeptOut.next]
    | split
    | extract_lets
    | simp -zeta +zetaDelta only [Kept.other_iff]

theorem execPswAckRise_kept {o0 : State} (dom : Dom) (s : State) (hk : Kept o0 s) : KeptOut o0 (execPswAckRise dom s) := by
  unfold execPswAckRise
  repeat' first
    | with_reducible assumption
    | simp -zeta only [Kept.other_iff, KeptOut.next]
    | with_reducible apply State.updDom_kept
    | split
    | intro _
    | extract_lets
    | simp -zeta +zetaDelta only [Kept.other_iff]

theorem execPswAckFall_kept {o0 : State} (dom : Dom) (s : State) (hk : Kept o0 s) : KeptOut o0 (execPswAckFall dom s) := by
  unfold execPswAckFall
  repeat' first
    | with_reducible assumption
    | simp -zeta only [Kept.other_iff, KeptOut.next]
    | with_reducible apply State.updDom_kept
    | split
    | intro _
    | extract_lets
    | simp -zeta +zetaDelta only [Kept.other_iff]

/-! ## Mailbox -/

theorem State.stageWord_kept {o0 : State} (s : State) (n k : Nat) (w : W32) (hk : Kept o0 s) : Kept o0 (State.stageWord s n k w) := by
  unfold State.stageWord
  repeat' first
    | with_reducible assumption
    | simp -zeta only [Kept.other_iff]
    | with_reducible apply State.updChan_kept
    | intro _
    | extract_lets
    | simp -zeta +zetaDelta only [Kept.other_iff]

theorem State.postNotice_kept {o0 : State} (s : State) (n : Nat) (hk : Kept o0 s) : Kept o0 (State.postNotice s n) := by
  unfold State.postNotice
  repeat' first
    | with_reducible assumption
    | simp -zeta only [Kept.other_iff]
    | with_reducible apply State.keeperCause_kept
    | with_reducible apply State.wake_kept
    | split
    | extract_lets
    | simp -zeta +zetaDelta only [Kept.other_iff]

theorem State.postMessage_kept {o0 : State} (s : State) (n : Nat) (mid : Byte) (w : W32) (hk : Kept o0 s) : Kept o0 (State.postMessage s n mid w) := by
  unfold State.postMessage
  repeat' first
    | with_reducible assumption
    | simp -zeta only [Kept.other_iff]
    | with_reducible apply State.mark_kept
    | with_reducible apply State.updChan_kept
    | with_reducible apply State.postNotice_kept
    | split
    | intro _
    | extract_lets
    | simp -zeta +zetaDelta only [Kept.other_iff]

theorem State.writeAckReg_kept {o0 : State} (s : State) (n : Nat) (code : W16) (hk : Kept o0 s) : Kept o0 (State.writeAckReg s n code) := by
  unfold State.writeAckReg
  repeat' first
    | with_reducible assumption
    | simp -zeta only [Kept.other_iff]
    | with_reducible apply State.mark_kept
    | with_reducible apply State.updChan_kept
    | split
    | intro _
    | extract_lets
    | simp -zeta +zetaDelta only [Kept.other_iff]

theorem State.ackMessage_kept {o0 : State} (s : State) (n : Nat) (code : W16) (hk : Kept o0 s) : Kept o0 (State.ackMessage s n code) := by
  unfold State.ackMessage
  repeat' first
    | with_reducible assumption
    | simp -zeta only [Kept.other_iff]
    | with_reducible apply State.mark_kept
    | with_reducible apply State.updChan_kept
    | split
    | intro _
    | extract_lets
    | simp -zeta +zetaDelta only [Kept.other_iff]

theorem State.controlPost_kept {o0 : State} (s : State) (n type word0 : Nat) (hk : Kept o0 s) : Kept o0 (State.controlPost s n type word0) := by
  unfold State.controlPost
  repeat' first
    | with_reducible assumption
    | simp -zeta only [Kept.other_iff]
    | with_reducible apply State.updChan_kept
    | with_reducible apply State.postMessage_kept
    | intro _
    | extract_lets
    | simp -zeta +zetaDelta only [Kept.other_iff]

theorem State.releaseLocks_kept {o0 : State} (s : State) (p : Nat → Bool) (hk : Kept o0 s) : Kept o0 (State.releaseLocks s p) := by
  unfold State.releaseLocks
  repeat' first
    | with_reducible assumption
    | simp -zeta only [Kept.other_iff]
    | intro _
    | extract_lets
    | simp -zeta +zetaDelta only [Kept.other_iff]

theorem State.writeEpoch_kept {o0 : State} (s : State) (i : Nat) (v : W16) (hk : Kept o0 s) : Kept o0 (State.writeEpoch s i v) := by
  unfold State.writeEpoch
  repeat' first
    | with_reducible assumption
    | simp -zeta only [Kept.other_iff]
    | with_reducible apply State.releaseLocks_kept
    | intro _
    | extract_lets
    | simp -zeta +zetaDelta only [Kept.other_iff]

theorem State.amendResponse_kept {o0 : State} (s : State) (k : Nat) (word : Nat) (hk : Kept o0 s) : Kept o0 (State.amendResponse s k word) := by
  unfold State.amendResponse
  repeat' first
    | with_reducible assumption
    | simp -zeta only [Kept.other_iff]
    | split
    | extract_lets
    | simp -zeta +zetaDelta only [Kept.other_iff]

theorem State.settleReaders_kept {o0 : State} (s : State) (n : Nat) (owner : Byte) (rs : List (Byte × Nat)) (hk : Kept o0 s) : Kept o0 (State.settleReaders s n owner rs) := by
  unfold State.settleReaders
  repeat' first
    | with_reducible assumption
    | simp -zeta only [Kept.other_iff]
    | with_reducible apply State.amendResponse_kept
    | (with_reducible refine Kept.foldl ?_ ?_)
    | split
    | intro _
    | extract_lets
    | simp -zeta +zetaDelta only [Kept.other_iff]

theorem State.acquire_kept {o0 : State} (s : State) (n : Nat) (mid : Byte) (hk : Kept o0 s) : Kept o0 (State.acquire s n mid) := by
  unfold State.acquire
  repeat' first
    | with_reducible assumption
    | simp -zeta only [Kept.other_iff]
    | with_reducible apply State.settleReaders_kept
    | split
    | extract_lets
    | simp -zeta +zetaDelta only [Kept.other_iff]

theorem State.release_kept {o0 : State} (s : State) (n : Nat) (mid : Byte) (hk : Kept o0 s) : Kept o0 (State.release s n mid) := by
  unfold State.release
  repeat' first
    | with_reducible assumption
    | simp -zeta only [Kept.other_iff]
    | with_reducible apply State.settleReaders_kept
    | split
    | intro _
    | extract_lets
    | simp -zeta +zetaDelta only [Kept.other_iff]

/-! ## Packets -/

theorem State.cryptoWake_kept {o0 : State} (s : State) (op gallery : Nat) (hk : Kept o0 s) : Kept o0 (State.cryptoWake s op gallery) := by
  unfold State.cryptoWake
  repeat' first
    | with_reducible assumption
    | simp -zeta only [Kept.other_iff]
    | with_reducible apply State.wake_kept
    | split
    | extract_lets
    | simp -zeta +zetaDelta only [Kept.other_iff]

theorem State.writeReply_kept {o0 : State} (s : State) (i op gallery tag status : Nat) (seq : W32) (ktime : W64) (data : List Byte) (hk : Kept o0 s) : Kept o0 (State.writeReply s i op gallery tag status seq ktime data) := by
  unfold State.writeReply
  repeat' first
    | with_reducible assumption
    | simp -zeta only [Kept.other_iff]
    | (simp -zeta only [Kept.lit_iff]; with_reducible refine KeptLit.intro ?_ ?_ ?_ ?_)
    | with_reducible exact MemStep.refl _
    | with_reducible exact SecStep.refl _
    | with_reducible rfl
    | with_reducible exact MemStep.write _ _ _
    | with_reducible exact MemStep.clear _ _ _
    | with_reducible exact MemStep.reply _ _ _ _
    | with_reducible exact MemStep.filter _ _
    | with_reducible exact SecStep.wrote _ _
    | with_reducible exact SecStep.other _ _ _ _ _ _ _
    | with_reducible exact SecStep.locked _ _ _ _ _ _ _
    | with_reducible apply State.wrote_kept
    | with_reducible apply State.updPair_kept
    | with_reducible apply State.raiseVec_kept
    | with_reducible apply State.event_kept
    | intro _
    | extract_lets
    | simp -zeta +zetaDelta only [Kept.other_iff]

theorem State.applied_kept {o0 : State} (s : State) (hk : Kept o0 s) : Kept o0 (State.applied s) := by
  unfold State.applied
  repeat' first
    | with_reducible assumption
    | simp -zeta only [Kept.other_iff]
    | extract_lets
    | simp -zeta +zetaDelta only [Kept.other_iff]

theorem State.answer_kept {o0 : State} (s : State) (c : Cmd) (status : Nat) (data : List Byte) (hk : Kept o0 s) : Kept o0 (State.answer s c status data) := by
  unfold State.answer
  repeat' first
    | with_reducible assumption
    | simp -zeta only [Kept.other_iff]
    | with_reducible apply State.writeReply_kept
    | with_reducible apply State.applied_kept
    | extract_lets
    | simp -zeta +zetaDelta only [Kept.other_iff]

theorem State.advance_kept {o0 : State} (s : State) (i units : Nat) (hk : Kept o0 s) : Kept o0 (State.advance s i units) := by
  unfold State.advance
  repeat' first
    | with_reducible assumption
    | simp -zeta only [Kept.other_iff]
    | with_reducible apply State.updPair_kept
    | intro _
    | extract_lets
    | simp -zeta +zetaDelta only [Kept.other_iff]

theorem State.breakChain_kept {o0 : State} (s : State) (i : Nat) (h : Header) (hk : Kept o0 s) : Kept o0 (State.breakChain s i h) := by
  unfold State.breakChain
  repeat' first
    | with_reducible assumption
    | simp -zeta only [Kept.other_iff]
    | with_reducible apply State.updPair_kept
    | with_reducible apply State.answer_kept
    | split
    | intro _
    | extract_lets
    | simp -zeta +zetaDelta only [Kept.other_iff]

/-- What the state of a taken packet keeps. -/
def TakenKept (o : State) (k : Taken) : Prop :=
  match k with
  | .nothing => True
  | .badLength _ => True
  | .badCrc _ t => Kept o t
  | .part t => Kept o t
  | .tooLong _ t => Kept o t
  | .whole _ t => Kept o t

theorem TakenKept.nothing {o : State} : TakenKept o .nothing = True := rfl
theorem TakenKept.badLength {o : State} {h : Header} : TakenKept o (.badLength h) = True := rfl
theorem TakenKept.badCrc {o t : State} {c : Cmd} : TakenKept o (.badCrc c t) = Kept o t := propext Iff.rfl
theorem TakenKept.part {o t : State} : TakenKept o (.part t) = Kept o t := propext Iff.rfl
theorem TakenKept.tooLong {o t : State} {c : Cmd} : TakenKept o (.tooLong c t) = Kept o t := propext Iff.rfl
theorem TakenKept.whole {o t : State} {c : Cmd} : TakenKept o (.whole c t) = Kept o t := propext Iff.rfl

theorem State.take_kept {o0 : State} (s : State) (i : Nat) (h : Kept o0 s) : TakenKept o0 (s.take i) := by
  unfold State.take
  repeat' first
    | with_reducible assumption
    | simp -zeta only [TakenKept.nothing, TakenKept.badLength, TakenKept.badCrc, TakenKept.part, TakenKept.tooLong, TakenKept.whole]
    | with_reducible apply State.breakChain_kept
    | with_reducible apply State.advance_kept
    | with_reducible apply State.updPair_kept
    | split
    | extract_lets
    | simp -zeta +zetaDelta only

theorem Done.refuse_kept {o0 : State} (s : State) (status : Nat) (hk : Kept o0 s) : Kept o0 (Done.refuse s status).state := by
  unfold Done.refuse
  repeat' first
    | with_reducible assumption
    | simp -zeta only [Kept.other_iff]
    | extract_lets
    | simp -zeta +zetaDelta only [Kept.other_iff]

theorem Done.busy_kept {o0 : State} (s : State) (code : Nat) (hk : Kept o0 s) : Kept o0 (Done.busy s code).state := by
  unfold Done.busy
  repeat' first
    | with_reducible assumption
    | simp -zeta only [Kept.other_iff]
    | extract_lets
    | simp -zeta +zetaDelta only [Kept.other_iff]

theorem finish_kept {o0 : State} (c : Cmd) (old : Gallery) (seq : W32) (ktime : W64) (d : Done) (hk : Kept o0 d.state) : Kept o0 (finish c old seq ktime d) := by
  unfold finish
  repeat' first
    | with_reducible assumption
    | simp -zeta only [Kept.other_iff]
    | with_reducible apply State.writeReply_kept
    | split
    | extract_lets
    | simp -zeta +zetaDelta only [Kept.other_iff]

theorem State.flushReplies_kept {o0 : State} (s : State) (hk : Kept o0 s) : Kept o0 (State.flushReplies s) := by
  unfold State.flushReplies
  repeat' first
    | with_reducible assumption
    | simp -zeta only [Kept.other_iff]
    | with_reducible apply State.writeReply_kept
    | (with_reducible refine Kept.foldl ?_ ?_)
    | split
    | intro _
    | extract_lets
    | simp -zeta +zetaDelta only [Kept.other_iff]

theorem clearCommand_kept {o0 : State} (op : Nat) (l : Layout) (body : Cmd → State → Done) (ring : Fin 8) (s : State) (h : Kept o0 s)
    (hb : ∀ c u, Kept o0 u → Kept o0 (body c u).state) : Kept o0 (clearCommand op l body ring s) := by
  have hk := State.take_kept s ring.val h
  unfold clearCommand
  split
  · exact h
  · split
    · exact h
    · exact h
    · exact State.answer_kept _ _ _ _ (by rw [‹s.take _ = _›] at hk; exact hk)
    · rw [‹s.take _ = _›] at hk; exact hk
    · exact State.answer_kept _ _ _ _ (by rw [‹s.take _ = _›] at hk; exact hk)
    · split
      · exact State.answer_kept _ _ _ _ (by rw [‹s.take _ = _›] at hk; exact hk)
      · exact finish_kept _ _ _ _ _ (hb _ _ (State.applied_kept _ (State.cryptoWake_kept _ _ _ (by rw [‹s.take _ = _›] at hk; exact hk))))

/-- A clear command either keeps what every operation keeps, or finishes its own part on a state that does. -/
theorem clearCommand_cases (op : Nat) (l : Layout) (body : Cmd → State → Done) (ring : Fin 8) (s : State) :
    Kept s (clearCommand op l body ring s)
      ∨ ∃ c old u q k, Kept s u ∧ clearCommand op l body ring s = finish c old q k (body c u) := by
  have hk := State.take_kept s ring.val (Kept.refl s)
  unfold clearCommand
  split
  · exact .inl (Kept.refl s)
  · split
    · exact .inl (Kept.refl s)
    · exact .inl (Kept.refl s)
    · exact .inl (State.answer_kept _ _ _ _ (by rw [‹s.take _ = _›] at hk; exact hk))
    · exact .inl (by rw [‹s.take _ = _›] at hk; exact hk)
    · exact .inl (State.answer_kept _ _ _ _ (by rw [‹s.take _ = _›] at hk; exact hk))
    · split
      · exact .inl (State.answer_kept _ _ _ _ (by rw [‹s.take _ = _›] at hk; exact hk))
      · exact .inr ⟨_, _, _, _, _, State.applied_kept _ (State.cryptoWake_kept _ _ _ (by rw [‹s.take _ = _›] at hk; exact hk)), rfl⟩

theorem State.tagFail_kept {o0 : State} (s : State) (g ctr st : Nat) (hk : Kept o0 s) : Kept o0 (State.tagFail s g ctr st) := by
  unfold State.tagFail
  repeat' first
    | with_reducible assumption
    | simp -zeta only [Kept.other_iff]
    | with_reducible apply State.event_kept
    | split
    | extract_lets
    | simp -zeta +zetaDelta only [Kept.other_iff]

theorem State.acceptCtr_kept {o0 : State} (s : State) (g ctr : Nat) (hk : Kept o0 s) : Kept o0 (State.acceptCtr s g ctr) := by
  unfold State.acceptCtr
  repeat' first
    | with_reducible assumption
    | simp -zeta only [Kept.other_iff]
    | with_reducible apply State.updGal_kept
    | intro _
    | extract_lets
    | simp -zeta +zetaDelta only [Kept.other_iff]

theorem sealedCommand_kept {o0 : State} (op : Nat) (l : Layout) (env : List Byte → Envelope) (accepts : List Byte → Bool)
    (body : Cmd → Opened → State → Done) (ring : Fin 8) (s : State) (h : Kept o0 s)
    (hb : ∀ c p u, Kept o0 u → Kept o0 (body c p u).state) : Kept o0 (sealedCommand op l env accepts body ring s) := by
  have hk := State.take_kept s ring.val h
  unfold sealedCommand
  split
  · exact h
  · split
    · exact h
    · exact h
    · exact State.answer_kept _ _ _ _ (by rw [‹s.take _ = _›] at hk; exact hk)
    · rw [‹s.take _ = _›] at hk; exact hk
    · exact State.answer_kept _ _ _ _ (by rw [‹s.take _ = _›] at hk; exact hk)
    · split
      · exact State.answer_kept _ _ _ _ (by rw [‹s.take _ = _›] at hk; exact hk)
      · extract_lets
        split
        · exact State.answer_kept _ _ _ _ (State.tagFail_kept _ _ _ _ (by rw [‹s.take _ = _›] at hk; exact hk))
        · split
          · exact h
          · split
            · exact State.answer_kept _ _ _ _ (by rw [‹s.take _ = _›] at hk; exact hk)
            · exact finish_kept _ _ _ _ _ (hb _ _ _ (State.applied_kept _ (State.acceptCtr_kept _ _ _ (State.cryptoWake_kept _ _ _ (by rw [‹s.take _ = _›] at hk; exact hk)))))

theorem badOpcodeCommand_kept {o0 : State} (ring : Fin 8) (s : State) (h : Kept o0 s) : Kept o0 (badOpcodeCommand ring s) := by
  have hk := State.take_kept s ring.val h
  unfold badOpcodeCommand
  extract_lets
  split
  · exact h
  · split
    · exact h
    · refine State.answer_kept _ _ _ _ ?_
      simp -zeta only [Kept.other_iff]
      exact State.updPair_kept _ _ _ (State.breakChain_kept _ _ _ h)
    · exact State.answer_kept _ _ _ _ (by rw [‹s.take _ = _›] at hk; exact hk)
    · rw [‹s.take _ = _›] at hk; exact hk
    · exact State.answer_kept _ _ _ _ (by rw [‹s.take _ = _›] at hk; exact hk)
    · exact State.answer_kept _ _ _ _ (by rw [‹s.take _ = _›] at hk; exact hk)

/-! ## PairOps -/

theorem State.kybSend_kept {o0 : State} (s : State) (o : KybOp) (hk : Kept o0 s) : Kept o0 (State.kybSend s o) := by
  unfold State.kybSend
  repeat' first
    | with_reducible assumption
    | simp -zeta only [Kept.other_iff]
    | with_reducible apply State.emit_kept
    | with_reducible apply State.count_kept
    | with_reducible apply State.wake_kept
    | extract_lets
    | simp -zeta +zetaDelta only [Kept.other_iff]

theorem State.smpIssue_kept {o0 : State} (s : State) (r : SmpReq) (t : Nat) (hk : Kept o0 s) : Kept o0 (State.smpIssue s r t) := by
  unfold State.smpIssue
  repeat' first
    | with_reducible assumption
    | simp -zeta only [Kept.other_iff]
    | with_reducible apply State.emit_kept
    | with_reducible apply State.count_kept
    | extract_lets
    | simp -zeta +zetaDelta only [Kept.other_iff]

theorem State.smpPut_kept {o0 : State} (s : State) (r : SmpReq) (hk : Kept o0 s) : Kept o0 (State.smpPut s r) := by
  unfold State.smpPut
  repeat' first
    | with_reducible assumption
    | simp -zeta only [Kept.other_iff]
    | with_reducible apply State.smpIssue_kept
    | split
    | extract_lets
    | simp -zeta +zetaDelta only [Kept.other_iff]

theorem State.smpSend_kept {o0 : State} (s : State) (r : SmpReq) (hk : Kept o0 s) : Kept o0 (State.smpSend s r) := by
  unfold State.smpSend
  repeat' first
    | with_reducible assumption
    | simp -zeta only [Kept.other_iff]
    | with_reducible apply State.smpPut_kept
    | extract_lets
    | simp -zeta +zetaDelta only [Kept.other_iff]

theorem State.smpFlush_kept {o0 : State} (s : State) (hk : Kept o0 s) : Kept o0 (State.smpFlush s) := by
  unfold State.smpFlush
  repeat' first
    | with_reducible assumption
    | simp -zeta only [Kept.other_iff]
    | with_reducible apply State.smpPut_kept
    | (with_reducible refine Kept.foldl ?_ ?_)
    | intro _
    | extract_lets
    | simp -zeta +zetaDelta only [Kept.other_iff]

theorem State.setPair_kept {o0 : State} (s : State) (n : PairState) (hk : Kept o0 s) : Kept o0 (State.setPair s n) := by
  unfold State.setPair
  repeat' first
    | with_reducible assumption
    | simp -zeta only [Kept.other_iff]
    | with_reducible apply State.raiseVec_kept
    | with_reducible apply State.event_kept
    | split
    | extract_lets
    | simp -zeta +zetaDelta only [Kept.other_iff]

theorem State.sendFrame_kept {o0 : State} (s : State) (p : FrameOut) (hk : Kept o0 s) : Kept o0 (State.sendFrame s p) := by
  unfold State.sendFrame
  repeat' first
    | with_reducible assumption
    | simp -zeta only [Kept.other_iff]
    | with_reducible apply State.emit_kept
    | with_reducible apply State.count_kept
    | split
    | extract_lets
    | simp -zeta +zetaDelta only [Kept.other_iff]

theorem State.sendRecovery_kept {o0 : State} (s : State) (f : ImageFrame) (hk : Kept o0 s) : Kept o0 (State.sendRecovery s f) := by
  unfold State.sendRecovery
  repeat' first
    | with_reducible assumption
    | simp -zeta only [Kept.other_iff]
    | with_reducible apply State.emit_kept
    | with_reducible apply State.applied_kept
    | split
    | extract_lets
    | simp -zeta +zetaDelta only [Kept.other_iff]

theorem State.tellCounter_kept {o0 : State} (s old : State) (g : Nat) (hk : Kept o0 s) : Kept o0 (State.tellCounter s old g) := by
  unfold State.tellCounter
  repeat' first
    | with_reducible assumption
    | simp -zeta only [Kept.other_iff]
    | with_reducible apply State.sendFrame_kept
    | split
    | extract_lets
    | simp -zeta +zetaDelta only [Kept.other_iff]

theorem State.sendRec_kept {o0 : State} (s : State) (r : Req) (m : MirrorRec) (hk : Kept o0 s) : Kept o0 (State.sendRec s r m) := by
  unfold State.sendRec
  repeat' first
    | with_reducible assumption
    | simp -zeta only [Kept.other_iff]
    | with_reducible apply State.sendFrame_kept
    | split
    | extract_lets
    | simp -zeta +zetaDelta only [Kept.other_iff]

theorem State.mirrorEvent_kept {o0 : State} (s : State) (acc : Nat) (op : MirrorOp) (hk : Kept o0 s) : Kept o0 (State.mirrorEvent s acc op) := by
  unfold State.mirrorEvent
  repeat' first
    | with_reducible assumption
    | simp -zeta only [Kept.other_iff]
    | with_reducible apply State.sendRec_kept
    | split
    | extract_lets
    | simp -zeta +zetaDelta only [Kept.other_iff]

theorem State.mirrorAccession_kept {o0 : State} (s : State) (acc : Nat) (hk : Kept o0 s) : Kept o0 (State.mirrorAccession s acc) := by
  unfold State.mirrorAccession
  repeat' first
    | with_reducible assumption
    | simp -zeta only [Kept.other_iff]
    | with_reducible apply State.sendRec_kept
    | (with_reducible refine Kept.foldl ?_ ?_)
    | split
    | intro _
    | extract_lets
    | simp -zeta +zetaDelta only [Kept.other_iff]

theorem State.lowerFence_kept {o0 : State} (s : State) (hk : Kept o0 s) : Kept o0 (State.lowerFence s) := by
  unfold State.lowerFence
  repeat' first
    | with_reducible assumption
    | simp -zeta only [Kept.other_iff]
    | (simp -zeta only [Kept.lit_iff]; with_reducible refine KeptLit.intro ?_ ?_ ?_ ?_)
    | with_reducible exact MemStep.refl _
    | with_reducible exact SecStep.refl _
    | with_reducible rfl
    | exact rfl
    | extract_lets
    | simp -zeta +zetaDelta only [Kept.other_iff]

theorem State.dropJournal_kept {o0 : State} (s : State) (hk : Kept o0 s) : Kept o0 (State.dropJournal s) := by
  unfold State.dropJournal
  repeat' first
    | with_reducible assumption
    | simp -zeta only [Kept.other_iff]
    | extract_lets
    | simp -zeta +zetaDelta only [Kept.other_iff]

theorem State.endSession_kept {o0 : State} (s : State) (hk : Kept o0 s) : Kept o0 (State.endSession s) := by
  unfold State.endSession
  repeat' first
    | with_reducible assumption
    | simp -zeta only [Kept.other_iff]
    | intro _
    | extract_lets
    | simp -zeta +zetaDelta only [Kept.other_iff]

theorem State.mapReqs_kept {o0 : State} (s : State) (f : Req → Req) (hk : Kept o0 s) : Kept o0 (State.mapReqs s f) := by
  unfold State.mapReqs
  repeat' first
    | with_reducible assumption
    | simp -zeta only [Kept.other_iff]
    | intro _
    | extract_lets
    | simp -zeta +zetaDelta only [Kept.other_iff]

theorem State.clearMirrorMap_kept {o0 : State} (s : State) (hk : Kept o0 s) : Kept o0 (State.clearMirrorMap s) := by
  unfold State.clearMirrorMap
  repeat' first
    | with_reducible assumption
    | simp -zeta only [Kept.other_iff]
    | with_reducible apply State.smpSend_kept
    | (with_reducible refine Kept.foldl ?_ ?_)
    | intro _
    | extract_lets
    | simp -zeta +zetaDelta only [Kept.other_iff]

theorem State.enterDegraded_kept {o0 : State} (s : State) (hk : Kept o0 s) : Kept o0 (State.enterDegraded s) := by
  unfold State.enterDegraded
  repeat' first
    | with_reducible assumption
    | simp -zeta only [Kept.other_iff]
    | with_reducible apply State.ledgerAdd_kept
    | with_reducible apply State.report_kept
    | with_reducible apply State.flushReplies_kept
    | with_reducible apply State.setPair_kept
    | with_reducible apply State.dropJournal_kept
    | with_reducible apply State.endSession_kept
    | with_reducible apply State.mapReqs_kept
    | with_reducible apply State.clearMirrorMap_kept
    | split
    | intro _
    | extract_lets
    | simp -zeta +zetaDelta only [Kept.other_iff]

theorem State.detectFailure_kept {o0 : State} (s : State) (hk : Kept o0 s) : Kept o0 (State.detectFailure s) := by
  unfold State.detectFailure
  repeat' first
    | with_reducible assumption
    | simp -zeta only [Kept.other_iff]
    | (simp -zeta only [Kept.lit_iff]; with_reducible refine KeptLit.intro ?_ ?_ ?_ ?_)
    | with_reducible exact MemStep.refl _
    | with_reducible exact SecStep.refl _
    | with_reducible rfl
    | exact rfl
    | with_reducible apply State.count_kept
    | with_reducible apply State.ledgerAdd_kept
    | with_reducible apply State.setPair_kept
    | split
    | extract_lets
    | simp -zeta +zetaDelta only [Kept.other_iff]

theorem State.withdrawFence_kept {o0 : State} (s : State) (hk : Kept o0 s) : Kept o0 (State.withdrawFence s) := by
  unfold State.withdrawFence
  repeat' first
    | with_reducible assumption
    | simp -zeta only [Kept.other_iff]
    | with_reducible apply State.controlPost_kept
    | with_reducible apply State.setPair_kept
    | with_reducible apply State.lowerFence_kept
    | with_reducible apply State.dropJournal_kept
    | split
    | extract_lets
    | simp -zeta +zetaDelta only [Kept.other_iff]

theorem State.fenceTick_kept {o0 : State} (s : State) (hk : Kept o0 s) : Kept o0 (State.fenceTick s) := by
  unfold State.fenceTick
  repeat' first
    | with_reducible assumption
    | simp -zeta only [Kept.other_iff]
    | with_reducible apply State.enterDegraded_kept
    | with_reducible apply State.withdrawFence_kept
    | split
    | extract_lets
    | simp -zeta +zetaDelta only [Kept.other_iff]

theorem State.markTold_kept {o0 : State} (s : State) (g n : Nat) (told : Bool) (hk : Kept o0 s) : Kept o0 (State.markTold s g n told) := by
  unfold State.markTold
  repeat' first
    | with_reducible assumption
    | simp -zeta only [Kept.other_iff]
    | with_reducible apply State.updGal_kept
    | intro _
    | extract_lets
    | simp -zeta +zetaDelta only [Kept.other_iff]

theorem State.pairGallery_out {o0 s t : State} {g n : Nat} {a : GalleryAct} (h : Kept o0 s) (e : s.pairGallery g a = (t, n)) : Kept o0 t := by
  unfold State.pairGallery at e
  split at e
  · cases e; exact State.sendFrame_kept _ _ h
  · cases e; exact h

theorem State.pairGallery_kept {o0 s : State} {g : Nat} {a : GalleryAct} (h : Kept o0 s) : Kept o0 (s.pairGallery g a).1 :=
  State.pairGallery_out h rfl

/-! ## ReqOps -/

theorem State.voidRows_kept {o0 : State} (s : State) (r : Req) (hk : Kept o0 s) : Kept o0 (State.voidRows s r) := by
  unfold State.voidRows
  repeat' first
    | with_reducible assumption
    | simp -zeta only [Kept.other_iff]
    | with_reducible apply State.updWing_kept
    | with_reducible apply State.count_kept
    | split
    | intro _
    | extract_lets
    | simp -zeta +zetaDelta only [Kept.other_iff]

theorem State.armWheel_kept {o0 : State} (s : State) (acc : Nat) (hk : Kept o0 s) : Kept o0 (State.armWheel s acc) := by
  unfold State.armWheel
  repeat' first
    | with_reducible assumption
    | simp -zeta only [Kept.other_iff]
    | split
    | intro _
    | extract_lets
    | simp -zeta +zetaDelta only [Kept.other_iff]

theorem State.mapWrite_kept {o0 : State} (s : State) (w p v : Nat) (hk : Kept o0 s) : Kept o0 (State.mapWrite s w p v) := by
  unfold State.mapWrite
  repeat' first
    | with_reducible assumption
    | simp -zeta only [Kept.other_iff]
    | with_reducible apply State.smpSend_kept
    | split
    | extract_lets
    | simp -zeta +zetaDelta only [Kept.other_iff]

theorem State.mapPage_kept {o0 : State} (s : State) (w p : Nat) (copy : Bool) (h : Kept o0 s) : Kept o0 (s.mapPage w p copy) := by
  have h1 : Kept o0 (s.mapWrite w p (2 ^ 31 + b2n copy * 2 ^ 30 + s.mapTarget w p)) := State.mapWrite_kept _ _ _ _ h
  unfold State.mapPage
  generalize s.mapWrite w p (2 ^ 31 + b2n copy * 2 ^ 30 + s.mapTarget w p) = u at *
  extract_lets
  split
  · simp -zeta only [Kept.other_iff]; exact h1
  · exact h1

theorem State.unmapFreed_kept {o0 : State} (s : State) (w : Nat) (ps : List Nat) (hk : Kept o0 s) : Kept o0 (State.unmapFreed s w ps) := by
  unfold State.unmapFreed
  repeat' first
    | with_reducible assumption
    | simp -zeta only [Kept.other_iff]
    | with_reducible apply State.mapWrite_kept
    | (with_reducible refine Kept.foldl ?_ ?_)
    | intro _
    | extract_lets
    | simp -zeta +zetaDelta only [Kept.other_iff]

theorem State.freePages_kept {o0 : State} (s : State) (acc : Nat) (hk : Kept o0 s) : Kept o0 (State.freePages s acc) := by
  unfold State.freePages
  repeat' first
    | with_reducible assumption
    | simp -zeta only [Kept.other_iff]
    | with_reducible apply State.unmapFreed_kept
    | split
    | intro _
    | extract_lets
    | simp -zeta +zetaDelta only [Kept.other_iff]

theorem State.boundaryFrees_kept {o0 : State} (s : State) (w : Nat) (hk : Kept o0 s) : Kept o0 (State.boundaryFrees s w) := by
  unfold State.boundaryFrees
  repeat' first
    | with_reducible assumption
    | simp -zeta only [Kept.other_iff]
    | with_reducible apply State.freePages_kept
    | (with_reducible refine Kept.foldl ?_ ?_)
    | intro _
    | extract_lets
    | simp -zeta +zetaDelta only [Kept.other_iff]

theorem State.markDeaccessioned_kept {o0 : State} (s : State) (acc reason : Nat) (hk : Kept o0 s) : Kept o0 (State.markDeaccessioned s acc reason) := by
  unfold State.markDeaccessioned
  repeat' first
    | with_reducible assumption
    | simp -zeta only [Kept.other_iff]
    | with_reducible apply State.updGal_kept
    | with_reducible apply State.updReq_kept
    | with_reducible apply State.count_kept
    | with_reducible apply State.voidRows_kept
    | with_reducible apply State.armWheel_kept
    | split
    | intro _
    | extract_lets
    | simp -zeta +zetaDelta only [Kept.other_iff]

theorem State.tokenlessFinal_kept {o0 : State} (s : State) (acc reason : Nat) (hk : Kept o0 s) : Kept o0 (State.tokenlessFinal s acc reason) := by
  unfold State.tokenlessFinal
  repeat' first
    | with_reducible assumption
    | simp -zeta only [Kept.other_iff]
    | with_reducible apply State.updReq_kept
    | split
    | intro _
    | extract_lets
    | simp -zeta +zetaDelta only [Kept.other_iff]

theorem State.deaccession_kept {o0 : State} (s : State) (acc reason : Nat) (hk : Kept o0 s) : Kept o0 (State.deaccession s acc reason) := by
  unfold State.deaccession
  repeat' first
    | with_reducible assumption
    | simp -zeta only [Kept.other_iff]
    | with_reducible apply State.markDeaccessioned_kept
    | with_reducible apply State.tokenlessFinal_kept
    | split
    | extract_lets
    | simp -zeta +zetaDelta only [Kept.other_iff]

theorem State.dataLost_kept {o0 : State} (s : State) (acc region : Nat) (hk : Kept o0 s) : Kept o0 (State.dataLost s acc region) := by
  unfold State.dataLost
  repeat' first
    | with_reducible assumption
    | simp -zeta only [Kept.other_iff]
    | with_reducible apply State.report_kept
    | with_reducible apply State.deaccession_kept
    | split
    | extract_lets
    | simp -zeta +zetaDelta only [Kept.other_iff]

theorem State.freeSlot_kept {o0 : State} (s : State) (acc : Nat) (hk : Kept o0 s) : Kept o0 (State.freeSlot s acc) := by
  unfold State.freeSlot
  repeat' first
    | with_reducible assumption
    | simp -zeta only [Kept.other_iff]
    | with_reducible apply State.mirrorEvent_kept
    | with_reducible apply State.freePages_kept
    | split
    | intro _
    | extract_lets
    | simp -zeta +zetaDelta only [Kept.other_iff]

theorem State.askDeaccession_kept {o0 : State} (s : State) (acc reason : Nat) (hk : Kept o0 s) : Kept o0 (State.askDeaccession s acc reason) := by
  unfold State.askDeaccession
  repeat' first
    | with_reducible assumption
    | simp -zeta only [Kept.other_iff]
    | with_reducible apply State.updReq_kept
    | with_reducible apply State.deaccession_kept
    | split
    | intro _
    | extract_lets
    | simp -zeta +zetaDelta only [Kept.other_iff]

theorem State.discardRequest_kept {o0 : State} (s : State) (acc : Nat) (hk : Kept o0 s) : Kept o0 (State.discardRequest s acc) := by
  unfold State.discardRequest
  repeat' first
    | with_reducible assumption
    | simp -zeta only [Kept.other_iff]
    | with_reducible apply State.mirrorEvent_kept
    | with_reducible apply State.markDeaccessioned_kept
    | with_reducible apply State.freeSlot_kept
    | intro _
    | extract_lets
    | simp -zeta +zetaDelta only [Kept.other_iff]

theorem State.withdrawRequest_kept {o0 : State} (s : State) (acc : Nat) (hk : Kept o0 s) : Kept o0 (State.withdrawRequest s acc) := by
  unfold State.withdrawRequest
  repeat' first
    | with_reducible assumption
    | simp -zeta only [Kept.other_iff]
    | with_reducible apply State.voidRows_kept
    | with_reducible apply State.freeSlot_kept
    | split
    | intro _
    | extract_lets
    | simp -zeta +zetaDelta only [Kept.other_iff]

theorem State.checkHeld_kept {o0 : State} (s : State) (acc : Nat) (hk : Kept o0 s) : Kept o0 (State.checkHeld s acc) := by
  unfold State.checkHeld
  repeat' first
    | with_reducible assumption
    | simp -zeta only [Kept.other_iff]
    | with_reducible apply State.updReq_kept
    | with_reducible apply State.count_kept
    | with_reducible apply State.event_kept
    | split
    | intro _
    | extract_lets
    | simp -zeta +zetaDelta only [Kept.other_iff]

/-! ## Shapes -/

theorem State.keepPeriod_kept {o0 : State} (s : State) (w : Nat) (hk : Kept o0 s) : Kept o0 (State.keepPeriod s w) := by
  unfold State.keepPeriod
  repeat' first
    | with_reducible assumption
    | simp -zeta only [Kept.other_iff]
    | with_reducible apply State.updWing_kept
    | intro _
    | extract_lets
    | simp -zeta +zetaDelta only [Kept.other_iff]

theorem State.takeBudgets_kept {o0 : State} (s : State) (w : Nat) (hk : Kept o0 s) : Kept o0 (State.takeBudgets s w) := by
  unfold State.takeBudgets
  repeat' first
    | with_reducible assumption
    | simp -zeta only [Kept.other_iff]
    | intro _
    | extract_lets
    | simp -zeta +zetaDelta only [Kept.other_iff]

/-! ## Maint -/

theorem State.startActivity_kept {o0 : State} (s : State) (code scope : Nat) (seq : Option W32) (fence : Nat) (hk : Kept o0 s) : Kept o0 (State.startActivity s code scope seq fence) := by
  unfold State.startActivity
  repeat' first
    | with_reducible assumption
    | simp -zeta only [Kept.other_iff]
    | with_reducible apply State.event_kept
    | extract_lets
    | simp -zeta +zetaDelta only [Kept.other_iff]

theorem State.dropActivity_kept {o0 : State} (s : State) (code scope : Nat) (hk : Kept o0 s) : Kept o0 (State.dropActivity s code scope) := by
  unfold State.dropActivity
  repeat' first
    | with_reducible assumption
    | simp -zeta only [Kept.other_iff]
    | intro _
    | extract_lets
    | simp -zeta +zetaDelta only [Kept.other_iff]

theorem State.endActivity_kept {o0 : State} (s : State) (code scope result : Nat) (hk : Kept o0 s) : Kept o0 (State.endActivity s code scope result) := by
  unfold State.endActivity
  repeat' first
    | with_reducible assumption
    | simp -zeta only [Kept.other_iff]
    | with_reducible apply State.raiseVec_kept
    | with_reducible apply State.event_kept
    | with_reducible apply State.dropActivity_kept
    | extract_lets
    | simp -zeta +zetaDelta only [Kept.other_iff]

theorem State.fencedActivities_kept {o0 : State} (s : State) (hk : Kept o0 s) : Kept o0 (State.fencedActivities s) := by
  unfold State.fencedActivities
  repeat' first
    | with_reducible assumption
    | simp -zeta only [Kept.other_iff]
    | with_reducible apply State.endActivity_kept
    | (with_reducible refine Kept.foldl ?_ ?_)
    | intro _
    | extract_lets
    | simp -zeta +zetaDelta only [Kept.other_iff]

theorem execIdentityStatus_kept {o0 : State} (ring : Fin 8) (s : State) (hk : Kept o0 s) : KeptOut o0 (execIdentityStatus ring s) := by
  unfold execIdentityStatus
  repeat' first
    | with_reducible assumption
    | simp -zeta only [Kept.other_iff, KeptOut.next]
    | with_reducible apply clearCommand_kept
    | intro _
    | extract_lets
    | simp -zeta +zetaDelta only [Kept.other_iff]

theorem execGetCertificate_kept {o0 : State} (ring : Fin 8) (s : State) (hk : Kept o0 s) : KeptOut o0 (execGetCertificate ring s) := by
  unfold execGetCertificate
  repeat' first
    | with_reducible assumption
    | simp -zeta only [Kept.other_iff, KeptOut.next]
    | with_reducible apply State.take_kept
    | with_reducible apply clearCommand_kept
    | intro _
    | extract_lets
    | simp -zeta +zetaDelta only [Kept.other_iff]

theorem execGetProvenance_kept {o0 : State} (ring : Fin 8) (s : State) (hk : Kept o0 s) : KeptOut o0 (execGetProvenance ring s) := by
  unfold execGetProvenance
  repeat' first
    | with_reducible assumption
    | simp -zeta only [Kept.other_iff, KeptOut.next]
    | with_reducible apply clearCommand_kept
    | intro _
    | extract_lets
    | simp -zeta +zetaDelta only [Kept.other_iff]

theorem execMaintStatus_kept {o0 : State} (ring : Fin 8) (s : State) (hk : Kept o0 s) : KeptOut o0 (execMaintStatus ring s) := by
  unfold execMaintStatus
  repeat' first
    | with_reducible assumption
    | simp -zeta only [Kept.other_iff, KeptOut.next]
    | with_reducible apply clearCommand_kept
    | intro _
    | extract_lets
    | simp -zeta +zetaDelta only [Kept.other_iff]

end Sys2Proof.Machine
end

