-- ==== Sys2Proof/Laws/Kept2.lean ====
section
/-! SUPPORT. `Kept` of each operation and meaning of Machine/Observe, Galleries, Catalogue, Requests, Accession, Aids, Ready, Compose.lean. -/

set_option linter.unusedSimpArgs false

namespace Sys2Proof.Machine

open Sys2Proof.Bytes

/-! ## Observe -/

theorem execNop_kept {o0 : State} (ring : Fin 8) (s : State) (hk : Kept o0 s) : KeptOut o0 (execNop ring s) := by
  unfold execNop
  repeat' first
    | with_reducible assumption
    | simp -zeta only [Kept.other_iff, KeptOut.next]
    | with_reducible apply clearCommand_kept
    | intro _
    | extract_lets
    | simp -zeta +zetaDelta only [Kept.other_iff]

theorem State.bankOp_kept {o0 : State} (s : State) (e : BankEntry) (hk : Kept o0 s) : Kept o0 (State.bankOp s e) := by
  unfold State.bankOp
  repeat' first
    | with_reducible assumption
    | simp -zeta only [Kept.other_iff]
    | with_reducible apply State.writeEvent_kept
    | with_reducible apply State.event_kept
    | split
    | extract_lets
    | simp -zeta +zetaDelta only [Kept.other_iff]

theorem State.bankTick_kept {o0 : State} (s : State) (hk : Kept o0 s) : Kept o0 (State.bankTick s) := by
  unfold State.bankTick
  repeat' first
    | with_reducible assumption
    | simp -zeta only [Kept.other_iff]
    | with_reducible apply State.bankOp_kept
    | (with_reducible refine Kept.foldl ?_ ?_)
    | intro _
    | extract_lets
    | simp -zeta +zetaDelta only [Kept.other_iff]

theorem State.armSnapshot_kept {o0 : State} (s : State) (at_ : Nat) (freeze : Bool) (hk : Kept o0 s) : Kept o0 (State.armSnapshot s at_ freeze) := by
  unfold State.armSnapshot
  repeat' first
    | with_reducible assumption
    | simp -zeta only [Kept.other_iff]
    | extract_lets
    | simp -zeta +zetaDelta only [Kept.other_iff]

theorem execSnapshot_kept {o0 : State} (ring : Fin 8) (s : State) (hk : Kept o0 s) : KeptOut o0 (execSnapshot ring s) := by
  unfold execSnapshot
  repeat' first
    | with_reducible assumption
    | simp -zeta only [Kept.other_iff, KeptOut.next]
    | with_reducible apply clearCommand_kept
    | with_reducible apply State.armSnapshot_kept
    | intro _
    | extract_lets
    | simp -zeta +zetaDelta only [Kept.other_iff]

theorem execSnapshotTick_kept {o0 : State} (s : State) (hk : Kept o0 s) : KeptOut o0 (execSnapshotTick s) := by
  unfold execSnapshotTick
  repeat' first
    | with_reducible assumption
    | simp -zeta only [Kept.other_iff, KeptOut.next]
    | with_reducible apply State.bank_kept
    | (with_reducible refine Kept.foldl ?_ ?_)
    | split
    | intro _
    | extract_lets
    | simp -zeta +zetaDelta only [Kept.other_iff]

theorem execSnapshotTaken_kept {o0 : State} (s : State) (hk : Kept o0 s) : KeptOut o0 (execSnapshotTaken s) := by
  unfold execSnapshotTaken
  repeat' first
    | with_reducible assumption
    | simp -zeta only [Kept.other_iff, KeptOut.next]
    | with_reducible apply State.event_kept
    | split
    | intro _
    | extract_lets
    | simp -zeta +zetaDelta only [Kept.other_iff]

theorem State.announceSnapshot_kept {o0 : State} (s : State) (hk : Kept o0 s) : Kept o0 (State.announceSnapshot s) := by
  unfold State.announceSnapshot
  repeat' first
    | with_reducible assumption
    | simp -zeta only [Kept.other_iff]
    | with_reducible apply State.keeperCause_kept
    | split
    | extract_lets
    | simp -zeta +zetaDelta only [Kept.other_iff]

theorem execCounterReset_kept {o0 : State} (ring : Fin 8) (s : State) (hk : Kept o0 s) : KeptOut o0 (execCounterReset ring s) := by
  unfold execCounterReset
  repeat' first
    | with_reducible assumption
    | simp -zeta only [Kept.other_iff, KeptOut.next]
    | with_reducible apply State.bank_kept
    | with_reducible apply clearCommand_kept
    | (with_reducible refine Kept.foldl ?_ ?_)
    | intro _
    | extract_lets
    | simp -zeta +zetaDelta only [Kept.other_iff]

theorem execDaybookCtrl_kept {o0 : State} (ring : Fin 8) (s : State) (hk : Kept o0 s) : KeptOut o0 (execDaybookCtrl ring s) := by
  unfold execDaybookCtrl
  repeat' first
    | with_reducible assumption
    | simp -zeta only [Kept.other_iff, KeptOut.next]
    | with_reducible apply clearCommand_kept
    | intro _
    | extract_lets
    | simp -zeta +zetaDelta only [Kept.other_iff]

theorem execFreeze_kept {o0 : State} (ring : Fin 8) (s : State) (hk : Kept o0 s) : KeptOut o0 (execFreeze ring s) := by
  unfold execFreeze
  repeat' first
    | with_reducible assumption
    | simp -zeta only [Kept.other_iff, KeptOut.next]
    | with_reducible apply clearCommand_kept
    | intro _
    | extract_lets
    | simp -zeta +zetaDelta only [Kept.other_iff]

theorem execThaw_kept {o0 : State} (ring : Fin 8) (s : State) (hk : Kept o0 s) : KeptOut o0 (execThaw ring s) := by
  unfold execThaw
  repeat' first
    | with_reducible assumption
    | simp -zeta only [Kept.other_iff, KeptOut.next]
    | with_reducible apply clearCommand_kept
    | intro _
    | extract_lets
    | simp -zeta +zetaDelta only [Kept.other_iff]

theorem execFreezeComplete_kept {o0 : State} (s : State) (hk : Kept o0 s) : KeptOut o0 (execFreezeComplete s) := by
  unfold execFreezeComplete
  repeat' first
    | with_reducible assumption
    | simp -zeta only [Kept.other_iff, KeptOut.next]
    | with_reducible apply State.armSnapshot_kept
    | split
    | intro _
    | extract_lets
    | simp -zeta +zetaDelta only [Kept.other_iff]

/-! ## Galleries -/

theorem State.charge_kept {o0 : State} (s : State) (g units : Nat) (hk : Kept o0 s) : Kept o0 (State.charge s g units) := by
  unfold State.charge
  repeat' first
    | with_reducible assumption
    | simp -zeta only [Kept.other_iff]
    | with_reducible apply State.updGal_kept
    | intro _
    | extract_lets
    | simp -zeta +zetaDelta only [Kept.other_iff]

theorem State.loadKeys_kept {o0 : State} (s : State) (g : Nat) (key : Key256) (ws : List Nat) (hk : Kept o0 s) : Kept o0 (State.loadKeys s g key ws) := by
  unfold State.loadKeys
  repeat' first
    | with_reducible assumption
    | simp -zeta only [Kept.other_iff]
    | with_reducible apply State.updGal_kept
    | with_reducible apply State.kybSend_kept
    | (with_reducible refine Kept.foldl ?_ ?_)
    | intro _
    | extract_lets
    | simp -zeta +zetaDelta only [Kept.other_iff]

theorem State.openGallery_kept {o0 : State} (s : State) (g policy gen : Nat) (keys : GalleryKeys) (hk : Kept o0 s) : Kept o0 (State.openGallery s g policy gen keys) := by
  unfold State.openGallery
  repeat' first
    | with_reducible assumption
    | simp -zeta only [Kept.other_iff]
    | with_reducible apply State.updGal_kept
    | with_reducible apply State.loadKeys_kept
    | intro _
    | extract_lets
    | simp -zeta +zetaDelta only [Kept.other_iff]

theorem State.closeGallery_kept {o0 : State} (s : State) (g : Nat) (hk : Kept o0 s) : Kept o0 (State.closeGallery s g) := by
  unfold State.closeGallery
  repeat' first
    | with_reducible assumption
    | simp -zeta only [Kept.other_iff]
    | with_reducible apply State.updGal_kept
    | with_reducible apply State.kybSend_kept
    | with_reducible apply State.discardRequest_kept
    | (with_reducible refine Kept.foldl ?_ ?_)
    | intro _
    | extract_lets
    | simp -zeta +zetaDelta only [Kept.other_iff]

theorem openBody9_kept {o0 : State} (c : Cmd) (s : State) (hk : Kept o0 s) : Kept o0 (openBody9 c s).state := by
  unfold openBody9
  repeat' first
    | with_reducible assumption
    | simp -zeta only [Kept.other_iff, refuse_state, busy_state]
    | (simp -zeta only [Kept.lit_iff]; with_reducible refine KeptLit.intro ?_ ?_ ?_ ?_)
    | with_reducible exact MemStep.refl _
    | with_reducible exact SecStep.refl _
    | with_reducible rfl
    | with_reducible apply State.drawn_kept
    | with_reducible apply Done.refuse_kept
    | with_reducible apply Done.busy_kept
    | with_reducible apply State.pairGallery_kept
    | with_reducible apply State.openGallery_kept
    | with_reducible refine State.pairGallery_out ?_ ‹_›
    | split
    | extract_lets
    | simp -zeta +zetaDelta only [Kept.other_iff]

theorem execGalleryOpen_kept {o0 : State} (ring : Fin 8) (s : State) (hk : Kept o0 s) : KeptOut o0 (execGalleryOpen ring s) := by
  unfold execGalleryOpen
  repeat' first
    | with_reducible assumption
    | simp -zeta only [Kept.other_iff, KeptOut.next]
    | with_reducible apply clearCommand_kept
    | with_reducible apply openBody9_kept
    | extract_lets
    | simp -zeta +zetaDelta only [Kept.other_iff]

theorem execGalleryClose_kept {o0 : State} (ring : Fin 8) (s : State) (hk : Kept o0 s) : KeptOut o0 (execGalleryClose ring s) := by
  unfold execGalleryClose
  repeat' first
    | with_reducible assumption
    | simp -zeta only [Kept.other_iff, KeptOut.next, refuse_state, busy_state]
    | with_reducible apply Done.refuse_kept
    | with_reducible apply Done.busy_kept
    | with_reducible apply clearCommand_kept
    | with_reducible apply State.pairGallery_kept
    | with_reducible apply State.startActivity_kept
    | with_reducible apply State.closeGallery_kept
    | with_reducible refine State.pairGallery_out ?_ ‹_›
    | split
    | intro _
    | extract_lets
    | simp -zeta +zetaDelta only [Kept.other_iff]

theorem execGalleryCloseComplete_kept {o0 : State} (gallery : Nat) (s : State) (hk : Kept o0 s) : KeptOut o0 (execGalleryCloseComplete gallery s) := by
  unfold execGalleryCloseComplete
  repeat' first
    | with_reducible assumption
    | simp -zeta only [Kept.other_iff, KeptOut.next]
    | with_reducible apply State.updGal_kept
    | with_reducible apply State.endActivity_kept
    | split
    | intro _
    | extract_lets
    | simp -zeta +zetaDelta only [Kept.other_iff]

theorem execGalleryBudget_kept {o0 : State} (ring : Fin 8) (s : State) (hk : Kept o0 s) : KeptOut o0 (execGalleryBudget ring s) := by
  unfold execGalleryBudget
  repeat' first
    | with_reducible assumption
    | simp -zeta only [Kept.other_iff, KeptOut.next, refuse_state, busy_state]
    | with_reducible apply State.updGal_kept
    | with_reducible apply Done.refuse_kept
    | with_reducible apply clearCommand_kept
    | split
    | intro _
    | extract_lets
    | simp -zeta +zetaDelta only [Kept.other_iff]

theorem State.installRekey_kept {o0 : State} (s : State) (g keyGen : Nat) (keys : GalleryKeys) (hk : Kept o0 s) : Kept o0 (State.installRekey s g keyGen keys) := by
  unfold State.installRekey
  repeat' first
    | with_reducible assumption
    | simp -zeta only [Kept.other_iff]
    | with_reducible apply State.updGal_kept
    | intro _
    | extract_lets
    | simp -zeta +zetaDelta only [Kept.other_iff]

theorem rekeyBody_kept {o0 : State} (c : Cmd) (o : Opened) (s : State) (hk : Kept o0 s) : Kept o0 (rekeyBody c o s).state := by
  unfold rekeyBody
  repeat' first
    | with_reducible assumption
    | simp -zeta only [Kept.other_iff, refuse_state, busy_state]
    | (simp -zeta only [Kept.lit_iff]; with_reducible refine KeptLit.intro ?_ ?_ ?_ ?_)
    | with_reducible exact MemStep.refl _
    | with_reducible exact SecStep.refl _
    | with_reducible rfl
    | with_reducible apply State.drawn_kept
    | with_reducible apply Done.refuse_kept
    | with_reducible apply Done.busy_kept
    | with_reducible apply State.pairGallery_kept
    | with_reducible apply State.startActivity_kept
    | with_reducible apply State.endActivity_kept
    | with_reducible apply State.installRekey_kept
    | with_reducible refine State.pairGallery_out ?_ ‹_›
    | split
    | extract_lets
    | simp -zeta +zetaDelta only [Kept.other_iff]

theorem execGalleryRekey_kept {o0 : State} (ring : Fin 8) (s : State) (hk : Kept o0 s) : KeptOut o0 (execGalleryRekey ring s) := by
  unfold execGalleryRekey
  repeat' first
    | with_reducible assumption
    | simp -zeta only [Kept.other_iff, KeptOut.next]
    | with_reducible apply sealedCommand_kept
    | with_reducible apply State.tellCounter_kept
    | with_reducible apply rekeyBody_kept
    | intro _
    | extract_lets
    | simp -zeta +zetaDelta only [Kept.other_iff]

theorem execGalleryReport_kept {o0 : State} (ring : Fin 8) (s : State) (hk : Kept o0 s) : KeptOut o0 (execGalleryReport ring s) := by
  unfold execGalleryReport
  repeat' first
    | with_reducible assumption
    | simp -zeta only [Kept.other_iff, KeptOut.next, refuse_state, busy_state]
    | with_reducible apply Done.refuse_kept
    | with_reducible apply sealedCommand_kept
    | with_reducible apply State.tellCounter_kept
    | split
    | intro _
    | extract_lets
    | simp -zeta +zetaDelta only [Kept.other_iff]

theorem execGalleryInfo_kept {o0 : State} (ring : Fin 8) (s : State) (hk : Kept o0 s) : KeptOut o0 (execGalleryInfo ring s) := by
  unfold execGalleryInfo
  repeat' first
    | with_reducible assumption
    | simp -zeta only [Kept.other_iff, KeptOut.next]
    | with_reducible apply clearCommand_kept
    | split
    | intro _
    | extract_lets
    | simp -zeta +zetaDelta only [Kept.other_iff]

theorem execKybAck_kept {o0 : State} (wing : Fin 4) (target : Bool) (_status : BitVec 2) (s : State) (hk : Kept o0 s) : KeptOut o0 (execKybAck wing target _status s) := by
  unfold execKybAck
  repeat' first
    | with_reducible assumption
    | simp -zeta only [Kept.other_iff, KeptOut.next]
    | with_reducible apply State.updGal_kept
    | with_reducible apply State.flushReplies_kept
    | with_reducible apply State.smpFlush_kept
    | split
    | intro _
    | extract_lets
    | simp -zeta +zetaDelta only [Kept.other_iff]

/-! ## Catalogue -/

theorem stageBody_kept {o0 : State} (c : Cmd) (s : State) (hk : Kept o0 s) : Kept o0 (stageBody c s).state := by
  unfold stageBody
  repeat' first
    | with_reducible assumption
    | simp -zeta only [Kept.other_iff, refuse_state, busy_state]
    | with_reducible apply State.wrote_kept
    | with_reducible apply State.updWing_kept
    | with_reducible apply State.event_kept
    | with_reducible apply Done.busy_kept
    | with_reducible apply State.startActivity_kept
    | (with_reducible refine Kept.foldl ?_ ?_)
    | split
    | intro _
    | extract_lets
    | simp -zeta +zetaDelta only [Kept.other_iff]

theorem execCatStage_kept {o0 : State} (ring : Fin 8) (s : State) (hk : Kept o0 s) : KeptOut o0 (execCatStage ring s) := by
  unfold execCatStage
  repeat' first
    | with_reducible assumption
    | simp -zeta only [Kept.other_iff, KeptOut.next]
    | with_reducible apply clearCommand_kept
    | with_reducible apply stageBody_kept
    | extract_lets
    | simp -zeta +zetaDelta only [Kept.other_iff]

theorem State.flip_kept {o0 : State} (s : State) (w : Nat) (hk : Kept o0 s) : Kept o0 (State.flip s w) := by
  unfold State.flip
  repeat' first
    | with_reducible assumption
    | simp -zeta only [Kept.other_iff]
    | (simp -zeta only [Kept.lit_iff]; with_reducible refine KeptLit.intro ?_ ?_ ?_ ?_)
    | with_reducible exact MemStep.refl _
    | with_reducible exact SecStep.refl _
    | with_reducible rfl
    | exact rfl
    | with_reducible apply State.updWing_kept
    | with_reducible apply State.endActivity_kept
    | split
    | intro _
    | extract_lets
    | simp -zeta +zetaDelta only [Kept.other_iff]

theorem State.acceptCommit_kept {o0 : State} (s : State) (w : Nat) (es : List CatEntry) (sig : Sig) (seq : Option W32) (hk : Kept o0 s) : Kept o0 (State.acceptCommit s w es sig seq) := by
  unfold State.acceptCommit
  repeat' first
    | with_reducible assumption
    | simp -zeta only [Kept.other_iff]
    | with_reducible apply State.updWing_kept
    | with_reducible apply State.event_kept
    | with_reducible apply State.keepPeriod_kept
    | with_reducible apply State.startActivity_kept
    | with_reducible apply State.dropActivity_kept
    | split
    | intro _
    | extract_lets
    | simp -zeta +zetaDelta only [Kept.other_iff]

theorem commitBody_kept {o0 : State} (c : Cmd) (s : State) (hk : Kept o0 s) : Kept o0 (commitBody c s).state := by
  unfold commitBody
  repeat' first
    | with_reducible assumption
    | simp -zeta only [Kept.other_iff, refuse_state, busy_state]
    | with_reducible apply Done.refuse_kept
    | with_reducible apply Done.busy_kept
    | with_reducible apply State.sendFrame_kept
    | with_reducible apply State.acceptCommit_kept
    | split
    | extract_lets
    | simp -zeta +zetaDelta only [Kept.other_iff]

theorem execCatCommit_kept {o0 : State} (ring : Fin 8) (s : State) (hk : Kept o0 s) : KeptOut o0 (execCatCommit ring s) := by
  unfold execCatCommit
  repeat' first
    | with_reducible assumption
    | simp -zeta only [Kept.other_iff, KeptOut.next]
    | with_reducible apply clearCommand_kept
    | with_reducible apply commitBody_kept
    | extract_lets
    | simp -zeta +zetaDelta only [Kept.other_iff]

theorem execCatArchive_kept {o0 : State} (ring : Fin 8) (s : State) (hk : Kept o0 s) : KeptOut o0 (execCatArchive ring s) := by
  unfold execCatArchive
  repeat' first
    | with_reducible assumption
    | simp -zeta only [Kept.other_iff, KeptOut.next, refuse_state, busy_state]
    | with_reducible apply State.emit_kept
    | with_reducible apply Done.refuse_kept
    | with_reducible apply Done.busy_kept
    | with_reducible apply clearCommand_kept
    | split
    | intro _
    | extract_lets
    | simp -zeta +zetaDelta only [Kept.other_iff]

theorem execCatArchiveDone_kept {o0 : State} (s : State) (hk : Kept o0 s) : KeptOut o0 (execCatArchiveDone s) := by
  unfold execCatArchiveDone
  repeat' first
    | with_reducible assumption
    | simp -zeta only [Kept.other_iff, KeptOut.next]
    | split
    | extract_lets
    | simp -zeta +zetaDelta only [Kept.other_iff]

theorem execWingPolicy_kept {o0 : State} (ring : Fin 8) (s : State) (hk : Kept o0 s) : KeptOut o0 (execWingPolicy ring s) := by
  unfold execWingPolicy
  repeat' first
    | with_reducible assumption
    | simp -zeta only [Kept.other_iff, KeptOut.next, refuse_state, busy_state]
    | with_reducible apply State.updWing_kept
    | with_reducible apply Done.refuse_kept
    | with_reducible apply clearCommand_kept
    | with_reducible apply State.keepPeriod_kept
    | split
    | intro _
    | extract_lets
    | simp -zeta +zetaDelta only [Kept.other_iff]

theorem shapeCommand_kept {o0 : State} (action : Nat) (act : Nat → CatEntry → State → Done) (ring : Fin 8) (s : State) (h : Kept o0 s)
    (ha : ∀ w e u, Kept o0 u → Kept o0 (act w e u).state) : Kept o0 (shapeCommand action act ring s) := by
  unfold shapeCommand
  extract_lets
  split
  · exact h
  · refine clearCommand_kept _ _ _ _ _ h fun c u hu => ?_
    repeat' first
      | with_reducible assumption
      | simp -zeta only [refuse_state, busy_state]
      | with_reducible apply ha
      | split
      | extract_lets

theorem execShapeStateRead_kept {o0 : State} (ring : Fin 8) (s : State) (hk : Kept o0 s) : KeptOut o0 (execShapeStateRead ring s) := by
  unfold execShapeStateRead
  repeat' first
    | with_reducible assumption
    | simp -zeta only [Kept.other_iff, KeptOut.next]
    | with_reducible apply shapeCommand_kept
    | intro _
    | extract_lets
    | simp -zeta +zetaDelta only [Kept.other_iff]

theorem execShapeStateRelease_kept {o0 : State} (ring : Fin 8) (s : State) (hk : Kept o0 s) : KeptOut o0 (execShapeStateRelease ring s) := by
  unfold execShapeStateRelease
  repeat' first
    | with_reducible assumption
    | simp -zeta only [Kept.other_iff, KeptOut.next]
    | with_reducible apply State.updWing_kept
    | with_reducible apply shapeCommand_kept
    | split
    | intro _
    | extract_lets
    | simp -zeta +zetaDelta only [Kept.other_iff]

theorem execShapeStateDisable_kept {o0 : State} (ring : Fin 8) (s : State) (hk : Kept o0 s) : KeptOut o0 (execShapeStateDisable ring s) := by
  unfold execShapeStateDisable
  repeat' first
    | with_reducible assumption
    | simp -zeta only [Kept.other_iff, KeptOut.next, refuse_state, busy_state]
    | with_reducible apply State.updWing_kept
    | with_reducible apply Done.refuse_kept
    | with_reducible apply shapeCommand_kept
    | split
    | intro _
    | extract_lets
    | simp -zeta +zetaDelta only [Kept.other_iff]

theorem State.breachEntry_kept {o0 : State} (s : State) (w : Nat) (fp : W64) (f : BreachEntry → BreachEntry) (hk : Kept o0 s) : Kept o0 (State.breachEntry s w fp f) := by
  unfold State.breachEntry
  repeat' first
    | with_reducible assumption
    | simp -zeta only [Kept.other_iff]
    | split
    | intro _
    | extract_lets
    | simp -zeta +zetaDelta only [Kept.other_iff]

theorem State.shapesDue_kept {o0 : State} (s : State) (w : Nat) (hk : Kept o0 s) : Kept o0 (State.shapesDue s w) := by
  unfold State.shapesDue
  repeat' first
    | with_reducible assumption
    | simp -zeta only [Kept.other_iff]
    | with_reducible apply State.updWing_kept
    | with_reducible apply State.report_kept
    | with_reducible apply State.breachEntry_kept
    | (with_reducible refine Kept.foldl ?_ ?_)
    | split
    | intro _
    | extract_lets
    | simp -zeta +zetaDelta only [Kept.other_iff]

/-! ## Accession -/

theorem State.smpArea_kept {o0 : State} (s : State) (w base slot : Nat) (use : SmpUse) (bs : List Byte) (hk : Kept o0 s) : Kept o0 (State.smpArea s w base slot use bs) := by
  unfold State.smpArea
  repeat' first
    | with_reducible assumption
    | simp -zeta only [Kept.other_iff]
    | with_reducible apply State.smpSend_kept
    | (with_reducible refine Kept.foldl ?_ ?_)
    | intro _
    | extract_lets
    | simp -zeta +zetaDelta only [Kept.other_iff]

theorem State.writeAreas_kept {o0 : State} (s : State) (r : Req) (hk : Kept o0 s) : Kept o0 (State.writeAreas s r) := by
  unfold State.writeAreas
  repeat' first
    | with_reducible assumption
    | simp -zeta only [Kept.other_iff]
    | with_reducible apply State.smpArea_kept
    | intro _
    | extract_lets
    | simp -zeta +zetaDelta only [Kept.other_iff]

theorem State.accession_kept {o0 : State} (s : State) (r : Req) (slot w ttft completion ctr : Nat) (seed : List Byte) (need : Nat) (hk : Kept o0 s) : Kept o0 (State.accession s r slot w ttft completion ctr seed need).1 := by
  unfold State.accession
  repeat' first
    | with_reducible assumption
    | simp -zeta only [Kept.other_iff]
    | with_reducible apply State.updGal_kept
    | with_reducible apply State.count_kept
    | with_reducible apply State.mirrorAccession_kept
    | with_reducible apply State.armWheel_kept
    | with_reducible apply State.writeAreas_kept
    | intro _
    | extract_lets
    | simp -zeta +zetaDelta only [Kept.other_iff]

theorem State.submitRefused_kept {o0 : State} (s : State) (g status reason : Nat) (data : List Byte) (hk : Kept o0 s) : Kept o0 (State.submitRefused s g status reason data).state := by
  unfold State.submitRefused
  repeat' first
    | with_reducible assumption
    | simp -zeta only [Kept.other_iff]
    | with_reducible apply State.count_kept
    | with_reducible apply State.event_kept
    | split
    | extract_lets
    | simp -zeta +zetaDelta only [Kept.other_iff]

theorem submitBody_kept {o0 : State} (c : Cmd) (o : Opened) (s : State) (hk : Kept o0 s) : Kept o0 (submitBody c o s).state := by
  unfold submitBody
  repeat' first
    | with_reducible assumption
    | simp -zeta only [Kept.other_iff, refuse_state, busy_state]
    | with_reducible apply Done.refuse_kept
    | with_reducible apply State.accession_kept
    | with_reducible apply State.submitRefused_kept
    | split
    | intro _
    | extract_lets
    | simp -zeta +zetaDelta only [Kept.other_iff]

theorem execSubmit_kept {o0 : State} (ring : Fin 8) (s : State) (hk : Kept o0 s) : KeptOut o0 (execSubmit ring s) := by
  unfold execSubmit
  repeat' first
    | with_reducible assumption
    | simp -zeta only [Kept.other_iff, KeptOut.next]
    | with_reducible apply sealedCommand_kept
    | with_reducible apply State.tellCounter_kept
    | with_reducible apply submitBody_kept
    | intro _
    | extract_lets
    | simp -zeta +zetaDelta only [Kept.other_iff]

theorem execCancel_kept {o0 : State} (ring : Fin 8) (s : State) (hk : Kept o0 s) : KeptOut o0 (execCancel ring s) := by
  unfold execCancel
  repeat' first
    | with_reducible assumption
    | simp -zeta only [Kept.other_iff, KeptOut.next, refuse_state, busy_state]
    | with_reducible apply Done.refuse_kept
    | with_reducible apply clearCommand_kept
    | with_reducible apply State.askDeaccession_kept
    | split
    | intro _
    | extract_lets
    | simp -zeta +zetaDelta only [Kept.other_iff]

theorem execQuery_kept {o0 : State} (ring : Fin 8) (s : State) (hk : Kept o0 s) : KeptOut o0 (execQuery ring s) := by
  unfold execQuery
  repeat' first
    | with_reducible assumption
    | simp -zeta only [Kept.other_iff, KeptOut.next, refuse_state, busy_state]
    | with_reducible apply Done.refuse_kept
    | with_reducible apply clearCommand_kept
    | split
    | intro _
    | extract_lets
    | simp -zeta +zetaDelta only [Kept.other_iff]

theorem amendBody_kept {o0 : State} (c : Cmd) (o : Opened) (s : State) (hk : Kept o0 s) : Kept o0 (amendBody c o s).state := by
  unfold amendBody
  repeat' first
    | with_reducible assumption
    | simp -zeta only [Kept.other_iff, refuse_state, busy_state]
    | with_reducible apply State.updReq_kept
    | with_reducible apply Done.refuse_kept
    | with_reducible apply State.mirrorEvent_kept
    | with_reducible apply State.armWheel_kept
    | split
    | intro _
    | extract_lets
    | simp -zeta +zetaDelta only [Kept.other_iff]

theorem execAmend_kept {o0 : State} (ring : Fin 8) (s : State) (hk : Kept o0 s) : KeptOut o0 (execAmend ring s) := by
  unfold execAmend
  repeat' first
    | with_reducible assumption
    | simp -zeta only [Kept.other_iff, KeptOut.next]
    | with_reducible apply sealedCommand_kept
    | with_reducible apply State.tellCounter_kept
    | with_reducible apply amendBody_kept
    | intro _
    | extract_lets
    | simp -zeta +zetaDelta only [Kept.other_iff]

theorem draftBody_kept {o0 : State} (c : Cmd) (o : Opened) (s : State) (hk : Kept o0 s) : Kept o0 (draftBody c o s).state := by
  unfold draftBody
  repeat' first
    | with_reducible assumption
    | simp -zeta only [Kept.other_iff, refuse_state, busy_state]
    | with_reducible apply State.updReq_kept
    | with_reducible apply Done.refuse_kept
    | with_reducible apply State.mirrorEvent_kept
    | split
    | intro _
    | extract_lets
    | simp -zeta +zetaDelta only [Kept.other_iff]

theorem execDraft_kept {o0 : State} (ring : Fin 8) (s : State) (hk : Kept o0 s) : KeptOut o0 (execDraft ring s) := by
  unfold execDraft
  repeat' first
    | with_reducible assumption
    | simp -zeta only [Kept.other_iff, KeptOut.next]
    | with_reducible apply sealedCommand_kept
    | with_reducible apply State.tellCounter_kept
    | with_reducible apply draftBody_kept
    | intro _
    | extract_lets
    | simp -zeta +zetaDelta only [Kept.other_iff]

theorem execDeadlineFired_kept {o0 : State} (slot : Nat) (s : State) (hk : Kept o0 s) : KeptOut o0 (execDeadlineFired slot s) := by
  unfold execDeadlineFired
  repeat' first
    | with_reducible assumption
    | simp -zeta only [Kept.other_iff, KeptOut.next]
    | with_reducible apply State.wake_kept
    | with_reducible apply State.armWheel_kept
    | with_reducible apply State.askDeaccession_kept
    | split
    | intro _
    | extract_lets
    | simp -zeta +zetaDelta only [Kept.other_iff]

theorem execFarListScan_kept {o0 : State} (s : State) (hk : Kept o0 s) : KeptOut o0 (execFarListScan s) := by
  unfold execFarListScan
  repeat' first
    | with_reducible assumption
    | simp -zeta only [Kept.other_iff, KeptOut.next]
    | split
    | intro _
    | extract_lets
    | simp -zeta +zetaDelta only [Kept.other_iff]

theorem execPowerCap_kept {o0 : State} (ring : Fin 8) (s : State) (hk : Kept o0 s) : KeptOut o0 (execPowerCap ring s) := by
  unfold execPowerCap
  repeat' first
    | with_reducible assumption
    | simp -zeta only [Kept.other_iff, KeptOut.next, refuse_state, busy_state]
    | with_reducible apply Done.refuse_kept
    | with_reducible apply clearCommand_kept
    | split
    | intro _
    | extract_lets
    | simp -zeta +zetaDelta only [Kept.other_iff]

/-! ## Aids -/

theorem State.writeAid_kept {o0 : State} (s : State) (g n w : Nat) (a : Aid) (hk : Kept o0 s) : Kept o0 (State.writeAid s g n w a) := by
  unfold State.writeAid
  repeat' first
    | with_reducible assumption
    | simp -zeta only [Kept.other_iff]
    | with_reducible apply State.smpArea_kept
    | (with_reducible refine Kept.foldl ?_ ?_)
    | intro _
    | extract_lets
    | simp -zeta +zetaDelta only [Kept.other_iff]

theorem State.updAid_kept {o0 : State} (s : State) (g n : Nat) (f : Aid → Aid) (hk : Kept o0 s) : Kept o0 (State.updAid s g n f) := by
  unfold State.updAid
  repeat' first
    | with_reducible assumption
    | simp -zeta only [Kept.other_iff]
    | with_reducible apply State.updGal_kept
    | intro _
    | extract_lets
    | simp -zeta +zetaDelta only [Kept.other_iff]

theorem State.beginAid_out {o0 s t : State} {g n v st m tr start : Nat} {lay : Option (List Nat × List Nat)} (h : Kept o0 s) (e : s.beginAid g n v st m tr start lay = some t) : Kept o0 t := by
  unfold State.beginAid at e
  extract_lets at e
  split at e
  · cases e; exact State.updGal_kept _ _ _ h
  · cases e

theorem State.finalAid_out {o0 s t : State} {g n : Nat} {lay : Option (List Nat × List Nat)} (h : Kept o0 s) (e : s.finalAid g n lay = some t) : Kept o0 t := by
  unfold State.finalAid at e
  extract_lets at e
  split at e
  · cases e
  · cases e
    exact Kept.foldl (State.updAid_kept _ _ _ _ (State.updAid_kept _ _ _ _ h)) fun u x hu => State.writeAid_kept _ _ _ _ _ hu

theorem State.removeAid_kept {o0 : State} (s : State) (g n : Nat) (hk : Kept o0 s) : Kept o0 (State.removeAid s g n) := by
  unfold State.removeAid
  repeat' first
    | with_reducible assumption
    | simp -zeta only [Kept.other_iff]
    | with_reducible apply State.updAid_kept
    | intro _
    | extract_lets
    | simp -zeta +zetaDelta only [Kept.other_iff]

theorem State.applySeg_out {o0 s t : State} {g n : Nat} {seg : AidSeg} {lay : Option (List Nat × List Nat)} (h : Kept o0 s) (e : s.applySeg g n seg lay = some t) : Kept o0 t := by
  unfold State.applySeg at e
  split at e
  · exact State.beginAid_out h e
  · exact State.finalAid_out h e
  · cases e; exact State.removeAid_kept _ _ _ h
  · cases e; exact State.updAid_kept _ _ _ _ h

theorem State.sweepAids_kept {o0 : State} (s : State) (hk : Kept o0 s) : Kept o0 (State.sweepAids s) := by
  unfold State.sweepAids
  repeat' first
    | with_reducible assumption
    | simp -zeta only [Kept.other_iff]
    | split
    | intro _
    | extract_lets
    | simp -zeta +zetaDelta only [Kept.other_iff]

theorem State.aidAlone_kept {o0 : State} (s : State) (g n : Nat) (seg : AidSeg) (hk : Kept o0 s) : Kept o0 (State.aidAlone s g n seg) := by
  unfold State.aidAlone
  repeat' first
    | with_reducible assumption
    | simp -zeta only [Kept.other_iff]
    | with_reducible apply State.updGal_kept
    | with_reducible apply State.markTold_kept
    | split
    | intro _
    | extract_lets
    | simp -zeta +zetaDelta only [Kept.other_iff]

theorem aidBody_kept {o0 : State} (c : Cmd) (o : Opened) (s : State) (hk : Kept o0 s) : Kept o0 (aidBody c o s).state := by
  unfold aidBody
  repeat' first
    | with_reducible assumption
    | simp -zeta only [Kept.other_iff, refuse_state, busy_state]
    | with_reducible apply Done.refuse_kept
    | with_reducible apply State.markTold_kept
    | with_reducible apply State.pairGallery_kept
    | with_reducible apply State.aidAlone_kept
    | with_reducible refine State.pairGallery_out ?_ ‹_›
    | with_reducible refine State.applySeg_out ?_ ‹_›
    | split
    | extract_lets
    | simp -zeta +zetaDelta only [Kept.other_iff]

theorem aidCommand_kept {o0 : State} (seg : Nat) (ring : Fin 8) (s : State) (hk : Kept o0 s) : Kept o0 (aidCommand seg ring s) := by
  unfold aidCommand
  repeat' first
    | with_reducible assumption
    | simp -zeta only [Kept.other_iff]
    | with_reducible apply sealedCommand_kept
    | with_reducible apply State.tellCounter_kept
    | with_reducible apply aidBody_kept
    | intro _
    | extract_lets
    | simp -zeta +zetaDelta only [Kept.other_iff]

theorem execAidBegin_kept {o0 : State} (ring : Fin 8) (s : State) (hk : Kept o0 s) : KeptOut o0 (execAidBegin ring s) := by
  unfold execAidBegin
  repeat' first
    | with_reducible assumption
    | simp -zeta only [Kept.other_iff, KeptOut.next]
    | with_reducible apply aidCommand_kept
    | extract_lets
    | simp -zeta +zetaDelta only [Kept.other_iff]

theorem execAidStates_kept {o0 : State} (ring : Fin 8) (s : State) (hk : Kept o0 s) : KeptOut o0 (execAidStates ring s) := by
  unfold execAidStates
  repeat' first
    | with_reducible assumption
    | simp -zeta only [Kept.other_iff, KeptOut.next]
    | with_reducible apply aidCommand_kept
    | extract_lets
    | simp -zeta +zetaDelta only [Kept.other_iff]

theorem execAidMasks_kept {o0 : State} (ring : Fin 8) (s : State) (hk : Kept o0 s) : KeptOut o0 (execAidMasks ring s) := by
  unfold execAidMasks
  repeat' first
    | with_reducible assumption
    | simp -zeta only [Kept.other_iff, KeptOut.next]
    | with_reducible apply aidCommand_kept
    | extract_lets
    | simp -zeta +zetaDelta only [Kept.other_iff]

theorem execAidTransitions_kept {o0 : State} (ring : Fin 8) (s : State) (hk : Kept o0 s) : KeptOut o0 (execAidTransitions ring s) := by
  unfold execAidTransitions
  repeat' first
    | with_reducible assumption
    | simp -zeta only [Kept.other_iff, KeptOut.next]
    | with_reducible apply aidCommand_kept
    | extract_lets
    | simp -zeta +zetaDelta only [Kept.other_iff]

theorem execAidFinal_kept {o0 : State} (ring : Fin 8) (s : State) (hk : Kept o0 s) : KeptOut o0 (execAidFinal ring s) := by
  unfold execAidFinal
  repeat' first
    | with_reducible assumption
    | simp -zeta only [Kept.other_iff, KeptOut.next]
    | with_reducible apply aidCommand_kept
    | extract_lets
    | simp -zeta +zetaDelta only [Kept.other_iff]

theorem execAidFree_kept {o0 : State} (ring : Fin 8) (s : State) (hk : Kept o0 s) : KeptOut o0 (execAidFree ring s) := by
  unfold execAidFree
  repeat' first
    | with_reducible assumption
    | simp -zeta only [Kept.other_iff, KeptOut.next]
    | with_reducible apply aidCommand_kept
    | extract_lets
    | simp -zeta +zetaDelta only [Kept.other_iff]

/-! ## Compose -/

theorem State.recall_kept {o0 : State} (s : State) (acc : Nat) (hk : Kept o0 s) : Kept o0 (State.recall s acc) := by
  unfold State.recall
  repeat' first
    | with_reducible assumption
    | simp -zeta only [Kept.other_iff]
    | with_reducible apply State.updGal_kept
    | with_reducible apply State.updReq_kept
    | with_reducible apply State.count_kept
    | with_reducible apply State.event_kept
    | with_reducible apply State.mirrorEvent_kept
    | split
    | intro _
    | extract_lets
    | simp -zeta +zetaDelta only [Kept.other_iff]

theorem State.recallFor_kept {o0 : State} (s : State) (requester : Nat) (h : Kept o0 s) (n : Nat) (vs : List Req) : Kept o0 (s.recallFor requester n vs).1 := by
  induction vs generalizing s n with
  | nil => cases n <;> exact h
  | cons v vs ih =>
    cases n with
    | zero => exact h
    | succ n => exact ih _ (State.recall_kept _ _ h) _

theorem State.quotaRecalls_kept {o0 : State} (s : State) (w : Nat) (h : Kept o0 s) : Kept o0 (s.quotaRecalls w).1 := by
  unfold State.quotaRecalls
  generalize s.galleryNumbers = l
  have : ∀ (acc : State × List (Nat × Nat × Nat)), Kept o0 acc.1 → Kept o0 (l.foldl (fun acc g =>
      let t := acc.1
      let excess := t.keptLoans g - (t.galAt g).budget.loanQuota
      let vs := sortBy t.victimBefore (t.liveReqs.filter fun r => decide (r.wing = w) && decide (r.gallery = g) && !r.adopted && t.recallable r)
      let r := t.recallFor 0 excess vs
      (r.1, acc.2 ++ r.2)) acc).1 := by
    induction l with
    | nil => exact fun _ h => h
    | cons g l ih => exact fun acc ha => ih _ (State.recallFor_kept _ _ ha _ _)
  exact this _ h

theorem State.composeEnds_kept {o0 : State} (s : State) (w : Nat) (hk : Kept o0 s) : Kept o0 (State.composeEnds s w) := by
  unfold State.composeEnds
  repeat' first
    | with_reducible assumption
    | simp -zeta only [Kept.other_iff]
    | with_reducible apply State.updReq_kept
    | with_reducible apply State.deaccession_kept
    | with_reducible apply State.askDeaccession_kept
    | (with_reducible refine Kept.foldl ?_ ?_)
    | split
    | intro _
    | extract_lets
    | simp -zeta +zetaDelta only [Kept.other_iff]

theorem State.takeFilter_kept {o0 : State} (s : State) (w : Nat) (hk : Kept o0 s) : Kept o0 (State.takeFilter s w) := by
  unfold State.takeFilter
  repeat' first
    | with_reducible assumption
    | simp -zeta only [Kept.other_iff]
    | with_reducible apply State.updWing_kept
    | intro _
    | extract_lets
    | simp -zeta +zetaDelta only [Kept.other_iff]

theorem State.writePte_kept {o0 : State} (s : State) (r : Req) (i page : Nat) (shared : Bool) (hk : Kept o0 s) : Kept o0 (State.writePte s r i page shared) := by
  unfold State.writePte
  repeat' first
    | with_reducible assumption
    | simp -zeta only [Kept.other_iff]
    | with_reducible apply State.smpSend_kept
    | extract_lets
    | simp -zeta +zetaDelta only [Kept.other_iff]

theorem State.grant_kept {o0 : State} (s : State) (r : Req) (ps : List (Nat × Bool)) (shared : Nat) (hk : Kept o0 s) : Kept o0 (State.grant s r ps shared) := by
  unfold State.grant
  repeat' first
    | with_reducible assumption
    | simp -zeta only [Kept.other_iff]
    | with_reducible apply State.updReq_kept
    | with_reducible apply State.mapPage_kept
    | with_reducible apply State.writePte_kept
    | (with_reducible refine Kept.foldl ?_ ?_)
    | split
    | intro _
    | extract_lets
    | simp -zeta +zetaDelta only [Kept.other_iff]

theorem Comp.loan_kept {o0 : State} (c : Comp) (e : CatEntry) (k : Work) (positions : Nat) (h : Kept o0 c.state) :
    Kept o0 (c.loan e k positions).1.state := by
  unfold Comp.loan
  extract_lets
  split
  · exact h
  · extract_lets
    split
    · exact State.grant_kept _ _ _ _ h
    · split
      · exact h
      · exact State.recallFor_kept _ _ h _ _

theorem Comp.row_kept {o0 : State} (e : CatEntry) (c : Comp) (k : Work) (h : Kept o0 c.state) : Kept o0 (Comp.row e c k).state := by
  unfold Comp.row
  extract_lets
  split <;> exact Comp.loan_kept _ _ _ _ h

theorem Comp.chunk_kept {o0 : State} (e : CatEntry) (c : Comp) (k : Work × List Span) (h : Kept o0 c.state) : Kept o0 (Comp.chunk e c k).state := by
  unfold Comp.chunk
  extract_lets
  split <;> exact Comp.loan_kept _ _ _ _ h

theorem compFold_kept {o0 : State} {α : Type} {f : Comp → α → Comp} (hf : ∀ c x, Kept o0 c.state → Kept o0 (f c x).state)
    (l : List α) (c : Comp) (h : Kept o0 c.state) : Kept o0 (l.foldl f c).state := by
  induction l generalizing c with
  | nil => exact h
  | cons x l ih => exact ih _ (hf _ _ h)

theorem Plan.loans_kept {o0 : State} (p : Plan) (s : State) (recalls : List (Nat × Nat × Nat)) (other : List Defer) (h : Kept o0 s) :
    Kept o0 (p.loans s recalls other).state :=
  compFold_kept (Comp.chunk_kept _) _ _ (compFold_kept (Comp.row_kept _) _ _ h)

theorem State.rewriteAdjust_kept {o0 : State} (s : State) (acc : Nat) (hk : Kept o0 s) : Kept o0 (State.rewriteAdjust s acc) := by
  unfold State.rewriteAdjust
  repeat' first
    | with_reducible assumption
    | simp -zeta only [Kept.other_iff]
    | with_reducible apply State.updReq_kept
    | with_reducible apply State.smpArea_kept
    | split
    | intro _
    | extract_lets
    | simp -zeta +zetaDelta only [Kept.other_iff]

theorem State.takesWork_kept {o0 : State} (s : State) (acc : Nat) (chunkEnd : Option Nat) (hk : Kept o0 s) : Kept o0 (State.takesWork s acc chunkEnd) := by
  unfold State.takesWork
  repeat' first
    | with_reducible assumption
    | simp -zeta only [Kept.other_iff]
    | with_reducible apply State.updReq_kept
    | split
    | intro _
    | extract_lets
    | simp -zeta +zetaDelta only [Kept.other_iff]

theorem State.noiseKeys_kept {o0 : State} (s : State) (w : Nat) (old : SMap Nat) (rows : List RowAsg) (hk : Kept o0 s) : Kept o0 (State.noiseKeys s w old rows) := by
  unfold State.noiseKeys
  repeat' first
    | with_reducible assumption
    | simp -zeta only [Kept.other_iff]
    | with_reducible apply State.kybSend_kept
    | with_reducible apply Comp.row_kept
    | (with_reducible refine Kept.foldl ?_ ?_)
    | split
    | intro _
    | extract_lets
    | simp -zeta +zetaDelta only [Kept.other_iff]

theorem State.daybook_kept {o0 : State} (s : State) (w : Nat) (es : List (List Byte)) (h : Kept o0 s) : Kept o0 (s.daybook w es) := by
  unfold State.daybook
  split
  · exact h
  · extract_lets l k0 k2 put k1
    have h1 : Kept o0 k1 := by
      simp -zeta only [k1]
      split
      · simp -zeta only [Kept.lit_iff]
        exact KeptLit.intro h rfl (MemStep.refl _) (SecStep.refl _)
      · simp -zeta only [Kept.lit_iff]
        exact KeptLit.intro h rfl (MemStep.foldl _ _ _ _) (SecStep.wrote _ _)
    split
    · exact Kept.foldl h1 fun _ _ hu => State.trace_kept _ _ _ _ hu
    · exact h1

theorem State.enterStep_kept {o0 : State} (s : State) (w : Nat) (t : Step) (staggered powerCut : Bool) (ds : List Defer) (rs : List (Nat × Nat × Nat)) (hk : Kept o0 s) : Kept o0 (State.enterStep s w t staggered powerCut ds rs) := by
  unfold State.enterStep
  repeat' first
    | with_reducible assumption
    | simp -zeta only [Kept.other_iff]
    | with_reducible apply State.count_kept
    | with_reducible apply State.daybook_kept
    | split
    | intro _
    | extract_lets
    | simp -zeta +zetaDelta only [Kept.other_iff]

theorem Comp.build_kept {o0 : State} (c : Comp) (w : Nat) (p : Plan) (staggered powerCut : Bool) (h : Kept o0 c.state) :
    Kept o0 (c.build w p staggered powerCut) := by
  unfold Comp.build
  extract_lets e x accs k0 rows t k1 k2 k3 excess k4
  have h0 : Kept o0 k0 := Kept.foldl h fun _ _ hu => State.rewriteAdjust_kept _ _ hu
  have h1 : Kept o0 k1 := Kept.foldl h0 fun _ _ hu => State.takesWork_kept _ _ _ hu
  have h2 : Kept o0 k2 := Kept.foldl h1 fun _ _ hu => State.takesWork_kept _ _ _ hu
  have h4 : Kept o0 k4 := State.enterStep_kept _ _ _ _ _ _ _ (State.updWing_kept _ _ _ (State.noiseKeys_kept _ _ _ _ h2))
  split
  · exact h4
  · exact State.report_kept _ _ _ _ _ _ _ h4

theorem State.compose_kept {o0 : State} (s : State) (w : Nat) (h : Kept o0 s) : Kept o0 (s.compose w) := by
  have h1 : Kept o0 ((((s.takeFilter w).takeBudgets w).shapesDue w).composeEnds w) :=
    State.composeEnds_kept _ _ (State.shapesDue_kept _ _ (State.takeBudgets_kept _ _ (State.takeFilter_kept _ _ h)))
  have h2 := State.quotaRecalls_kept _ w h1
  unfold State.compose
  extract_lets k1
  have hk : Kept o0 (k1.quotaRecalls w).1 := h2
  clear h2
  generalize k1.quotaRecalls w = q at *
  obtain ⟨k2, recalls⟩ := q
  dsimp -zeta only
  have hk : Kept o0 k2 := hk
  extract_lets x ready
  split
  · exact hk
  · extract_lets
    split
    · exact hk
    · extract_lets c
      have hc : Kept o0 c.state := Plan.loans_kept _ _ _ _ hk
      split
      · exact hc
      · exact Comp.build_kept _ _ _ _ _ hc

theorem execComposePoint_kept {o0 : State} (wing : Fin 4) (s : State) (hk : Kept o0 s) : KeptOut o0 (execComposePoint wing s) := by
  unfold execComposePoint
  repeat' first
    | with_reducible assumption
    | simp -zeta only [Kept.other_iff, KeptOut.next]
    | with_reducible apply State.updWing_kept
    | with_reducible apply State.compose_kept
    | split
    | intro _
    | extract_lets
    | simp -zeta +zetaDelta only [Kept.other_iff]

theorem execIdleCompose_kept {o0 : State} (wing : Fin 4) (s : State) (hk : Kept o0 s) : KeptOut o0 (execIdleCompose wing s) := by
  unfold execIdleCompose
  repeat' first
    | with_reducible assumption
    | simp -zeta only [Kept.other_iff, KeptOut.next]
    | with_reducible apply State.wake_kept
    | with_reducible apply State.compose_kept
    | split
    | extract_lets
    | simp -zeta +zetaDelta only [Kept.other_iff]

theorem execPreWake_kept {o0 : State} (wing : Fin 4) (s : State) (hk : Kept o0 s) : KeptOut o0 (execPreWake wing s) := by
  unfold execPreWake
  repeat' first
    | with_reducible assumption
    | simp -zeta only [Kept.other_iff, KeptOut.next]
    | with_reducible apply State.updWing_kept
    | with_reducible apply State.wake_kept
    | split
    | intro _
    | extract_lets
    | simp -zeta +zetaDelta only [Kept.other_iff]

theorem execComposeWake_kept {o0 : State} (wing : Fin 4) (s : State) (hk : Kept o0 s) : KeptOut o0 (execComposeWake wing s) := by
  unfold execComposeWake
  repeat' first
    | with_reducible assumption
    | simp -zeta only [Kept.other_iff, KeptOut.next]
    | with_reducible apply State.updWing_kept
    | with_reducible apply State.wake_kept
    | split
    | intro _
    | extract_lets
    | simp -zeta +zetaDelta only [Kept.other_iff]

theorem execDescriptor_kept {o0 : State} (wing : Fin 4) (s : State) (hk : Kept o0 s) : KeptOut o0 (execDescriptor wing s) := by
  unfold execDescriptor
  repeat' first
    | with_reducible assumption
    | simp -zeta only [Kept.other_iff, KeptOut.next]
    | with_reducible apply State.updWing_kept
    | with_reducible apply State.emit_kept
    | with_reducible apply State.event_kept
    | split
    | intro _
    | extract_lets
    | simp -zeta +zetaDelta only [Kept.other_iff]

theorem execReplay_kept {o0 : State} (wing : Fin 4) (s : State) (hk : Kept o0 s) : KeptOut o0 (execReplay wing s) := by
  unfold execReplay
  repeat' first
    | with_reducible assumption
    | simp -zeta only [Kept.other_iff, KeptOut.next]
    | with_reducible apply State.updWing_kept
    | with_reducible apply State.count_kept
    | with_reducible apply State.ledgerAdd_kept
    | with_reducible apply State.noiseKeys_kept
    | with_reducible apply State.enterStep_kept
    | split
    | intro _
    | extract_lets
    | simp -zeta +zetaDelta only [Kept.other_iff]

end Sys2Proof.Machine
end

