-- ==== Sys2Proof/Laws/Kept3.lean ====
section
/-! SUPPORT. `Kept` of each operation and meaning of Machine/WingStep, Intake, Docent, Commit, Egress, Smp.lean. -/

set_option linter.unusedSimpArgs false

namespace Sys2Proof.Machine

open Sys2Proof.Bytes

/-! ## WingStep -/

theorem State.updStep_kept {o0 : State} (s : State) (w : Nat) (tag : W16) (f : Step → Step) (hk : Kept o0 s) : Kept o0 (State.updStep s w tag f) := by
  unfold State.updStep
  repeat' first
    | with_reducible assumption
    | simp -zeta only [Kept.other_iff]
    | with_reducible apply State.updWing_kept
    | intro _
    | extract_lets
    | simp -zeta +zetaDelta only [Kept.other_iff]

theorem State.countBreach_kept {o0 : State} (s : State) (w : Nat) (t : Step) (hk : Kept o0 s) : Kept o0 (State.countBreach s w t) := by
  unfold State.countBreach
  repeat' first
    | with_reducible assumption
    | simp -zeta only [Kept.other_iff]
    | with_reducible apply State.updWing_kept
    | with_reducible apply State.count_kept
    | with_reducible apply State.breachEntry_kept
    | with_reducible apply State.updStep_kept
    | split
    | intro _
    | extract_lets
    | simp -zeta +zetaDelta only [Kept.other_iff]

theorem State.reportBreaches_kept {o0 : State} (s : State) (w : Nat) (tag : W16) (hk : Kept o0 s) : Kept o0 (State.reportBreaches s w tag) := by
  unfold State.reportBreaches
  repeat' first
    | with_reducible assumption
    | simp -zeta only [Kept.other_iff]
    | with_reducible apply State.report_kept
    | with_reducible apply State.updStep_kept
    | split
    | intro _
    | extract_lets
    | simp -zeta +zetaDelta only [Kept.other_iff]

theorem State.breach_kept {o0 : State} (s : State) (w : Nat) (tag : W16) (code : Nat) (hk : Kept o0 s) : Kept o0 (State.breach s w tag code) := by
  unfold State.breach
  repeat' first
    | with_reducible assumption
    | simp -zeta only [Kept.other_iff]
    | with_reducible apply State.count_kept
    | with_reducible apply State.ledgerAdd_kept
    | with_reducible apply State.event_kept
    | with_reducible apply State.updStep_kept
    | with_reducible apply State.countBreach_kept
    | with_reducible apply State.reportBreaches_kept
    | split
    | intro _
    | extract_lets
    | simp -zeta +zetaDelta only [Kept.other_iff]

theorem State.measure_kept {o0 : State} (s : State) (w : Nat) (tag : W16) (hk : Kept o0 s) : Kept o0 (State.measure s w tag) := by
  unfold State.measure
  repeat' first
    | with_reducible assumption
    | simp -zeta only [Kept.other_iff]
    | with_reducible apply State.updWing_kept
    | with_reducible apply State.ledgerAdd_kept
    | with_reducible apply State.take_kept
    | with_reducible apply State.updStep_kept
    | with_reducible apply State.countBreach_kept
    | with_reducible apply State.breach_kept
    | split
    | intro _
    | extract_lets
    | simp -zeta +zetaDelta only [Kept.other_iff]

theorem State.attribute_kept {o0 : State} (s : State) (t : Step) (hk : Kept o0 s) : Kept o0 (State.attribute s t) := by
  unfold State.attribute
  repeat' first
    | with_reducible assumption
    | simp -zeta only [Kept.other_iff]
    | with_reducible apply State.updGal_kept
    | (with_reducible refine Kept.foldl ?_ ?_)
    | split
    | intro _
    | extract_lets
    | simp -zeta +zetaDelta only [Kept.other_iff]

theorem State.retireStep_kept {o0 : State} (s : State) (w : Nat) (tag : W16) (hk : Kept o0 s) : Kept o0 (State.retireStep s w tag) := by
  unfold State.retireStep
  repeat' first
    | with_reducible assumption
    | simp -zeta only [Kept.other_iff]
    | with_reducible apply State.updWing_kept
    | with_reducible apply State.take_kept
    | with_reducible apply State.reportBreaches_kept
    | split
    | intro _
    | extract_lets
    | simp -zeta +zetaDelta only [Kept.other_iff]

theorem State.settle_kept {o0 : State} (s : State) (w : Nat) (hk : Kept o0 s) : Kept o0 (State.settle s w) := by
  unfold State.settle
  repeat' first
    | with_reducible assumption
    | simp -zeta only [Kept.other_iff]
    | with_reducible apply State.retireStep_kept
    | (with_reducible refine Kept.foldl ?_ ?_)
    | intro _
    | extract_lets
    | simp -zeta +zetaDelta only [Kept.other_iff]

theorem State.purgeUnits_kept {o0 : State} (s : State) (w : Nat) (tag : W16) (hk : Kept o0 s) : Kept o0 (State.purgeUnits s w tag) := by
  unfold State.purgeUnits
  repeat' first
    | with_reducible assumption
    | simp -zeta only [Kept.other_iff]
    | with_reducible apply State.updStep_kept
    | intro _
    | extract_lets
    | simp -zeta +zetaDelta only [Kept.other_iff]

theorem State.voidComposition_kept {o0 : State} (s : State) (t : Step) (hk : Kept o0 s) : Kept o0 (State.voidComposition s t) := by
  unfold State.voidComposition
  repeat' first
    | with_reducible assumption
    | simp -zeta only [Kept.other_iff]
    | with_reducible apply State.updReq_kept
    | (with_reducible refine Kept.foldl ?_ ?_)
    | intro _
    | extract_lets
    | simp -zeta +zetaDelta only [Kept.other_iff]

theorem State.dropBehind_kept {o0 : State} (s : State) (w : Nat) (hk : Kept o0 s) : Kept o0 (State.dropBehind s w) := by
  unfold State.dropBehind
  repeat' first
    | with_reducible assumption
    | simp -zeta only [Kept.other_iff]
    | with_reducible apply State.updWing_kept
    | with_reducible apply State.voidComposition_kept
    | (with_reducible refine Kept.foldl ?_ ?_)
    | intro _
    | extract_lets
    | simp -zeta +zetaDelta only [Kept.other_iff]

theorem State.dropReplay_kept {o0 : State} (s : State) (w : Nat) (hk : Kept o0 s) : Kept o0 (State.dropReplay s w) := by
  unfold State.dropReplay
  repeat' first
    | with_reducible assumption
    | simp -zeta only [Kept.other_iff]
    | with_reducible apply State.updWing_kept
    | split
    | intro _
    | extract_lets
    | simp -zeta +zetaDelta only [Kept.other_iff]

theorem State.galleryReplays_kept {o0 : State} (s : State) (t : Step) (hk : Kept o0 s) : Kept o0 (State.galleryReplays s t) := by
  unfold State.galleryReplays
  repeat' first
    | with_reducible assumption
    | simp -zeta only [Kept.other_iff]
    | with_reducible apply State.updGal_kept
    | (with_reducible refine Kept.foldl ?_ ?_)
    | intro _
    | extract_lets
    | simp -zeta +zetaDelta only [Kept.other_iff]

theorem State.askReplay_kept {o0 : State} (s : State) (w : Nat) (t : Step) (hk : Kept o0 s) : Kept o0 (State.askReplay s w t) := by
  unfold State.askReplay
  repeat' first
    | with_reducible assumption
    | simp -zeta only [Kept.other_iff]
    | with_reducible apply State.updWing_kept
    | with_reducible apply State.ledgerAdd_kept
    | with_reducible apply State.report_kept
    | with_reducible apply State.galleryReplays_kept
    | split
    | intro _
    | extract_lets
    | simp -zeta +zetaDelta only [Kept.other_iff]

theorem State.discardRunning_kept {o0 : State} (s : State) (w cause : Nat) (hk : Kept o0 s) : Kept o0 (State.discardRunning s w cause) := by
  unfold State.discardRunning
  repeat' first
    | with_reducible assumption
    | simp -zeta only [Kept.other_iff]
    | with_reducible apply State.updWing_kept
    | with_reducible apply State.emit_kept
    | with_reducible apply State.event_kept
    | with_reducible apply State.updStep_kept
    | with_reducible apply State.purgeUnits_kept
    | with_reducible apply State.dropBehind_kept
    | with_reducible apply State.askReplay_kept
    | split
    | intro _
    | extract_lets
    | simp -zeta +zetaDelta only [Kept.other_iff]

theorem State.stopJobs_kept {o0 : State} (s : State) (w : Nat) (tag : W16) (hk : Kept o0 s) : Kept o0 (State.stopJobs s w tag) := by
  unfold State.stopJobs
  repeat' first
    | with_reducible assumption
    | simp -zeta only [Kept.other_iff]
    | split
    | intro _
    | extract_lets
    | simp -zeta +zetaDelta only [Kept.other_iff]

theorem State.discardTail_kept {o0 : State} (s : State) (w : Nat) (tag : W16) (cause : Nat) (hk : Kept o0 s) : Kept o0 (State.discardTail s w tag cause) := by
  unfold State.discardTail
  repeat' first
    | with_reducible assumption
    | simp -zeta only [Kept.other_iff]
    | with_reducible apply State.updWing_kept
    | with_reducible apply State.ledgerAdd_kept
    | with_reducible apply State.event_kept
    | with_reducible apply State.updStep_kept
    | with_reducible apply State.retireStep_kept
    | with_reducible apply State.purgeUnits_kept
    | with_reducible apply State.voidComposition_kept
    | with_reducible apply State.dropBehind_kept
    | with_reducible apply State.askReplay_kept
    | with_reducible apply State.stopJobs_kept
    | split
    | intro _
    | extract_lets
    | simp -zeta +zetaDelta only [Kept.other_iff]

theorem State.discardStep_kept {o0 : State} (s : State) (w : Nat) (tag : W16) (cause : Nat) (hk : Kept o0 s) : Kept o0 (State.discardStep s w tag cause) := by
  unfold State.discardStep
  repeat' first
    | with_reducible assumption
    | simp -zeta only [Kept.other_iff]
    | with_reducible apply State.discardRunning_kept
    | with_reducible apply State.discardTail_kept
    | split
    | extract_lets
    | simp -zeta +zetaDelta only [Kept.other_iff]

theorem execWindowOpen_kept {o0 : State} (wing : Fin 4) (window : Nat) (s : State) (hk : Kept o0 s) : KeptOut o0 (execWindowOpen wing window s) := by
  unfold execWindowOpen
  repeat' first
    | with_reducible assumption
    | simp -zeta only [Kept.other_iff, KeptOut.next]
    | with_reducible apply State.count_kept
    | with_reducible apply State.ledgerAdd_kept
    | with_reducible apply State.report_kept
    | with_reducible apply State.updStep_kept
    | split
    | intro _
    | extract_lets
    | simp -zeta +zetaDelta only [Kept.other_iff]

theorem State.closeWindow_kept {o0 : State} (s : State) (w window : Nat) (hk : Kept o0 s) : Kept o0 (State.closeWindow s w window) := by
  unfold State.closeWindow
  repeat' first
    | with_reducible assumption
    | simp -zeta only [Kept.other_iff]
    | with_reducible apply State.updStep_kept
    | with_reducible apply State.breach_kept
    | with_reducible apply State.discardRunning_kept
    | split
    | intro _
    | extract_lets
    | simp -zeta +zetaDelta only [Kept.other_iff]

theorem State.closeDue_kept {o0 : State} (s : State) (w : Nat) (hk : Kept o0 s) : Kept o0 (State.closeDue s w) := by
  unfold State.closeDue
  repeat' first
    | with_reducible assumption
    | simp -zeta only [Kept.other_iff]
    | with_reducible apply State.closeWindow_kept
    | (with_reducible refine Kept.foldl ?_ ?_)
    | split
    | intro _
    | extract_lets
    | simp -zeta +zetaDelta only [Kept.other_iff]

theorem execWindowClose_kept {o0 : State} (wing : Fin 4) (window : Nat) (s : State) (hk : Kept o0 s) : KeptOut o0 (execWindowClose wing window s) := by
  unfold execWindowClose
  repeat' first
    | with_reducible assumption
    | simp -zeta only [Kept.other_iff, KeptOut.next]
    | with_reducible apply State.updStep_kept
    | with_reducible apply State.closeWindow_kept
    | split
    | intro _
    | extract_lets
    | simp -zeta +zetaDelta only [Kept.other_iff]

theorem State.reservedEvent_kept {o0 : State} (s : State) (w : Nat) (tag : W16) (high : Nat) (hk : Kept o0 s) : Kept o0 (State.reservedEvent s w tag high) := by
  unfold State.reservedEvent
  repeat' first
    | with_reducible assumption
    | simp -zeta only [Kept.other_iff]
    | with_reducible apply State.event_kept
    | extract_lets
    | simp -zeta +zetaDelta only [Kept.other_iff]

theorem State.flagStep_kept {o0 : State} (s : State) (w : Nat) (t : Step) (hk : Kept o0 s) : Kept o0 (State.flagStep s w t) := by
  unfold State.flagStep
  repeat' first
    | with_reducible assumption
    | simp -zeta only [Kept.other_iff]
    | with_reducible apply State.daybook_kept
    | with_reducible apply State.updStep_kept
    | split
    | intro _
    | extract_lets
    | simp -zeta +zetaDelta only [Kept.other_iff]

theorem execStepStart_kept {o0 : State} (wing : Fin 4) (tag : W16) (s : State) (hk : Kept o0 s) : KeptOut o0 (execStepStart wing tag s) := by
  unfold execStepStart
  repeat' first
    | with_reducible assumption
    | simp -zeta only [Kept.other_iff, KeptOut.next]
    | with_reducible apply State.updWing_kept
    | with_reducible apply State.count_kept
    | with_reducible apply State.event_kept
    | with_reducible apply State.flip_kept
    | with_reducible apply State.reservedEvent_kept
    | with_reducible apply State.flagStep_kept
    | split
    | intro _
    | extract_lets
    | simp -zeta +zetaDelta only [Kept.other_iff]

theorem State.kvWritten_kept {o0 : State} (s : State) (t : Step) (hk : Kept o0 s) : Kept o0 (State.kvWritten s t) := by
  unfold State.kvWritten
  repeat' first
    | with_reducible assumption
    | simp -zeta only [Kept.other_iff]
    | with_reducible apply State.updReq_kept
    | (with_reducible refine Kept.foldl ?_ ?_)
    | split
    | intro _
    | extract_lets
    | simp -zeta +zetaDelta only [Kept.other_iff]

theorem State.prefillEnds_kept {o0 : State} (s : State) (t : Step) (hk : Kept o0 s) : Kept o0 (State.prefillEnds s t) := by
  unfold State.prefillEnds
  repeat' first
    | with_reducible assumption
    | simp -zeta only [Kept.other_iff]
    | with_reducible apply State.updReq_kept
    | with_reducible apply State.checkHeld_kept
    | (with_reducible refine Kept.foldl ?_ ?_)
    | split
    | intro _
    | extract_lets
    | simp -zeta +zetaDelta only [Kept.other_iff]

theorem State.boundaryEnds_kept {o0 : State} (s : State) (w : Nat) (hk : Kept o0 s) : Kept o0 (State.boundaryEnds s w) := by
  unfold State.boundaryEnds
  repeat' first
    | with_reducible assumption
    | simp -zeta only [Kept.other_iff]
    | with_reducible apply State.updReq_kept
    | with_reducible apply State.deaccession_kept
    | (with_reducible refine Kept.foldl ?_ ?_)
    | split
    | intro _
    | extract_lets
    | simp -zeta +zetaDelta only [Kept.other_iff]

theorem State.readMirrorStatus_kept {o0 : State} (s : State) (w : Nat) (hk : Kept o0 s) : Kept o0 (State.readMirrorStatus s w) := by
  unfold State.readMirrorStatus
  repeat' first
    | with_reducible assumption
    | simp -zeta only [Kept.other_iff]
    | with_reducible apply State.smpSend_kept
    | split
    | extract_lets
    | simp -zeta +zetaDelta only [Kept.other_iff]

theorem State.endStep_kept {o0 : State} (s : State) (w : Nat) (t : Step) (hk : Kept o0 s) : Kept o0 (State.endStep s w t) := by
  unfold State.endStep
  repeat' first
    | with_reducible assumption
    | simp -zeta only [Kept.other_iff]
    | with_reducible apply State.updWing_kept
    | with_reducible apply State.count_kept
    | with_reducible apply State.event_kept
    | with_reducible apply State.boundaryFrees_kept
    | with_reducible apply State.sweepAids_kept
    | with_reducible apply State.breach_kept
    | with_reducible apply State.measure_kept
    | with_reducible apply State.attribute_kept
    | with_reducible apply State.retireStep_kept
    | with_reducible apply State.settle_kept
    | with_reducible apply State.discardRunning_kept
    | with_reducible apply State.kvWritten_kept
    | with_reducible apply State.prefillEnds_kept
    | with_reducible apply State.boundaryEnds_kept
    | with_reducible apply State.readMirrorStatus_kept
    | split
    | intro _
    | extract_lets
    | simp -zeta +zetaDelta only [Kept.other_iff]

theorem execStepEnd_kept {o0 : State} (wing : Fin 4) (tag : W16) (s : State) (hk : Kept o0 s) : KeptOut o0 (execStepEnd wing tag s) := by
  unfold execStepEnd
  repeat' first
    | with_reducible assumption
    | simp -zeta only [Kept.other_iff, KeptOut.next]
    | with_reducible apply State.reservedEvent_kept
    | with_reducible apply State.endStep_kept
    | split
    | extract_lets
    | simp -zeta +zetaDelta only [Kept.other_iff]

theorem execFeedTaken_kept {o0 : State} (wing : Fin 4) (tag : W16) (info : W32) (s : State) (hk : Kept o0 s) : KeptOut o0 (execFeedTaken wing tag info s) := by
  unfold execFeedTaken
  repeat' first
    | with_reducible assumption
    | simp -zeta only [Kept.other_iff, KeptOut.next]
    | with_reducible apply State.updWing_kept
    | with_reducible apply State.count_kept
    | with_reducible apply State.event_kept
    | with_reducible apply State.breach_kept
    | with_reducible apply State.reservedEvent_kept
    | split
    | intro _
    | extract_lets
    | simp -zeta +zetaDelta only [Kept.other_iff]

theorem execEnergy_kept {o0 : State} (wing : Fin 4) (tag : W16) (info : W32) (s : State) (hk : Kept o0 s) : KeptOut o0 (execEnergy wing tag info s) := by
  unfold execEnergy
  repeat' first
    | with_reducible assumption
    | simp -zeta only [Kept.other_iff, KeptOut.next]
    | with_reducible apply State.updStep_kept
    | with_reducible apply State.breach_kept
    | with_reducible apply State.reservedEvent_kept
    | split
    | intro _
    | extract_lets
    | simp -zeta +zetaDelta only [Kept.other_iff]

theorem execErrorUe_kept {o0 : State} (wing : Fin 4) (tag : W16) (info : W32) (s : State) (hk : Kept o0 s) : KeptOut o0 (execErrorUe wing tag info s) := by
  unfold execErrorUe
  repeat' first
    | with_reducible assumption
    | simp -zeta only [Kept.other_iff, KeptOut.next]
    | with_reducible apply State.event_kept
    | with_reducible apply State.breach_kept
    | with_reducible apply State.dropReplay_kept
    | with_reducible apply State.discardRunning_kept
    | with_reducible apply State.reservedEvent_kept
    | split
    | extract_lets
    | simp -zeta +zetaDelta only [Kept.other_iff]

theorem execEventReserved_kept {o0 : State} (wing : Fin 4) (word : W64) (s : State) (hk : Kept o0 s) : KeptOut o0 (execEventReserved wing word s) := by
  unfold execEventReserved
  repeat' first
    | with_reducible assumption
    | simp -zeta only [Kept.other_iff, KeptOut.next]
    | with_reducible apply State.reservedEvent_kept
    | split
    | extract_lets
    | simp -zeta +zetaDelta only [Kept.other_iff]

theorem execHung_kept {o0 : State} (wing : Fin 4) (s : State) (hk : Kept o0 s) : KeptOut o0 (execHung wing s) := by
  unfold execHung
  repeat' first
    | with_reducible assumption
    | simp -zeta only [Kept.other_iff, KeptOut.next]
    | with_reducible apply State.report_kept
    | with_reducible apply State.breach_kept
    | split
    | extract_lets
    | simp -zeta +zetaDelta only [Kept.other_iff]

theorem execTailOverrun_kept {o0 : State} (wing : Fin 4) (s : State) (hk : Kept o0 s) : KeptOut o0 (execTailOverrun wing s) := by
  unfold execTailOverrun
  repeat' first
    | with_reducible assumption
    | simp -zeta only [Kept.other_iff, KeptOut.next]
    | with_reducible apply State.breach_kept
    | split
    | intro _
    | extract_lets
    | simp -zeta +zetaDelta only [Kept.other_iff]

/-! ## Intake -/

theorem State.releaseRow_kept {o0 : State} (s : State) (w : Nat) (t : Step) (row : Nat) (hk : Kept o0 s) : Kept o0 (State.releaseRow s w t row) := by
  unfold State.releaseRow
  repeat' first
    | with_reducible assumption
    | simp -zeta only [Kept.other_iff]
    | with_reducible apply State.updStep_kept
    | (with_reducible refine Kept.foldl ?_ ?_)
    | intro _
    | extract_lets
    | simp -zeta +zetaDelta only [Kept.other_iff]

theorem State.headerArrives_kept {o0 : State} (s : State) (w : Nat) (t : Step) (n : Nat) (q : Place) (h : List Byte) (hk : Kept o0 s) : Kept o0 (State.headerArrives s w t n q h) := by
  unfold State.headerArrives
  repeat' first
    | with_reducible assumption
    | simp -zeta only [Kept.other_iff]
    | with_reducible apply State.wrote_kept
    | with_reducible apply Comp.row_kept
    | with_reducible apply State.updStep_kept
    | with_reducible apply State.breach_kept
    | with_reducible apply State.releaseRow_kept
    | split
    | intro _
    | extract_lets
    | simp -zeta +zetaDelta only [Kept.other_iff]

theorem State.burstArrives_kept {o0 : State} (s : State) (w p : Nat) (marked : Bool) (bs : List Byte) (hk : Kept o0 s) : Kept o0 (State.burstArrives s w p marked bs) := by
  unfold State.burstArrives
  repeat' first
    | with_reducible assumption
    | simp -zeta only [Kept.other_iff]
    | with_reducible apply State.wrote_kept
    | with_reducible apply Comp.row_kept
    | with_reducible apply State.updStep_kept
    | with_reducible apply State.breach_kept
    | with_reducible apply State.headerArrives_kept
    | split
    | intro _
    | extract_lets
    | simp -zeta +zetaDelta only [Kept.other_iff]

theorem State.beat_kept {o0 : State} (s : State) (w : Nat) (ok : Bool) (bursts : List (Nat × Bool × List Byte)) (hk : Kept o0 s) : Kept o0 (State.beat s w ok bursts) := by
  unfold State.beat
  repeat' first
    | with_reducible assumption
    | simp -zeta only [Kept.other_iff]
    | with_reducible apply State.count_kept
    | with_reducible apply State.updStep_kept
    | with_reducible apply State.breach_kept
    | with_reducible apply State.burstArrives_kept
    | (with_reducible refine Kept.foldl ?_ ?_)
    | split
    | intro _
    | extract_lets
    | simp -zeta +zetaDelta only [Kept.other_iff]

theorem execCandidateBurst_kept {o0 : State} (wing : Fin 4) (addr : Nat) (ben hdr : BitVec 2) (data : List Byte) (s : State) (hk : Kept o0 s) : KeptOut o0 (execCandidateBurst wing addr ben hdr data s) := by
  unfold execCandidateBurst
  repeat' first
    | with_reducible assumption
    | simp -zeta only [Kept.other_iff, KeptOut.next]
    | with_reducible apply State.beat_kept
    | split
    | extract_lets
    | simp -zeta +zetaDelta only [Kept.other_iff]

theorem execShardHeader_kept {o0 : State} (wing : Fin 4) (pos : Nat) (marked : Bool) (data : List Byte) (s : State) (hk : Kept o0 s) : KeptOut o0 (execShardHeader wing pos marked data s) := by
  unfold execShardHeader
  repeat' first
    | with_reducible assumption
    | simp -zeta only [Kept.other_iff, KeptOut.next]
    | with_reducible apply State.beat_kept
    | split
    | extract_lets
    | simp -zeta +zetaDelta only [Kept.other_iff]

theorem execRowAreaFree_kept {o0 : State} (wing : Fin 4) (row : Nat) (s : State) (hk : Kept o0 s) : KeptOut o0 (execRowAreaFree wing row s) := by
  unfold execRowAreaFree
  repeat' first
    | with_reducible assumption
    | simp -zeta only [Kept.other_iff, KeptOut.next]
    | with_reducible apply State.updStep_kept
    | split
    | intro _
    | extract_lets
    | simp -zeta +zetaDelta only [Kept.other_iff]

theorem execTreeTake_kept {o0 : State} (tree : Nat) (s : State) (hk : Kept o0 s) : KeptOut o0 (execTreeTake tree s) := by
  unfold execTreeTake
  repeat' first
    | with_reducible assumption
    | simp -zeta only [Kept.other_iff, KeptOut.next]
    | with_reducible apply State.event_kept
    | with_reducible apply Comp.row_kept
    | with_reducible apply State.updStep_kept
    | with_reducible apply State.breach_kept
    | split
    | intro _
    | extract_lets
    | simp -zeta +zetaDelta only [Kept.other_iff]

theorem execMergeResult_kept {o0 : State} (tree : Nat) (s : State) (hk : Kept o0 s) : KeptOut o0 (execMergeResult tree s) := by
  unfold execMergeResult
  repeat' first
    | with_reducible assumption
    | simp -zeta only [Kept.other_iff, KeptOut.next]
    | with_reducible apply State.count_kept
    | split
    | intro _
    | extract_lets
    | simp -zeta +zetaDelta only [Kept.other_iff]

/-! ## Docent -/

theorem execLaneDispatch_kept {o0 : State} (lane : Nat) (s : State) (hk : Kept o0 s) : KeptOut o0 (execLaneDispatch lane s) := by
  unfold execLaneDispatch
  repeat' first
    | with_reducible assumption
    | simp -zeta only [Kept.other_iff, KeptOut.next]
    | with_reducible apply State.count_kept
    | split
    | intro _
    | extract_lets
    | simp -zeta +zetaDelta only [Kept.other_iff]

theorem execUnitSampled_kept {o0 : State} (lane : Nat) (s : State) (hk : Kept o0 s) : KeptOut o0 (execUnitSampled lane s) := by
  unfold execUnitSampled
  repeat' first
    | with_reducible assumption
    | simp -zeta only [Kept.other_iff, KeptOut.next]
    | with_reducible apply State.count_kept
    | with_reducible apply State.event_kept
    | with_reducible apply Comp.row_kept
    | with_reducible apply State.updStep_kept
    | split
    | intro _
    | extract_lets
    | simp -zeta +zetaDelta only [Kept.other_iff]

/-! ## Commit -/

theorem State.readBucket_kept {o0 : State} (s : State) (r : Req) (word : W64) (t : Nat) (use : SmpUse) (hk : Kept o0 s) : Kept o0 (State.readBucket s r word t use) := by
  unfold State.readBucket
  repeat' first
    | with_reducible assumption
    | simp -zeta only [Kept.other_iff]
    | with_reducible apply State.smpSend_kept
    | extract_lets
    | simp -zeta +zetaDelta only [Kept.other_iff]

theorem State.updJob_kept {o0 : State} (s : State) (acc : Nat) (f : CommitJob → CommitJob) (hk : Kept o0 s) : Kept o0 (State.updJob s acc f) := by
  unfold State.updJob
  repeat' first
    | with_reducible assumption
    | simp -zeta only [Kept.other_iff]
    | split
    | intro _
    | extract_lets
    | simp -zeta +zetaDelta only [Kept.other_iff]

theorem State.addRecords_kept {o0 : State} (s : State) (acc : Nat) (recs : List OutRec) (hk : Kept o0 s) : Kept o0 (State.addRecords s acc recs) := by
  unfold State.addRecords
  repeat' first
    | with_reducible assumption
    | simp -zeta only [Kept.other_iff]
    | with_reducible apply State.updReq_kept
    | intro _
    | extract_lets
    | simp -zeta +zetaDelta only [Kept.other_iff]

theorem State.flushRun_kept {o0 : State} (s : State) (acc : Nat) (hk : Kept o0 s) : Kept o0 (State.flushRun s acc) := by
  unfold State.flushRun
  repeat' first
    | with_reducible assumption
    | simp -zeta only [Kept.other_iff]
    | with_reducible apply Comp.row_kept
    | with_reducible apply State.updJob_kept
    | with_reducible apply State.addRecords_kept
    | split
    | intro _
    | extract_lets
    | simp -zeta +zetaDelta only [Kept.other_iff]

theorem State.finishJob_kept {o0 : State} (s : State) (acc extra : Nat) (hk : Kept o0 s) : Kept o0 (State.finishJob s acc extra) := by
  unfold State.finishJob
  repeat' first
    | with_reducible assumption
    | simp -zeta only [Kept.other_iff]
    | with_reducible apply State.updReq_kept
    | with_reducible apply State.report_kept
    | with_reducible apply State.markDeaccessioned_kept
    | with_reducible apply Comp.row_kept
    | with_reducible apply State.updStep_kept
    | with_reducible apply State.settle_kept
    | with_reducible apply State.addRecords_kept
    | split
    | intro _
    | extract_lets
    | simp -zeta +zetaDelta only [Kept.other_iff]

theorem State.loseRequest_kept {o0 : State} (s : State) (acc : Nat) (hk : Kept o0 s) : Kept o0 (State.loseRequest s acc) := by
  unfold State.loseRequest
  repeat' first
    | with_reducible assumption
    | simp -zeta only [Kept.other_iff]
    | with_reducible apply State.dataLost_kept
    | with_reducible apply State.finishJob_kept
    | split
    | extract_lets
    | simp -zeta +zetaDelta only [Kept.other_iff]

theorem State.loseAid_kept {o0 : State} (s : State) (g n : Nat) (hk : Kept o0 s) : Kept o0 (State.loseAid s g n) := by
  unfold State.loseAid
  repeat' first
    | with_reducible assumption
    | simp -zeta only [Kept.other_iff]
    | with_reducible apply State.removeAid_kept
    | with_reducible apply State.loseRequest_kept
    | (with_reducible refine Kept.foldl ?_ ?_)
    | intro _
    | extract_lets
    | simp -zeta +zetaDelta only [Kept.other_iff]

theorem State.smpReport_kept {o0 : State} (s : State) (q : SmpReq) (status unit action acc : Nat) (hk : Kept o0 s) : Kept o0 (State.smpReport s q status unit action acc) := by
  unfold State.smpReport
  repeat' first
    | with_reducible assumption
    | simp -zeta only [Kept.other_iff]
    | with_reducible apply State.count_kept
    | with_reducible apply State.ledgerAdd_kept
    | with_reducible apply State.report_kept
    | split
    | extract_lets
    | simp -zeta +zetaDelta only [Kept.other_iff]

theorem State.writeHistory_kept {o0 : State} (s : State) (r : Req) (t : Nat) (hk : Kept o0 s) : Kept o0 (State.writeHistory s r t) := by
  unfold State.writeHistory
  repeat' first
    | with_reducible assumption
    | simp -zeta only [Kept.other_iff]
    | with_reducible apply State.smpSend_kept
    | extract_lets
    | simp -zeta +zetaDelta only [Kept.other_iff]

theorem State.nextToken_kept {o0 : State} (s : State) (acc : Nat) (hk : Kept o0 s) : Kept o0 (State.nextToken s acc) := by
  unfold State.nextToken
  repeat' first
    | with_reducible assumption
    | simp -zeta only [Kept.other_iff]
    | with_reducible apply State.finishJob_kept
    | with_reducible apply State.writeHistory_kept
    | split
    | extract_lets
    | simp -zeta +zetaDelta only [Kept.other_iff]

theorem State.tokenChecked_kept {o0 : State} (s : State) (acc : Nat) (hk : Kept o0 s) : Kept o0 (State.tokenChecked s acc) := by
  unfold State.tokenChecked
  repeat' first
    | with_reducible assumption
    | simp -zeta only [Kept.other_iff]
    | with_reducible apply State.flushRun_kept
    | with_reducible apply State.nextToken_kept
    | split
    | extract_lets
    | simp -zeta +zetaDelta only [Kept.other_iff]

theorem State.stopChecks_kept {o0 : State} (s : State) (acc t : Nat) (hk : Kept o0 s) : Kept o0 (State.stopChecks s acc t) := by
  unfold State.stopChecks
  repeat' first
    | with_reducible assumption
    | simp -zeta only [Kept.other_iff]
    | with_reducible apply State.smpSend_kept
    | with_reducible apply State.updJob_kept
    | with_reducible apply State.tokenChecked_kept
    | (with_reducible refine Kept.foldl ?_ ?_)
    | split
    | intro _
    | extract_lets
    | simp -zeta +zetaDelta only [Kept.other_iff]

theorem State.walked_kept {o0 : State} (s : State) (acc t : Nat) (word : Option W64) (hk : Kept o0 s) : Kept o0 (State.walked s acc t word) := by
  unfold State.walked
  repeat' first
    | with_reducible assumption
    | simp -zeta only [Kept.other_iff]
    | with_reducible apply State.updReq_kept
    | with_reducible apply State.updJob_kept
    | with_reducible apply State.stopChecks_kept
    | split
    | intro _
    | extract_lets
    | simp -zeta +zetaDelta only [Kept.other_iff]

theorem State.advanceAid_kept {o0 : State} (s : State) (acc t : Nat) (hk : Kept o0 s) : Kept o0 (State.advanceAid s acc t) := by
  unfold State.advanceAid
  repeat' first
    | with_reducible assumption
    | simp -zeta only [Kept.other_iff]
    | with_reducible apply State.readBucket_kept
    | with_reducible apply State.updJob_kept
    | with_reducible apply State.stopChecks_kept
    | with_reducible apply State.walked_kept
    | split
    | intro _
    | extract_lets
    | simp -zeta +zetaDelta only [Kept.other_iff]

theorem State.commitToken_kept {o0 : State} (s : State) (acc t : Nat) (hk : Kept o0 s) : Kept o0 (State.commitToken s acc t) := by
  unfold State.commitToken
  repeat' first
    | with_reducible assumption
    | simp -zeta only [Kept.other_iff]
    | with_reducible apply State.updGal_kept
    | with_reducible apply State.updReq_kept
    | with_reducible apply State.count_kept
    | with_reducible apply State.ledgerAdd_kept
    | with_reducible apply State.take_kept
    | with_reducible apply State.charge_kept
    | with_reducible apply State.updJob_kept
    | with_reducible apply State.finishJob_kept
    | with_reducible apply State.advanceAid_kept
    | split
    | intro _
    | extract_lets
    | simp -zeta +zetaDelta only [Kept.other_iff]

theorem State.stopAnswer_kept {o0 : State} (s : State) (acc i : Nat) (burst : List Byte) (hk : Kept o0 s) : Kept o0 (State.stopAnswer s acc i burst) := by
  unfold State.stopAnswer
  repeat' first
    | with_reducible assumption
    | simp -zeta only [Kept.other_iff]
    | with_reducible apply State.updJob_kept
    | with_reducible apply State.tokenChecked_kept
    | split
    | intro _
    | extract_lets
    | simp -zeta +zetaDelta only [Kept.other_iff]

theorem State.resultDone_kept {o0 : State} (s : State) (r : Req) (shapeId : Nat) (hk : Kept o0 s) : Kept o0 (State.resultDone s r shapeId) := by
  unfold State.resultDone
  repeat' first
    | with_reducible assumption
    | simp -zeta only [Kept.other_iff]
    | with_reducible apply State.mirrorEvent_kept
    | with_reducible apply State.markDeaccessioned_kept
    | extract_lets
    | simp -zeta +zetaDelta only [Kept.other_iff]

theorem State.commitResult_kept {o0 : State} (s : State) (t : Step) (a : RowAsg) (r : Req) (hk : Kept o0 s) : Kept o0 (State.commitResult s t a r) := by
  unfold State.commitResult
  repeat' first
    | with_reducible assumption
    | simp -zeta only [Kept.other_iff]
    | with_reducible apply State.updReq_kept
    | with_reducible apply State.mirrorEvent_kept
    | with_reducible apply State.deaccession_kept
    | with_reducible apply State.charge_kept
    | with_reducible apply Comp.row_kept
    | with_reducible apply State.updStep_kept
    | with_reducible apply State.settle_kept
    | with_reducible apply State.resultDone_kept
    | split
    | intro _
    | extract_lets
    | simp -zeta +zetaDelta only [Kept.other_iff]

theorem execRowCommit_kept {o0 : State} (wing : Fin 4) (row : Nat) (s : State) (hk : Kept o0 s) : KeptOut o0 (execRowCommit wing row s) := by
  unfold execRowCommit
  repeat' first
    | with_reducible assumption
    | simp -zeta only [Kept.other_iff, KeptOut.next]
    | with_reducible apply State.take_kept
    | with_reducible apply State.updStep_kept
    | with_reducible apply State.settle_kept
    | with_reducible apply State.nextToken_kept
    | with_reducible apply State.commitResult_kept
    | split
    | intro _
    | extract_lets
    | simp -zeta +zetaDelta only [Kept.other_iff]

/-! ## Egress -/

theorem State.countMiss_kept {o0 : State} (s : State) (r : Req) (kind d : Nat) (hk : Kept o0 s) : Kept o0 (State.countMiss s r kind d) := by
  unfold State.countMiss
  repeat' first
    | with_reducible assumption
    | simp -zeta only [Kept.other_iff]
    | with_reducible apply State.updGal_kept
    | with_reducible apply State.count_kept
    | with_reducible apply State.ledgerAdd_kept
    | split
    | intro _
    | extract_lets
    | simp -zeta +zetaDelta only [Kept.other_iff]

theorem State.stamped_kept {o0 : State} (s : State) (r : Req) (o : OutRec) (hk : Kept o0 s) : Kept o0 (State.stamped s r o) := by
  unfold State.stamped
  repeat' first
    | with_reducible assumption
    | simp -zeta only [Kept.other_iff]
    | with_reducible apply State.updReq_kept
    | with_reducible apply State.armWheel_kept
    | split
    | intro _
    | extract_lets
    | simp -zeta +zetaDelta only [Kept.other_iff]

theorem State.updRec_kept {o0 : State} (s : State) (acc seq : Nat) (f : OutRec → OutRec) (hk : Kept o0 s) : Kept o0 (State.updRec s acc seq f) := by
  unfold State.updRec
  repeat' first
    | with_reducible assumption
    | simp -zeta only [Kept.other_iff]
    | split
    | intro _
    | extract_lets
    | simp -zeta +zetaDelta only [Kept.other_iff]

theorem State.sendCommit_kept {o0 : State} (s : State) (acc : Nat) (hk : Kept o0 s) : Kept o0 (State.sendCommit s acc) := by
  unfold State.sendCommit
  repeat' first
    | with_reducible assumption
    | simp -zeta only [Kept.other_iff]
    | with_reducible apply State.gaugeMax_kept
    | with_reducible apply State.sendRec_kept
    | with_reducible apply State.updRec_kept
    | (with_reducible refine Kept.foldl ?_ ?_)
    | split
    | intro _
    | extract_lets
    | simp -zeta +zetaDelta only [Kept.other_iff]

theorem State.sendCommits_kept {o0 : State} (s : State) (w : Nat) (hk : Kept o0 s) : Kept o0 (State.sendCommits s w) := by
  unfold State.sendCommits
  repeat' first
    | with_reducible assumption
    | simp -zeta only [Kept.other_iff]
    | with_reducible apply State.sendCommit_kept
    | (with_reducible refine Kept.foldl ?_ ?_)
    | intro _
    | extract_lets
    | simp -zeta +zetaDelta only [Kept.other_iff]

theorem State.sealRecord_kept {o0 : State} (s : State) (o : OutRec) (hk : Kept o0 s) : Kept o0 (State.sealRecord s o) := by
  unfold State.sealRecord
  repeat' first
    | with_reducible assumption
    | simp -zeta only [Kept.other_iff]
    | with_reducible apply State.updGal_kept
    | with_reducible apply State.count_kept
    | with_reducible apply State.countMiss_kept
    | with_reducible apply State.stamped_kept
    | with_reducible apply State.updRec_kept
    | (with_reducible refine Kept.foldl ?_ ?_)
    | split
    | intro _
    | extract_lets
    | simp -zeta +zetaDelta only [Kept.other_iff]

theorem execRecordSeal_kept {o0 : State} (acc : W32) (s : State) (hk : Kept o0 s) : KeptOut o0 (execRecordSeal acc s) := by
  unfold execRecordSeal
  repeat' first
    | with_reducible assumption
    | simp -zeta only [Kept.other_iff, KeptOut.next]
    | with_reducible apply State.sendCommit_kept
    | with_reducible apply State.sealRecord_kept
    | (with_reducible refine Kept.foldl ?_ ?_)
    | split
    | intro _
    | extract_lets
    | simp -zeta +zetaDelta only [Kept.other_iff]

theorem State.writeGroup_kept {o0 : State} (s : State) (o : OutRec) (h : Kept o0 s) : Kept o0 (s.writeGroup o) := by
  unfold State.writeGroup
  extract_lets i q put k1
  refine State.raiseVec_kept _ _ (State.updRes_kept _ _ _ ?_)
  simp -zeta only [k1, Kept.lit_iff]
  exact KeptLit.intro h rfl (MemStep.foldl _ _ _ _) (SecStep.wrote _ _)

theorem State.releaseRecord_kept {o0 : State} (s : State) (o : OutRec) (hk : Kept o0 s) : Kept o0 (State.releaseRecord s o) := by
  unfold State.releaseRecord
  repeat' first
    | with_reducible assumption
    | simp -zeta only [Kept.other_iff]
    | with_reducible apply State.count_kept
    | with_reducible apply State.mirrorEvent_kept
    | with_reducible apply State.freeSlot_kept
    | with_reducible apply State.checkHeld_kept
    | with_reducible apply State.writeGroup_kept
    | split
    | intro _
    | extract_lets
    | simp -zeta +zetaDelta only [Kept.other_iff]

theorem State.releaseOrHold_kept {o0 : State} (s : State) (o : OutRec) (behind : Bool) (hk : Kept o0 s) : Kept o0 (State.releaseOrHold s o behind) := by
  unfold State.releaseOrHold
  repeat' first
    | with_reducible assumption
    | simp -zeta only [Kept.other_iff]
    | with_reducible apply State.checkHeld_kept
    | with_reducible apply State.updRec_kept
    | with_reducible apply State.releaseRecord_kept
    | split
    | intro _
    | extract_lets
    | simp -zeta +zetaDelta only [Kept.other_iff]

theorem State.releaseOne_kept {o0 : State} (s : State) (o : OutRec) (behind : Bool) (hk : Kept o0 s) : Kept o0 (State.releaseOne s o behind) := by
  unfold State.releaseOne
  repeat' first
    | with_reducible assumption
    | simp -zeta only [Kept.other_iff]
    | with_reducible apply State.checkHeld_kept
    | with_reducible apply State.updRec_kept
    | with_reducible apply State.releaseOrHold_kept
    | split
    | intro _
    | extract_lets
    | simp -zeta +zetaDelta only [Kept.other_iff]

theorem execRecordRelease_kept {o0 : State} (acc : W32) (s : State) (hk : Kept o0 s) : KeptOut o0 (execRecordRelease acc s) := by
  unfold execRecordRelease
  repeat' first
    | with_reducible assumption
    | simp -zeta only [Kept.other_iff, KeptOut.next]
    | with_reducible apply State.releaseOne_kept
    | (with_reducible refine Kept.foldl ?_ ?_)
    | split
    | intro _
    | extract_lets
    | simp -zeta +zetaDelta only [Kept.other_iff]

theorem State.slip_kept {o0 : State} (s : State) (g : Nat) (hk : Kept o0 s) : Kept o0 (State.slip s g) := by
  unfold State.slip
  repeat' first
    | with_reducible assumption
    | simp -zeta only [Kept.other_iff]
    | with_reducible apply State.updGal_kept
    | intro _
    | extract_lets
    | simp -zeta +zetaDelta only [Kept.other_iff]

theorem State.turn_kept {o0 : State} (s : State) (o : OutRec) (hk : Kept o0 s) : Kept o0 (State.turn s o) := by
  unfold State.turn
  repeat' first
    | with_reducible assumption
    | simp -zeta only [Kept.other_iff]
    | with_reducible apply State.releaseOne_kept
    | with_reducible apply State.slip_kept
    | split
    | extract_lets
    | simp -zeta +zetaDelta only [Kept.other_iff]

theorem State.rowTurn_kept {o0 : State} (s : State) (w : Nat) (t : Step) (row : Nat) (hk : Kept o0 s) : Kept o0 (State.rowTurn s w t row) := by
  unfold State.rowTurn
  repeat' first
    | with_reducible assumption
    | simp -zeta only [Kept.other_iff]
    | with_reducible apply Comp.row_kept
    | with_reducible apply State.slip_kept
    | with_reducible apply State.turn_kept
    | (with_reducible refine Kept.foldl ?_ ?_)
    | split
    | intro _
    | extract_lets
    | simp -zeta +zetaDelta only [Kept.other_iff]

theorem execReleaseTick_kept {o0 : State} (wing : Fin 4) (s : State) (hk : Kept o0 s) : KeptOut o0 (execReleaseTick wing s) := by
  unfold execReleaseTick
  repeat' first
    | with_reducible assumption
    | simp -zeta only [Kept.other_iff, KeptOut.next]
    | with_reducible apply State.updStep_kept
    | with_reducible apply State.rowTurn_kept
    | (with_reducible refine Kept.foldl ?_ ?_)
    | split
    | intro _
    | extract_lets
    | simp -zeta +zetaDelta only [Kept.other_iff]

theorem State.updResult_kept {o0 : State} (s : State) (acc : Nat) (f : ResultJob → ResultJob) (hk : Kept o0 s) : Kept o0 (State.updResult s acc f) := by
  unfold State.updResult
  repeat' first
    | with_reducible assumption
    | simp -zeta only [Kept.other_iff]
    | extract_lets
    | simp -zeta +zetaDelta only [Kept.other_iff]

theorem State.readResult_kept {o0 : State} (s : State) (r : Req) (j : ResultJob) (hk : Kept o0 s) : Kept o0 (State.readResult s r j) := by
  unfold State.readResult
  repeat' first
    | with_reducible assumption
    | simp -zeta only [Kept.other_iff]
    | with_reducible apply State.smpSend_kept
    | with_reducible apply State.updResult_kept
    | split
    | intro _
    | extract_lets
    | simp -zeta +zetaDelta only [Kept.other_iff]

theorem State.resultRead_kept {o0 : State} (s : State) (acc : Nat) (burst : List Byte) (hk : Kept o0 s) : Kept o0 (State.resultRead s acc burst) := by
  unfold State.resultRead
  repeat' first
    | with_reducible assumption
    | simp -zeta only [Kept.other_iff]
    | with_reducible apply State.report_kept
    | with_reducible apply State.updResult_kept
    | with_reducible apply State.readResult_kept
    | split
    | intro _
    | extract_lets
    | simp -zeta +zetaDelta only [Kept.other_iff]

theorem State.sealResult_kept {o0 : State} (s : State) (r : Req) (j : ResultJob) (hk : Kept o0 s) : Kept o0 (State.sealResult s r j) := by
  unfold State.sealResult
  repeat' first
    | with_reducible assumption
    | simp -zeta only [Kept.other_iff]
    | with_reducible apply State.updReq_kept
    | with_reducible apply State.tokenlessFinal_kept
    | with_reducible apply State.countMiss_kept
    | with_reducible apply State.stamped_kept
    | with_reducible apply State.sendCommit_kept
    | with_reducible apply State.updResult_kept
    | (with_reducible refine Kept.foldl ?_ ?_)
    | split
    | intro _
    | extract_lets
    | simp -zeta +zetaDelta only [Kept.other_iff]

theorem execResultGroup_kept {o0 : State} (acc : W32) (s : State) (hk : Kept o0 s) : KeptOut o0 (execResultGroup acc s) := by
  unfold execResultGroup
  repeat' first
    | with_reducible assumption
    | simp -zeta only [Kept.other_iff, KeptOut.next]
    | with_reducible apply State.tokenlessFinal_kept
    | with_reducible apply State.readResult_kept
    | with_reducible apply State.sealResult_kept
    | split
    | intro _
    | extract_lets
    | simp -zeta +zetaDelta only [Kept.other_iff]

theorem State.updRow_kept {o0 : State} (s : State) (w : Nat) (tag : W16) (row : Nat) (f : RowAsg → RowAsg) (hk : Kept o0 s) : Kept o0 (State.updRow s w tag row f) := by
  unfold State.updRow
  repeat' first
    | with_reducible assumption
    | simp -zeta only [Kept.other_iff]
    | with_reducible apply State.updWing_kept
    | intro _
    | extract_lets
    | simp -zeta +zetaDelta only [Kept.other_iff]

theorem State.walkDrafts_kept {o0 : State} (s : State) (w : Nat) (tag : W16) (row : Nat) (n : Nat) (h : Kept o0 s) :
    Kept o0 (s.walkDrafts w tag row n) := by
  induction n generalizing s with
  | zero => exact h
  | succ n ih =>
    unfold State.walkDrafts
    repeat' first
      | with_reducible assumption
      | with_reducible apply ih
      | with_reducible apply State.updRow_kept
      | with_reducible apply State.readBucket_kept
      | split

theorem State.draftAnswer_kept {o0 : State} (s : State) (w : Nat) (tag : W16) (row token : Nat) (bucket : List Byte) (hk : Kept o0 s) : Kept o0 (State.draftAnswer s w tag row token bucket) := by
  unfold State.draftAnswer
  repeat' first
    | with_reducible assumption
    | simp -zeta only [Kept.other_iff]
    | with_reducible apply State.updRow_kept
    | with_reducible apply State.walkDrafts_kept
    | split
    | intro _
    | extract_lets
    | simp -zeta +zetaDelta only [Kept.other_iff]

theorem State.beginWalks_kept {o0 : State} (s : State) (w : Nat) (tag : W16) (row : Nat) (ds : List Nat) (hk : Kept o0 s) : Kept o0 (State.beginWalks s w tag row ds) := by
  unfold State.beginWalks
  repeat' first
    | with_reducible assumption
    | simp -zeta only [Kept.other_iff]
    | with_reducible apply State.updRow_kept
    | with_reducible apply State.walkDrafts_kept
    | split
    | intro _
    | extract_lets
    | simp -zeta +zetaDelta only [Kept.other_iff]

theorem State.prepareRow_kept {o0 : State} (s : State) (w : Nat) (tag : W16) (a : RowAsg) (hk : Kept o0 s) : Kept o0 (State.prepareRow s w tag a) := by
  unfold State.prepareRow
  repeat' first
    | with_reducible assumption
    | simp -zeta only [Kept.other_iff]
    | with_reducible apply Comp.row_kept
    | with_reducible apply State.updRow_kept
    | with_reducible apply State.beginWalks_kept
    | split
    | intro _
    | extract_lets
    | simp -zeta +zetaDelta only [Kept.other_iff]

theorem State.sendFeed_kept {o0 : State} (s : State) (w : Nat) (t : Step) (hk : Kept o0 s) : Kept o0 (State.sendFeed s w t) := by
  unfold State.sendFeed
  repeat' first
    | with_reducible assumption
    | simp -zeta only [Kept.other_iff]
    | with_reducible apply State.updWing_kept
    | with_reducible apply State.emit_kept
    | split
    | intro _
    | extract_lets
    | simp -zeta +zetaDelta only [Kept.other_iff]

theorem execFeedStream_kept {o0 : State} (wing : Fin 4) (s : State) (hk : Kept o0 s) : KeptOut o0 (execFeedStream wing s) := by
  unfold execFeedStream
  repeat' first
    | with_reducible assumption
    | simp -zeta only [Kept.other_iff, KeptOut.next]
    | with_reducible apply State.prepareRow_kept
    | with_reducible apply State.sendFeed_kept
    | (with_reducible refine Kept.foldl ?_ ?_)
    | split
    | intro _
    | extract_lets
    | simp -zeta +zetaDelta only [Kept.other_iff]

/-! ## Smp -/

theorem State.mirrorStatusRead_kept {o0 : State} (s : State) (w drops : Nat) (hk : Kept o0 s) : Kept o0 (State.mirrorStatusRead s w drops) := by
  unfold State.mirrorStatusRead
  repeat' first
    | with_reducible assumption
    | simp -zeta only [Kept.other_iff]
    | with_reducible apply State.updWing_kept
    | with_reducible apply State.count_kept
    | with_reducible apply State.report_kept
    | with_reducible apply State.detectFailure_kept
    | with_reducible apply State.sendCommits_kept
    | split
    | intro _
    | extract_lets
    | simp -zeta +zetaDelta only [Kept.other_iff]

theorem State.smpDone_kept {o0 : State} (s : State) (q : SmpReq) (data : List Byte) (hk : Kept o0 s) : Kept o0 (State.smpDone s q data) := by
  unfold State.smpDone
  repeat' first
    | with_reducible assumption
    | simp -zeta only [Kept.other_iff]
    | with_reducible apply State.walked_kept
    | with_reducible apply State.commitToken_kept
    | with_reducible apply State.stopAnswer_kept
    | with_reducible apply State.resultRead_kept
    | with_reducible apply State.draftAnswer_kept
    | with_reducible apply State.mirrorStatusRead_kept
    | split
    | extract_lets
    | simp -zeta +zetaDelta only [Kept.other_iff]

theorem State.loseResult_kept {o0 : State} (s : State) (acc : Nat) (hk : Kept o0 s) : Kept o0 (State.loseResult s acc) := by
  unfold State.loseResult
  repeat' first
    | with_reducible assumption
    | simp -zeta only [Kept.other_iff]
    | with_reducible apply State.updGal_kept
    | with_reducible apply State.updReq_kept
    | with_reducible apply State.count_kept
    | with_reducible apply State.report_kept
    | with_reducible apply State.tokenlessFinal_kept
    | split
    | intro _
    | extract_lets
    | simp -zeta +zetaDelta only [Kept.other_iff]

theorem State.smpLoses_kept {o0 : State} (s : State) (q : SmpReq) (status unit acc : Nat) (hk : Kept o0 s) : Kept o0 (State.smpLoses s q status unit acc) := by
  unfold State.smpLoses
  repeat' first
    | with_reducible assumption
    | simp -zeta only [Kept.other_iff]
    | with_reducible apply State.loseRequest_kept
    | with_reducible apply State.smpReport_kept
    | split
    | extract_lets
    | simp -zeta +zetaDelta only [Kept.other_iff]

theorem State.smpLosesAid_kept {o0 : State} (s : State) (q : SmpReq) (status g n acc : Nat) (hk : Kept o0 s) : Kept o0 (State.smpLosesAid s q status g n acc) := by
  unfold State.smpLosesAid
  repeat' first
    | with_reducible assumption
    | simp -zeta only [Kept.other_iff]
    | with_reducible apply State.loseAid_kept
    | with_reducible apply State.smpReport_kept
    | split
    | extract_lets
    | simp -zeta +zetaDelta only [Kept.other_iff]

theorem State.smpFailed_kept {o0 : State} (s : State) (q : SmpReq) (status : Nat) (hk : Kept o0 s) : Kept o0 (State.smpFailed s q status) := by
  unfold State.smpFailed
  repeat' first
    | with_reducible assumption
    | simp -zeta only [Kept.other_iff]
    | with_reducible apply State.smpReport_kept
    | with_reducible apply State.sendCommits_kept
    | with_reducible apply State.loseResult_kept
    | with_reducible apply State.smpLoses_kept
    | with_reducible apply State.smpLosesAid_kept
    | split
    | intro _
    | extract_lets
    | simp -zeta +zetaDelta only [Kept.other_iff]

theorem execSmpResponse_kept {o0 : State} (tag : Nat) (status : Nat) (data : List Byte) (s : State) (hk : Kept o0 s) : KeptOut o0 (execSmpResponse tag status data s) := by
  unfold execSmpResponse
  repeat' first
    | with_reducible assumption
    | simp -zeta only [Kept.other_iff, KeptOut.next]
    | with_reducible apply State.count_kept
    | with_reducible apply State.gaugeMax_kept
    | with_reducible apply State.smpFlush_kept
    | with_reducible apply State.smpDone_kept
    | with_reducible apply State.smpFailed_kept
    | split
    | intro _
    | extract_lets
    | simp -zeta +zetaDelta only [Kept.other_iff]

end Sys2Proof.Machine
end

