-- ==== Sys2Proof/Laws/Kept4.lean ====
section
/-! SUPPORT. `Kept` of each operation and meaning of Machine/Heartbeat, Ledger, Integrity, Registers.lean. -/

set_option linter.unusedSimpArgs false

namespace Sys2Proof.Machine

open Sys2Proof.Bytes

/-! ## Heartbeat -/

theorem State.noteFrame_kept {o0 : State} (s : State) (hk : Kept o0 s) : Kept o0 (State.noteFrame s) := by
  unfold State.noteFrame
  repeat' first
    | with_reducible assumption
    | simp -zeta only [Kept.other_iff]
    | extract_lets
    | simp -zeta +zetaDelta only [Kept.other_iff]

theorem State.noteAlive_kept {o0 : State} (s : State) (hk : Kept o0 s) : Kept o0 (State.noteAlive s) := by
  unfold State.noteAlive
  repeat' first
    | with_reducible assumption
    | simp -zeta only [Kept.other_iff]
    | with_reducible apply State.noteFrame_kept
    | extract_lets
    | simp -zeta +zetaDelta only [Kept.other_iff]

theorem execHeartbeatTx_kept {o0 : State} (s : State) (hk : Kept o0 s) : KeptOut o0 (execHeartbeatTx s) := by
  unfold execHeartbeatTx
  repeat' first
    | with_reducible assumption
    | simp -zeta only [Kept.other_iff, KeptOut.next]
    | with_reducible apply State.emit_kept
    | split
    | extract_lets
    | simp -zeta +zetaDelta only [Kept.other_iff]

theorem execGrvHeartbeat_kept {o0 : State} (frame : W64) (s : State) (hk : Kept o0 s) : KeptOut o0 (execGrvHeartbeat frame s) := by
  unfold execGrvHeartbeat
  repeat' first
    | with_reducible assumption
    | simp -zeta only [Kept.other_iff, KeptOut.next]
    | with_reducible apply State.emit_kept
    | with_reducible apply State.count_kept
    | with_reducible apply State.noteAlive_kept
    | split
    | extract_lets
    | simp -zeta +zetaDelta only [Kept.other_iff]

theorem State.sendFailure_kept {o0 : State} (s : State) (code : Nat) (hk : Kept o0 s) : Kept o0 (State.sendFailure s code) := by
  unfold State.sendFailure
  repeat' first
    | with_reducible assumption
    | simp -zeta only [Kept.other_iff]
    | with_reducible apply State.emit_kept
    | split
    | extract_lets
    | simp -zeta +zetaDelta only [Kept.other_iff]

theorem State.exchange_kept {o0 : State} (s : State) (theta2 : Int) (trip : Nat) (hk : Kept o0 s) : Kept o0 (State.exchange s theta2 trip) := by
  unfold State.exchange
  repeat' first
    | with_reducible assumption
    | simp -zeta only [Kept.other_iff]
    | with_reducible apply State.keeperCause_kept
    | with_reducible apply State.report_kept
    | with_reducible apply State.take_kept
    | split
    | extract_lets
    | simp -zeta +zetaDelta only [Kept.other_iff]

theorem execGrvEcho_kept {o0 : State} (frame : W64) (s : State) (hk : Kept o0 s) : KeptOut o0 (execGrvEcho frame s) := by
  unfold execGrvEcho
  repeat' first
    | with_reducible assumption
    | simp -zeta only [Kept.other_iff, KeptOut.next]
    | with_reducible apply State.noteAlive_kept
    | with_reducible apply State.exchange_kept
    | split
    | extract_lets
    | simp -zeta +zetaDelta only [Kept.other_iff]

theorem execGrvFailure_kept {o0 : State} (frame : W64) (s : State) (hk : Kept o0 s) : KeptOut o0 (execGrvFailure frame s) := by
  unfold execGrvFailure
  repeat' first
    | with_reducible assumption
    | simp -zeta only [Kept.other_iff, KeptOut.next]
    | with_reducible apply State.detectFailure_kept
    | with_reducible apply State.noteFrame_kept
    | split
    | extract_lets
    | simp -zeta +zetaDelta only [Kept.other_iff]

theorem execHeartbeatTimeout_kept {o0 : State} (s : State) (hk : Kept o0 s) : KeptOut o0 (execHeartbeatTimeout s) := by
  unfold execHeartbeatTimeout
  repeat' first
    | with_reducible assumption
    | simp -zeta only [Kept.other_iff, KeptOut.next]
    | with_reducible apply State.detectFailure_kept
    | split
    | extract_lets
    | simp -zeta +zetaDelta only [Kept.other_iff]

theorem execFenceTimeout_kept {o0 : State} (s : State) (hk : Kept o0 s) : KeptOut o0 (execFenceTimeout s) := by
  unfold execFenceTimeout
  repeat' first
    | with_reducible assumption
    | simp -zeta only [Kept.other_iff, KeptOut.next]
    | split
    | extract_lets
    | simp -zeta +zetaDelta only [Kept.other_iff]

theorem State.enterTakeover_kept {o0 : State} (s : State) (hk : Kept o0 s) : Kept o0 (State.enterTakeover s) := by
  unfold State.enterTakeover
  repeat' first
    | with_reducible assumption
    | simp -zeta only [Kept.other_iff]
    | with_reducible apply State.flushReplies_kept
    | with_reducible apply State.setPair_kept
    | with_reducible apply State.lowerFence_kept
    | with_reducible apply State.endSession_kept
    | extract_lets
    | simp -zeta +zetaDelta only [Kept.other_iff]

theorem execGrvYield_kept {o0 : State} (frame : W64) (s : State) (hk : Kept o0 s) : KeptOut o0 (execGrvYield frame s) := by
  unfold execGrvYield
  repeat' first
    | with_reducible assumption
    | simp -zeta only [Kept.other_iff, KeptOut.next]
    | with_reducible apply State.setPair_kept
    | with_reducible apply State.noteFrame_kept
    | with_reducible apply State.enterTakeover_kept
    | split
    | extract_lets
    | simp -zeta +zetaDelta only [Kept.other_iff]

theorem State.adoptSlot_kept {o0 : State} (s : State) (m : MirrorSlot) (hk : Kept o0 s) : Kept o0 (State.adoptSlot s m) := by
  unfold State.adoptSlot
  repeat' first
    | with_reducible assumption
    | simp -zeta only [Kept.other_iff]
    | with_reducible apply State.updGal_kept
    | with_reducible apply State.updReq_kept
    | with_reducible apply State.report_kept
    | with_reducible apply State.tokenlessFinal_kept
    | with_reducible apply State.dataLost_kept
    | split
    | intro _
    | extract_lets
    | simp -zeta +zetaDelta only [Kept.other_iff]

theorem execAdoption_kept {o0 : State} (s : State) (hk : Kept o0 s) : KeptOut o0 (execAdoption s) := by
  unfold execAdoption
  repeat' first
    | with_reducible assumption
    | simp -zeta only [Kept.other_iff, KeptOut.next]
    | with_reducible apply State.count_kept
    | with_reducible apply State.ledgerAdd_kept
    | with_reducible apply State.setPair_kept
    | with_reducible apply State.adoptSlot_kept
    | (with_reducible refine Kept.foldl ?_ ?_)
    | split
    | intro _
    | extract_lets
    | simp -zeta +zetaDelta only [Kept.other_iff]

theorem State.fenceMail_kept {o0 : State} (s : State) (type : Nat) (act : State → State) (hk : Kept o0 s) (hact : ∀ u, Kept o0 u → Kept o0 (act u)) : Kept o0 (State.fenceMail s type act) := by
  unfold State.fenceMail
  repeat' first
    | with_reducible assumption
    | simp -zeta only [Kept.other_iff, refuse_state, busy_state]
    | with_reducible apply State.ackMessage_kept
    | with_reducible apply Done.refuse_kept
    | with_reducible apply hact
    | split
    | intro _
    | extract_lets
    | simp -zeta +zetaDelta only [Kept.other_iff]

theorem State.journalHeld_kept {o0 : State} (s : State) (hk : Kept o0 s) : Kept o0 (State.journalHeld s) := by
  unfold State.journalHeld
  repeat' first
    | with_reducible assumption
    | simp -zeta only [Kept.other_iff]
    | (simp -zeta only [Kept.lit_iff]; with_reducible refine KeptLit.intro ?_ ?_ ?_ ?_)
    | with_reducible exact MemStep.refl _
    | with_reducible exact SecStep.refl _
    | with_reducible rfl
    | exact rfl
    | extract_lets
    | simp -zeta +zetaDelta only [Kept.other_iff]

theorem State.clearPreserved_kept {o0 : State} (s : State) (hk : Kept o0 s) : Kept o0 (State.clearPreserved s) := by
  unfold State.clearPreserved
  repeat' first
    | with_reducible assumption
    | simp -zeta only [Kept.other_iff]
    | intro _
    | extract_lets
    | simp -zeta +zetaDelta only [Kept.other_iff]

theorem execFenceConfirmed_kept {o0 : State} (s : State) (hk : Kept o0 s) : KeptOut o0 (execFenceConfirmed s) := by
  unfold execFenceConfirmed
  repeat' first
    | with_reducible assumption
    | simp -zeta only [Kept.other_iff, KeptOut.next]
    | with_reducible apply State.enterTakeover_kept
    | with_reducible apply State.fenceMail_kept
    | with_reducible apply State.journalHeld_kept
    | split
    | intro _
    | extract_lets
    | simp -zeta +zetaDelta only [Kept.other_iff]

theorem execFenceDenied_kept {o0 : State} (s : State) (hk : Kept o0 s) : KeptOut o0 (execFenceDenied s) := by
  unfold execFenceDenied
  repeat' first
    | with_reducible assumption
    | simp -zeta only [Kept.other_iff, KeptOut.next]
    | with_reducible apply State.lowerFence_kept
    | with_reducible apply State.dropJournal_kept
    | with_reducible apply State.enterDegraded_kept
    | with_reducible apply State.fenceMail_kept
    | with_reducible apply State.clearPreserved_kept
    | split
    | intro _
    | extract_lets
    | simp -zeta +zetaDelta only [Kept.other_iff]

theorem execMirrorLate_kept {o0 : State} (acc : W32) (seq : Nat) (s : State) (hk : Kept o0 s) : KeptOut o0 (execMirrorLate acc seq s) := by
  unfold execMirrorLate
  repeat' first
    | with_reducible assumption
    | simp -zeta only [Kept.other_iff, KeptOut.next]
    | with_reducible apply State.report_kept
    | with_reducible apply State.updRec_kept
    | split
    | intro _
    | extract_lets
    | simp -zeta +zetaDelta only [Kept.other_iff]

/-! ## Ledger -/

theorem State.beginCheckpoint_kept {o0 : State} (s : State) (cause : Nat) (seq : Option W32) (hk : Kept o0 s) : Kept o0 (State.beginCheckpoint s cause seq) := by
  unfold State.beginCheckpoint
  repeat' first
    | with_reducible assumption
    | simp -zeta only [Kept.other_iff]
    | with_reducible apply State.wake_kept
    | with_reducible apply State.startActivity_kept
    | extract_lets
    | simp -zeta +zetaDelta only [Kept.other_iff]

theorem State.checkpoint_kept {o0 : State} (s : State) (cause : Nat) (seq : Option W32) (hk : Kept o0 s) : Kept o0 (State.checkpoint s cause seq) := by
  unfold State.checkpoint
  repeat' first
    | with_reducible assumption
    | simp -zeta only [Kept.other_iff]
    | with_reducible apply State.beginCheckpoint_kept
    | split
    | extract_lets
    | simp -zeta +zetaDelta only [Kept.other_iff]

theorem State.ownStarts_kept {o0 : State} (s : State) (hk : Kept o0 s) : Kept o0 (State.ownStarts s) := by
  unfold State.ownStarts
  repeat' first
    | with_reducible assumption
    | simp -zeta only [Kept.other_iff]
    | with_reducible apply State.checkpoint_kept
    | (with_reducible refine Kept.foldl ?_ ?_)
    | split
    | intro _
    | extract_lets
    | simp -zeta +zetaDelta only [Kept.other_iff]

theorem execLedgerCheckpoint_kept {o0 : State} (ring : Fin 8) (s : State) (hk : Kept o0 s) : KeptOut o0 (execLedgerCheckpoint ring s) := by
  unfold execLedgerCheckpoint
  repeat' first
    | with_reducible assumption
    | simp -zeta only [Kept.other_iff, KeptOut.next, refuse_state, busy_state]
    | with_reducible apply Done.busy_kept
    | with_reducible apply clearCommand_kept
    | with_reducible apply State.checkpoint_kept
    | split
    | intro _
    | extract_lets
    | simp -zeta +zetaDelta only [Kept.other_iff]

theorem execPeriodicCheckpoint_kept {o0 : State} (s : State) (hk : Kept o0 s) : KeptOut o0 (execPeriodicCheckpoint s) := by
  unfold execPeriodicCheckpoint
  repeat' first
    | with_reducible assumption
    | simp -zeta only [Kept.other_iff, KeptOut.next]
    | split
    | extract_lets
    | simp -zeta +zetaDelta only [Kept.other_iff]

theorem execCheckpointComplete_kept {o0 : State} (s : State) (hk : Kept o0 s) : KeptOut o0 (execCheckpointComplete s) := by
  unfold execCheckpointComplete
  repeat' first
    | with_reducible assumption
    | simp -zeta only [Kept.other_iff, KeptOut.next]
    | with_reducible apply State.ledgerAdd_kept
    | with_reducible apply State.take_kept
    | with_reducible apply State.endActivity_kept
    | split
    | extract_lets
    | simp -zeta +zetaDelta only [Kept.other_iff]

theorem execLedgerRead_kept {o0 : State} (ring : Fin 8) (s : State) (hk : Kept o0 s) : KeptOut o0 (execLedgerRead ring s) := by
  unfold execLedgerRead
  repeat' first
    | with_reducible assumption
    | simp -zeta only [Kept.other_iff, KeptOut.next, refuse_state, busy_state]
    | with_reducible apply Done.busy_kept
    | with_reducible apply clearCommand_kept
    | split
    | intro _
    | extract_lets
    | simp -zeta +zetaDelta only [Kept.other_iff]

theorem State.capCheck_kept {o0 : State} (s : State) (pkg : Nat) (hk : Kept o0 s) : Kept o0 (State.capCheck s pkg) := by
  unfold State.capCheck
  repeat' first
    | with_reducible assumption
    | simp -zeta only [Kept.other_iff]
    | with_reducible apply State.count_kept
    | with_reducible apply State.ledgerAdd_kept
    | with_reducible apply State.report_kept
    | split
    | extract_lets
    | simp -zeta +zetaDelta only [Kept.other_iff]

theorem State.temperature_kept {o0 : State} (s : State) (tj : Int) (hk : Kept o0 s) : Kept o0 (State.temperature s tj) := by
  unfold State.temperature
  repeat' first
    | with_reducible assumption
    | simp -zeta only [Kept.other_iff]
    | with_reducible apply State.ledgerAdd_kept
    | with_reducible apply State.ledgerSet_kept
    | split
    | intro _
    | extract_lets
    | simp -zeta +zetaDelta only [Kept.other_iff]

theorem State.throttleReport_kept {o0 : State} (s : State) (hk : Kept o0 s) : Kept o0 (State.throttleReport s) := by
  unfold State.throttleReport
  repeat' first
    | with_reducible assumption
    | simp -zeta only [Kept.other_iff]
    | with_reducible apply State.count_kept
    | with_reducible apply State.ledgerAdd_kept
    | with_reducible apply State.flagStep_kept
    | (with_reducible refine Kept.foldl ?_ ?_)
    | split
    | intro _
    | extract_lets
    | simp -zeta +zetaDelta only [Kept.other_iff]

theorem State.telemetry_kept {o0 : State} (s : State) (vrail irail pkg last : Nat) (hk : Kept o0 s) : Kept o0 (State.telemetry s vrail irail pkg last) := by
  unfold State.telemetry
  repeat' first
    | with_reducible assumption
    | simp -zeta only [Kept.other_iff]
    | with_reducible apply State.count_kept
    | with_reducible apply State.gaugeMax_kept
    | with_reducible apply State.ledgerMax_kept
    | with_reducible apply State.capCheck_kept
    | with_reducible apply State.temperature_kept
    | with_reducible apply State.throttleReport_kept
    | split
    | extract_lets
    | simp -zeta +zetaDelta only [Kept.other_iff]

theorem State.telemetryMail_kept {o0 : State} (s : State) (hk : Kept o0 s) : Kept o0 (State.telemetryMail s) := by
  unfold State.telemetryMail
  repeat' first
    | with_reducible assumption
    | simp -zeta only [Kept.other_iff, refuse_state, busy_state]
    | with_reducible apply State.ackMessage_kept
    | with_reducible apply Done.refuse_kept
    | with_reducible apply State.telemetry_kept
    | split
    | extract_lets
    | simp -zeta +zetaDelta only [Kept.other_iff]

theorem State.keeperMail_kept {o0 : State} (s : State) (n : Nat) (hk : Kept o0 s) : Kept o0 (State.keeperMail s n) := by
  unfold State.keeperMail
  repeat' first
    | with_reducible assumption
    | simp -zeta only [Kept.other_iff, refuse_state, busy_state]
    | with_reducible apply State.ackMessage_kept
    | with_reducible apply Done.refuse_kept
    | with_reducible apply State.telemetryMail_kept
    | split
    | extract_lets
    | simp -zeta +zetaDelta only [Kept.other_iff]

theorem execTelemetry_kept {o0 : State} (s : State) (hk : Kept o0 s) : KeptOut o0 (execTelemetry s) := by
  unfold execTelemetry
  repeat' first
    | with_reducible assumption
    | simp -zeta only [Kept.other_iff, KeptOut.next]
    | with_reducible apply State.telemetryMail_kept
    | extract_lets
    | simp -zeta +zetaDelta only [Kept.other_iff]

theorem execThrottleEnd_kept {o0 : State} (s : State) (hk : Kept o0 s) : KeptOut o0 (execThrottleEnd s) := by
  unfold execThrottleEnd
  repeat' first
    | with_reducible assumption
    | simp -zeta only [Kept.other_iff, KeptOut.next]
    | split
    | extract_lets
    | simp -zeta +zetaDelta only [Kept.other_iff]

/-! ## Integrity -/

theorem Kpr.bumpEpoch_ktime (k : Kpr) (d : Dom) : (k.bumpEpoch d).ktime = k.ktime := by cases d <;> rfl

theorem State.setSoft_kept {o0 : State} (s : State) (d : Dom) (hk : Kept o0 s) : Kept o0 (State.setSoft s d) := by
  unfold State.setSoft
  repeat' first
    | with_reducible assumption
    | simp -zeta only [Kept.other_iff]
    | (simp -zeta only [Kept.lit_iff]; with_reducible refine KeptLit.intro ?_ ?_ ?_ ?_)
    | with_reducible exact MemStep.refl _
    | with_reducible exact SecStep.refl _
    | with_reducible rfl
    | exact rfl
    | with_reducible apply State.mark_kept
    | extract_lets
    | simp -zeta +zetaDelta only [Kept.other_iff]

theorem State.recompose_kept {o0 : State} (s : State) (w : Nat) (hk : Kept o0 s) : Kept o0 (State.recompose s w) := by
  unfold State.recompose
  repeat' first
    | with_reducible assumption
    | simp -zeta only [Kept.other_iff]
    | with_reducible apply State.updWing_kept
    | with_reducible apply State.voidComposition_kept
    | split
    | intro _
    | extract_lets
    | simp -zeta +zetaDelta only [Kept.other_iff]

theorem State.discardInProgress_kept {o0 : State} (s : State) (w : Nat) (hk : Kept o0 s) : Kept o0 (State.discardInProgress s w) := by
  unfold State.discardInProgress
  repeat' first
    | with_reducible assumption
    | simp -zeta only [Kept.other_iff]
    | with_reducible apply State.discardRunning_kept
    | with_reducible apply State.discardTail_kept
    | (with_reducible refine Kept.foldl ?_ ?_)
    | split
    | intro _
    | extract_lets
    | simp -zeta +zetaDelta only [Kept.other_iff]

theorem State.takeBack81_kept {o0 : State} (s : State) (r : PendingReply) (hk : Kept o0 s) : Kept o0 (State.takeBack81 s r) := by
  unfold State.takeBack81
  repeat' first
    | with_reducible assumption
    | simp -zeta only [Kept.other_iff]
    | with_reducible apply State.updPair_kept
    | with_reducible apply State.updGal_kept
    | with_reducible apply State.withdrawRequest_kept
    | with_reducible apply State.dropActivity_kept
    | split
    | intro _
    | extract_lets
    | simp -zeta +zetaDelta only [Kept.other_iff]

theorem State.takeBackAll_kept {o0 : State} (s : State) (hk : Kept o0 s) : Kept o0 (State.takeBackAll s) := by
  unfold State.takeBackAll
  repeat' first
    | with_reducible assumption
    | simp -zeta only [Kept.other_iff]
    | with_reducible apply State.takeBack81_kept
    | (with_reducible refine Kept.foldl ?_ ?_)
    | intro _
    | extract_lets
    | simp -zeta +zetaDelta only [Kept.other_iff]

theorem State.resetLogic_kept {o0 : State} (s : State) (d : Dom) (hk : Kept o0 s) : Kept o0 (State.resetLogic s d) := by
  unfold State.resetLogic
  repeat' first
    | with_reducible assumption
    | simp -zeta only [Kept.other_iff]
    | with_reducible apply State.releaseLocks_kept
    | with_reducible apply State.recompose_kept
    | with_reducible apply State.discardInProgress_kept
    | with_reducible apply State.takeBackAll_kept
    | (with_reducible refine Kept.foldl ?_ ?_)
    | split
    | intro _
    | extract_lets
    | simp -zeta +zetaDelta only [Kept.other_iff]

theorem State.softResetNow_kept {o0 : State} (s : State) (d : Dom) (hk : Kept o0 s) : Kept o0 (State.softResetNow s d) := by
  unfold State.softResetNow
  repeat' first
    | with_reducible assumption
    | simp -zeta only [Kept.other_iff]
    | (simp -zeta only [Kept.lit_iff]; with_reducible refine KeptLit.intro ?_ ?_ ?_ ?_)
    | with_reducible exact MemStep.refl _
    | with_reducible exact SecStep.refl _
    | with_reducible rfl
    | with_reducible exact Kpr.bumpEpoch_ktime _ _
    | exact rfl
    | with_reducible apply State.count_kept
    | with_reducible apply State.setSoft_kept
    | with_reducible apply State.resetLogic_kept
    | extract_lets
    | simp -zeta +zetaDelta only [Kept.other_iff]

theorem State.softReset_kept {o0 : State} (s : State) (d : Dom) (hk : Kept o0 s) : Kept o0 (State.softReset s d) := by
  unfold State.softReset
  repeat' first
    | with_reducible assumption
    | simp -zeta only [Kept.other_iff]
    | with_reducible apply State.updDom_kept
    | with_reducible apply State.setSoft_kept
    | with_reducible apply State.softResetNow_kept
    | split
    | intro _
    | extract_lets
    | simp -zeta +zetaDelta only [Kept.other_iff]

theorem State.waitingReset_kept {o0 : State} (s : State) (hk : Kept o0 s) : Kept o0 (State.waitingReset s) := by
  unfold State.waitingReset
  repeat' first
    | with_reducible assumption
    | simp -zeta only [Kept.other_iff]
    | with_reducible apply State.updDom_kept
    | with_reducible apply State.softResetNow_kept
    | split
    | intro _
    | extract_lets
    | simp -zeta +zetaDelta only [Kept.other_iff]

theorem State.ownReset_kept {o0 : State} (s : State) (d : Dom) (unit cause : Nat) (hk : Kept o0 s) : Kept o0 (State.ownReset s d unit cause) := by
  unfold State.ownReset
  repeat' first
    | with_reducible assumption
    | simp -zeta only [Kept.other_iff]
    | with_reducible apply State.report_kept
    | with_reducible apply State.softReset_kept
    | extract_lets
    | simp -zeta +zetaDelta only [Kept.other_iff]

theorem State.markLedger_kept {o0 : State} (s : State) (region row cw : Nat) (hk : Kept o0 s) : Kept o0 (State.markLedger s region row cw) := by
  unfold State.markLedger
  repeat' first
    | with_reducible assumption
    | simp -zeta only [Kept.other_iff]
    | split
    | intro _
    | extract_lets
    | simp -zeta +zetaDelta only [Kept.other_iff]

theorem State.markSticky_kept {o0 : State} (s : State) (region row cw : Nat) (hk : Kept o0 s) : Kept o0 (State.markSticky s region row cw) := by
  unfold State.markSticky
  repeat' first
    | with_reducible assumption
    | simp -zeta only [Kept.other_iff]
    | with_reducible apply State.count_kept
    | with_reducible apply State.ledgerAdd_kept
    | with_reducible apply State.report_kept
    | with_reducible apply State.markLedger_kept
    | extract_lets
    | simp -zeta +zetaDelta only [Kept.other_iff]

theorem State.reportCorrected_kept {o0 : State} (s : State) (region : Nat) (hk : Kept o0 s) : Kept o0 (State.reportCorrected s region) := by
  unfold State.reportCorrected
  repeat' first
    | with_reducible assumption
    | simp -zeta only [Kept.other_iff]
    | with_reducible apply State.report_kept
    | split
    | extract_lets
    | simp -zeta +zetaDelta only [Kept.other_iff]

theorem State.corrected_kept {o0 : State} (s : State) (region row cw : Nat) (hk : Kept o0 s) : Kept o0 (State.corrected s region row cw) := by
  unfold State.corrected
  repeat' first
    | with_reducible assumption
    | simp -zeta only [Kept.other_iff]
    | with_reducible apply State.count_kept
    | with_reducible apply State.ledgerAdd_kept
    | with_reducible apply State.report_kept
    | with_reducible apply State.markSticky_kept
    | with_reducible apply State.reportCorrected_kept
    | split
    | extract_lets
    | simp -zeta +zetaDelta only [Kept.other_iff]

theorem State.ueReportOf_kept {o0 : State} (s : State) (wing gallery region row cw sev action acc : Nat) (hk : Kept o0 s) : Kept o0 (State.ueReportOf s wing gallery region row cw sev action acc) := by
  unfold State.ueReportOf
  repeat' first
    | with_reducible assumption
    | simp -zeta only [Kept.other_iff]
    | with_reducible apply State.count_kept
    | with_reducible apply State.ledgerAdd_kept
    | with_reducible apply State.report_kept
    | extract_lets
    | simp -zeta +zetaDelta only [Kept.other_iff]

theorem State.ueReport_kept {o0 : State} (s : State) (region row cw sev action acc : Nat) (hk : Kept o0 s) : Kept o0 (State.ueReport s region row cw sev action acc) := by
  unfold State.ueReport
  repeat' first
    | with_reducible assumption
    | simp -zeta only [Kept.other_iff]
    | with_reducible apply State.ueReportOf_kept
    | extract_lets
    | simp -zeta +zetaDelta only [Kept.other_iff]

theorem State.restoreRecord_kept {o0 : State} (s : State) (r image : Req) (hk : Kept o0 s) : Kept o0 (State.restoreRecord s r image) := by
  unfold State.restoreRecord
  repeat' first
    | with_reducible assumption
    | simp -zeta only [Kept.other_iff]
    | with_reducible apply State.updReq_kept
    | with_reducible apply State.voidRows_kept
    | intro _
    | extract_lets
    | simp -zeta +zetaDelta only [Kept.other_iff]

theorem State.recordLost_kept {o0 : State} (s : State) (row cw : Nat) (hk : Kept o0 s) : Kept o0 (State.recordLost s row cw) := by
  unfold State.recordLost
  repeat' first
    | with_reducible assumption
    | simp -zeta only [Kept.other_iff]
    | with_reducible apply State.dataLost_kept
    | with_reducible apply State.finishJob_kept
    | with_reducible apply State.ueReportOf_kept
    | with_reducible apply State.ueReport_kept
    | with_reducible apply State.restoreRecord_kept
    | split
    | intro _
    | extract_lets
    | simp -zeta +zetaDelta only [Kept.other_iff]

theorem State.entryLost_kept {o0 : State} (s : State) (w : Nat) (e : CatEntry) (hk : Kept o0 s) : Kept o0 (State.entryLost s w e) := by
  unfold State.entryLost
  repeat' first
    | with_reducible assumption
    | simp -zeta only [Kept.other_iff]
    | with_reducible apply State.updWing_kept
    | with_reducible apply State.report_kept
    | with_reducible apply State.keepPeriod_kept
    | split
    | intro _
    | extract_lets
    | simp -zeta +zetaDelta only [Kept.other_iff]

theorem State.catalogueLost_kept {o0 : State} (s : State) (row cw : Nat) (hk : Kept o0 s) : Kept o0 (State.catalogueLost s row cw) := by
  unfold State.catalogueLost
  repeat' first
    | with_reducible assumption
    | simp -zeta only [Kept.other_iff]
    | with_reducible apply State.updWing_kept
    | with_reducible apply State.ueReportOf_kept
    | with_reducible apply State.entryLost_kept
    | split
    | intro _
    | extract_lets
    | simp -zeta +zetaDelta only [Kept.other_iff]

theorem State.galleryLost_kept {o0 : State} (s : State) (g : Nat) (hk : Kept o0 s) : Kept o0 (State.galleryLost s g) := by
  unfold State.galleryLost
  repeat' first
    | with_reducible assumption
    | simp -zeta only [Kept.other_iff]
    | with_reducible apply State.discardRequest_kept
    | with_reducible apply State.startActivity_kept
    | with_reducible apply State.closeGallery_kept
    | (with_reducible refine Kept.foldl ?_ ?_)
    | split
    | intro _
    | extract_lets
    | simp -zeta +zetaDelta only [Kept.other_iff]

theorem State.heldLost_kept {o0 : State} (s : State) (row cw : Nat) (hk : Kept o0 s) : Kept o0 (State.heldLost s row cw) := by
  unfold State.heldLost
  repeat' first
    | with_reducible assumption
    | simp -zeta only [Kept.other_iff]
    | with_reducible apply State.dataLost_kept
    | with_reducible apply State.ueReportOf_kept
    | with_reducible apply State.ueReport_kept
    | split
    | intro _
    | extract_lets
    | simp -zeta +zetaDelta only [Kept.other_iff]

theorem State.firmwareLost_kept {o0 : State} (s : State) (hk : Kept o0 s) : Kept o0 (State.firmwareLost s) := by
  unfold State.firmwareLost
  repeat' first
    | with_reducible assumption
    | simp -zeta only [Kept.other_iff]
    | (simp -zeta only [Kept.lit_iff]; with_reducible refine KeptLit.intro ?_ ?_ ?_ ?_)
    | with_reducible exact MemStep.refl _
    | with_reducible exact SecStep.refl _
    | with_reducible rfl
    | exact rfl
    | with_reducible apply State.sendFailure_kept
    | with_reducible apply State.softReset_kept
    | split
    | intro _
    | extract_lets
    | simp -zeta +zetaDelta only [Kept.other_iff]

theorem State.stagingLost_kept {o0 : State} (s : State) (hk : Kept o0 s) : Kept o0 (State.stagingLost s) := by
  unfold State.stagingLost
  repeat' first
    | with_reducible assumption
    | simp -zeta only [Kept.other_iff]
    | with_reducible apply State.endActivity_kept
    | split
    | extract_lets
    | simp -zeta +zetaDelta only [Kept.other_iff]

theorem State.intakeLost_kept {o0 : State} (s : State) (row cw : Nat) (hk : Kept o0 s) : Kept o0 (State.intakeLost s row cw) := by
  unfold State.intakeLost
  repeat' first
    | with_reducible assumption
    | simp -zeta only [Kept.other_iff]
    | with_reducible apply State.discardStep_kept
    | split
    | intro _
    | extract_lets
    | simp -zeta +zetaDelta only [Kept.other_iff]

theorem State.mailLost_kept {o0 : State} (s : State) (n : Nat) (hk : Kept o0 s) : Kept o0 (State.mailLost s n) := by
  unfold State.mailLost
  repeat' first
    | with_reducible assumption
    | simp -zeta only [Kept.other_iff]
    | with_reducible apply State.updChan_kept
    | with_reducible apply State.ackMessage_kept
    | split
    | intro _
    | extract_lets
    | simp -zeta +zetaDelta only [Kept.other_iff]

theorem State.uncorrectable_kept {o0 : State} (s : State) (region row cw : Nat) (hk : Kept o0 s) : Kept o0 (State.uncorrectable s region row cw) := by
  unfold State.uncorrectable
  repeat' first
    | with_reducible assumption
    | simp -zeta only [Kept.other_iff]
    | with_reducible apply State.dropJournal_kept
    | with_reducible apply State.ueReportOf_kept
    | with_reducible apply State.ueReport_kept
    | with_reducible apply State.recordLost_kept
    | with_reducible apply State.catalogueLost_kept
    | with_reducible apply State.galleryLost_kept
    | with_reducible apply State.heldLost_kept
    | with_reducible apply State.firmwareLost_kept
    | with_reducible apply State.stagingLost_kept
    | with_reducible apply State.intakeLost_kept
    | with_reducible apply State.mailLost_kept
    | split
    | intro _
    | extract_lets
    | simp -zeta +zetaDelta only [Kept.other_iff]

theorem State.lapDone_kept {o0 : State} (s : State) (d : Nat) (hk : Kept o0 s) : Kept o0 (State.lapDone s d) := by
  unfold State.lapDone
  repeat' first
    | with_reducible assumption
    | simp -zeta only [Kept.other_iff]
    | with_reducible apply State.gauge_kept
    | with_reducible apply State.ledgerAdd_kept
    | with_reducible apply State.ledgerMax_kept
    | split
    | intro _
    | extract_lets
    | simp -zeta +zetaDelta only [Kept.other_iff]

theorem execScrubCodeword_kept {o0 : State} (region row codeword : Nat) (word : List Byte) (s : State) (hk : Kept o0 s) : KeptOut o0 (execScrubCodeword region row codeword word s) := by
  unfold execScrubCodeword
  repeat' first
    | with_reducible assumption
    | simp -zeta only [Kept.other_iff, KeptOut.next]
    | with_reducible apply State.corrected_kept
    | with_reducible apply State.uncorrectable_kept
    | with_reducible apply State.lapDone_kept
    | split
    | extract_lets
    | simp -zeta +zetaDelta only [Kept.other_iff]

theorem State.startScrub_kept {o0 : State} (s : State) (ds : List Dom) (seq : Option W32) (hk : Kept o0 s) : Kept o0 (State.startScrub s ds seq) := by
  unfold State.startScrub
  repeat' first
    | with_reducible assumption
    | simp -zeta only [Kept.other_iff]
    | with_reducible apply State.wake_kept
    | with_reducible apply State.startActivity_kept
    | split
    | intro _
    | extract_lets
    | simp -zeta +zetaDelta only [Kept.other_iff]

theorem execScrubWake_kept {o0 : State} (ring : Fin 8) (s : State) (hk : Kept o0 s) : KeptOut o0 (execScrubWake ring s) := by
  unfold execScrubWake
  repeat' first
    | with_reducible assumption
    | simp -zeta only [Kept.other_iff, KeptOut.next]
    | with_reducible apply clearCommand_kept
    | with_reducible apply State.startScrub_kept
    | intro _
    | extract_lets
    | simp -zeta +zetaDelta only [Kept.other_iff]

theorem execLapLate_kept {o0 : State} (dom : Dom) (s : State) (hk : Kept o0 s) : KeptOut o0 (execLapLate dom s) := by
  unfold execLapLate
  repeat' first
    | with_reducible assumption
    | simp -zeta only [Kept.other_iff, KeptOut.next]
    | with_reducible apply State.report_kept
    | with_reducible apply State.lapDone_kept
    | with_reducible apply State.startScrub_kept
    | split
    | extract_lets
    | simp -zeta +zetaDelta only [Kept.other_iff]

theorem execScrubWakeDone_kept {o0 : State} (dom : Dom) (s : State) (hk : Kept o0 s) : KeptOut o0 (execScrubWakeDone dom s) := by
  unfold execScrubWakeDone
  repeat' first
    | with_reducible assumption
    | simp -zeta only [Kept.other_iff, KeptOut.next]
    | with_reducible apply State.endActivity_kept
    | split
    | extract_lets
    | simp -zeta +zetaDelta only [Kept.other_iff]

theorem execRetireRow_kept {o0 : State} (ring : Fin 8) (s : State) (hk : Kept o0 s) : KeptOut o0 (execRetireRow ring s) := by
  unfold execRetireRow
  repeat' first
    | with_reducible assumption
    | simp -zeta only [Kept.other_iff, KeptOut.next, refuse_state, busy_state]
    | with_reducible apply Done.refuse_kept
    | with_reducible apply Done.busy_kept
    | with_reducible apply clearCommand_kept
    | with_reducible apply State.startActivity_kept
    | split
    | intro _
    | extract_lets
    | simp -zeta +zetaDelta only [Kept.other_iff]

theorem execRowRetired_kept {o0 : State} (s : State) (hk : Kept o0 s) : KeptOut o0 (execRowRetired s) := by
  unfold execRowRetired
  repeat' first
    | with_reducible assumption
    | simp -zeta only [Kept.other_iff, KeptOut.next]
    | with_reducible apply State.ledgerAdd_kept
    | with_reducible apply State.report_kept
    | with_reducible apply State.endActivity_kept
    | split
    | intro _
    | extract_lets
    | simp -zeta +zetaDelta only [Kept.other_iff]

theorem execLockstep_kept {o0 : State} (pairB : Bool) (s : State) (hk : Kept o0 s) : KeptOut o0 (execLockstep pairB s) := by
  unfold execLockstep
  repeat' first
    | with_reducible assumption
    | simp -zeta only [Kept.other_iff, KeptOut.next]
    | (simp -zeta only [Kept.lit_iff]; with_reducible refine KeptLit.intro ?_ ?_ ?_ ?_)
    | with_reducible exact MemStep.refl _
    | with_reducible exact SecStep.refl _
    | with_reducible rfl
    | exact rfl
    | with_reducible apply State.count_kept
    | with_reducible apply State.ledgerAdd_kept
    | with_reducible apply State.report_kept
    | with_reducible apply State.sendFailure_kept
    | with_reducible apply State.ownReset_kept
    | split
    | intro _
    | extract_lets
    | simp -zeta +zetaDelta only [Kept.other_iff]

theorem execComposeOverrun_kept {o0 : State} (wing : Fin 4) (s : State) (hk : Kept o0 s) : KeptOut o0 (execComposeOverrun wing s) := by
  unfold execComposeOverrun
  repeat' first
    | with_reducible assumption
    | simp -zeta only [Kept.other_iff, KeptOut.next]
    | with_reducible apply State.ownReset_kept
    | split
    | extract_lets
    | simp -zeta +zetaDelta only [Kept.other_iff]

theorem execTreeOverrun_kept {o0 : State} (tree : Nat) (s : State) (hk : Kept o0 s) : KeptOut o0 (execTreeOverrun tree s) := by
  unfold execTreeOverrun
  repeat' first
    | with_reducible assumption
    | simp -zeta only [Kept.other_iff, KeptOut.next]
    | with_reducible apply State.ownReset_kept
    | split
    | extract_lets
    | simp -zeta +zetaDelta only [Kept.other_iff]

theorem execLaneOverrun_kept {o0 : State} (lane : Nat) (s : State) (hk : Kept o0 s) : KeptOut o0 (execLaneOverrun lane s) := by
  unfold execLaneOverrun
  repeat' first
    | with_reducible assumption
    | simp -zeta only [Kept.other_iff, KeptOut.next]
    | with_reducible apply Comp.row_kept
    | with_reducible apply State.ownReset_kept
    | split
    | intro _
    | extract_lets
    | simp -zeta +zetaDelta only [Kept.other_iff]

/-! ## Registers -/

theorem State.readPair_kept {o0 : State} (s : State) (mid : Byte) (a : Nat) (hk : Kept o0 s) : Kept o0 (State.readPair s mid a).2.2 := by
  unfold State.readPair
  repeat' first
    | with_reducible assumption
    | simp -zeta only [Kept.other_iff]
    | split
    | extract_lets
    | simp -zeta +zetaDelta only [Kept.other_iff]

theorem State.readLock_kept {o0 : State} (s : State) (mid : Byte) (n : Nat) (hk : Kept o0 s) : Kept o0 (State.readLock s mid n).2.2 := by
  unfold State.readLock
  repeat' first
    | with_reducible assumption
    | simp -zeta only [Kept.other_iff]
    | with_reducible apply State.acquire_kept
    | extract_lets
    | simp -zeta +zetaDelta only [Kept.other_iff]

theorem State.readMessage_kept {o0 : State} (s : State) (mid : Byte) (a : Nat) (hk : Kept o0 s) : Kept o0 (State.readMessage s mid a).2.2 := by
  unfold State.readMessage
  repeat' first
    | with_reducible assumption
    | simp -zeta only [Kept.other_iff]
    | with_reducible apply State.logRefused_kept
    | split
    | extract_lets
    | simp -zeta +zetaDelta only [Kept.other_iff]

theorem State.readDbg_kept {o0 : State} (s : State) (a : Nat) (hk : Kept o0 s) : Kept o0 (State.readDbg s a).2.2 := by
  unfold State.readDbg
  repeat' first
    | with_reducible assumption
    | simp -zeta only [Kept.other_iff]
    | split
    | extract_lets
    | simp -zeta +zetaDelta only [Kept.other_iff]

theorem State.readDbkStatus_kept {o0 : State} (s : State) (hk : Kept o0 s) : Kept o0 (State.readDbkStatus s).2.2 := by
  unfold State.readDbkStatus
  repeat' first
    | with_reducible assumption
    | simp -zeta only [Kept.other_iff]
    | (simp -zeta only [Kept.lit_iff]; with_reducible refine KeptLit.intro ?_ ?_ ?_ ?_)
    | with_reducible exact MemStep.refl _
    | with_reducible exact SecStep.refl _
    | with_reducible rfl
    | exact rfl
    | extract_lets
    | simp -zeta +zetaDelta only [Kept.other_iff]

theorem State.readCnsStatus_kept {o0 : State} (s : State) (hk : Kept o0 s) : Kept o0 (State.readCnsStatus s).2.2 := by
  unfold State.readCnsStatus
  repeat' first
    | with_reducible assumption
    | simp -zeta only [Kept.other_iff]
    | (simp -zeta only [Kept.lit_iff]; with_reducible refine KeptLit.intro ?_ ?_ ?_ ?_)
    | with_reducible exact MemStep.refl _
    | with_reducible exact SecStep.refl _
    | with_reducible rfl
    | exact rfl
    | extract_lets
    | simp -zeta +zetaDelta only [Kept.other_iff]

theorem State.readWord_kept {o0 : State} (s : State) (mid : Byte) (a : Nat) (hk : Kept o0 s) : Kept o0 (State.readWord s mid a).2.2 := by
  unfold State.readWord
  repeat' first
    | with_reducible assumption
    | simp -zeta only [Kept.other_iff]
    | with_reducible apply State.readPair_kept
    | with_reducible apply State.readLock_kept
    | with_reducible apply State.readMessage_kept
    | with_reducible apply State.readDbg_kept
    | with_reducible apply State.readDbkStatus_kept
    | with_reducible apply State.readCnsStatus_kept
    | split
    | extract_lets
    | simp -zeta +zetaDelta only [Kept.other_iff]

theorem State.writeMask_kept {o0 : State} (s : State) (m : W16) (hk : Kept o0 s) : Kept o0 (State.writeMask s m) := by
  unfold State.writeMask
  repeat' first
    | with_reducible assumption
    | simp -zeta only [Kept.other_iff]
    | (simp -zeta only [Kept.lit_iff]; with_reducible refine KeptLit.intro ?_ ?_ ?_ ?_)
    | with_reducible exact MemStep.refl _
    | with_reducible exact SecStep.refl _
    | with_reducible rfl
    | exact rfl
    | with_reducible apply State.announce_kept
    | with_reducible apply State.withdrawMsg_kept
    | (with_reducible refine Kept.foldl ?_ ?_)
    | split
    | intro _
    | extract_lets
    | simp -zeta +zetaDelta only [Kept.other_iff]

theorem State.writePending_kept {o0 : State} (s : State) (w : Nat) (hk : Kept o0 s) : Kept o0 (State.writePending s w) := by
  unfold State.writePending
  repeat' first
    | with_reducible assumption
    | simp -zeta only [Kept.other_iff]
    | (simp -zeta only [Kept.lit_iff]; with_reducible refine KeptLit.intro ?_ ?_ ?_ ?_)
    | with_reducible exact MemStep.refl _
    | with_reducible exact SecStep.refl _
    | with_reducible rfl
    | exact rfl
    | with_reducible apply State.announce_kept
    | (with_reducible refine Kept.foldl ?_ ?_)
    | split
    | intro _
    | extract_lets
    | simp -zeta +zetaDelta only [Kept.other_iff]

theorem State.writeHalt_kept {o0 : State} (s : State) (v : Nat) (hk : Kept o0 s) : Kept o0 (State.writeHalt s v) := by
  unfold State.writeHalt
  repeat' first
    | with_reducible assumption
    | simp -zeta only [Kept.other_iff]
    | (simp -zeta only [Kept.lit_iff]; with_reducible refine KeptLit.intro ?_ ?_ ?_ ?_)
    | with_reducible exact MemStep.refl _
    | with_reducible exact SecStep.refl _
    | with_reducible rfl
    | exact rfl
    | with_reducible apply State.halt_kept
    | split
    | intro _
    | extract_lets
    | simp -zeta +zetaDelta only [Kept.other_iff]

theorem State.writeSoftReset_kept {o0 : State} (s : State) (v : Nat) (hk : Kept o0 s) : Kept o0 (State.writeSoftReset s v) := by
  unfold State.writeSoftReset
  repeat' first
    | with_reducible assumption
    | simp -zeta only [Kept.other_iff]
    | with_reducible apply State.softReset_kept
    | (with_reducible refine Kept.foldl ?_ ?_)
    | intro _
    | extract_lets
    | simp -zeta +zetaDelta only [Kept.other_iff]

theorem State.writeKpr_kept {o0 : State} (s : State) (mid : Byte) (a v : Nat) (hk : Kept o0 s) : Kept o0 (s.writeKpr mid a v).2 := by
  unfold State.writeKpr
  generalize a - 0x1000 = k
  repeat' first
    | with_reducible assumption
    | (simp -zeta only [Kept.lit_iff]; with_reducible refine KeptLit.intro ?_ ?_ ?_ ?_)
    | with_reducible exact MemStep.refl _
    | with_reducible exact SecStep.refl _
    | with_reducible rfl
    | with_reducible apply State.writeSoftReset_kept
    | with_reducible apply State.writeHalt_kept
    | with_reducible apply State.writeMask_kept
    | with_reducible apply State.writePending_kept
    | split
    | extract_lets
    | exact rfl

theorem State.writeCmdPi_kept {o0 : State} (s : State) (i v : Nat) (hk : Kept o0 s) : Kept o0 (State.writeCmdPi s i v) := by
  unfold State.writeCmdPi
  repeat' first
    | with_reducible assumption
    | simp -zeta only [Kept.other_iff]
    | with_reducible apply State.mark_kept
    | with_reducible apply State.updPair_kept
    | with_reducible apply State.wake_kept
    | split
    | intro _
    | extract_lets
    | simp -zeta +zetaDelta only [Kept.other_iff]

theorem State.writeRplCi_kept {o0 : State} (s : State) (i v : Nat) (hk : Kept o0 s) : Kept o0 (State.writeRplCi s i v) := by
  unfold State.writeRplCi
  repeat' first
    | with_reducible assumption
    | simp -zeta only [Kept.other_iff]
    | with_reducible apply State.mark_kept
    | with_reducible apply State.updPair_kept
    | split
    | intro _
    | extract_lets
    | simp -zeta +zetaDelta only [Kept.other_iff]

theorem State.writeCmdCtrl_kept {o0 : State} (s : State) (i v : Nat) (hk : Kept o0 s) : Kept o0 (State.writeCmdCtrl s i v) := by
  unfold State.writeCmdCtrl
  repeat' first
    | with_reducible assumption
    | simp -zeta only [Kept.other_iff]
    | with_reducible apply State.updPair_kept
    | intro _
    | extract_lets
    | simp -zeta +zetaDelta only [Kept.other_iff]

theorem State.writeResCi_kept {o0 : State} (s : State) (i v : Nat) (hk : Kept o0 s) : Kept o0 (State.writeResCi s i v) := by
  unfold State.writeResCi
  repeat' first
    | with_reducible assumption
    | simp -zeta only [Kept.other_iff]
    | with_reducible apply State.mark_kept
    | with_reducible apply State.updRes_kept
    | split
    | intro _
    | extract_lets
    | simp -zeta +zetaDelta only [Kept.other_iff]

theorem State.writeResCtrl_kept {o0 : State} (s : State) (i v : Nat) (hk : Kept o0 s) : Kept o0 (State.writeResCtrl s i v) := by
  unfold State.writeResCtrl
  repeat' first
    | with_reducible assumption
    | simp -zeta only [Kept.other_iff]
    | with_reducible apply State.updRes_kept
    | intro _
    | extract_lets
    | simp -zeta +zetaDelta only [Kept.other_iff]

theorem State.writeDbl_kept {o0 : State} (s : State) (a v : Nat) (hk : Kept o0 s) : Kept o0 (State.writeDbl s a v) := by
  unfold State.writeDbl
  repeat' first
    | with_reducible assumption
    | simp -zeta only [Kept.other_iff]
    | with_reducible apply State.writeCmdPi_kept
    | with_reducible apply State.writeRplCi_kept
    | with_reducible apply State.writeCmdCtrl_kept
    | with_reducible apply State.writeResCi_kept
    | with_reducible apply State.writeResCtrl_kept
    | split
    | extract_lets
    | simp -zeta +zetaDelta only [Kept.other_iff]

theorem State.writeMessage_kept {o0 : State} (s : State) (mid : Byte) (a v : Nat) (hk : Kept o0 s) : Kept o0 (State.writeMessage s mid a v).2 := by
  unfold State.writeMessage
  repeat' first
    | with_reducible assumption
    | simp -zeta only [Kept.other_iff]
    | with_reducible apply State.logRefused_kept
    | with_reducible apply State.stageWord_kept
    | with_reducible apply State.postMessage_kept
    | with_reducible apply State.keeperMail_kept
    | split
    | extract_lets
    | simp -zeta +zetaDelta only [Kept.other_iff]

theorem State.writeAck_kept {o0 : State} (s : State) (mid : Byte) (a v : Nat) (hk : Kept o0 s) : Kept o0 (State.writeAck s mid a v).2 := by
  unfold State.writeAck
  repeat' first
    | with_reducible assumption
    | simp -zeta only [Kept.other_iff]
    | with_reducible apply State.logRefused_kept
    | with_reducible apply State.writeAckReg_kept
    | split
    | extract_lets
    | simp -zeta +zetaDelta only [Kept.other_iff]

theorem State.writeChanStatus_kept {o0 : State} (s : State) (mid : Byte) (n v : Nat) (hk : Kept o0 s) : Kept o0 (State.writeChanStatus s mid n v) := by
  unfold State.writeChanStatus
  repeat' first
    | with_reducible assumption
    | simp -zeta only [Kept.other_iff]
    | with_reducible apply State.updChan_kept
    | intro _
    | extract_lets
    | simp -zeta +zetaDelta only [Kept.other_iff]

theorem State.writeEpochReg_kept {o0 : State} (s : State) (mid : Byte) (i v : Nat) (hk : Kept o0 s) : Kept o0 (State.writeEpochReg s mid i v).2 := by
  unfold State.writeEpochReg
  repeat' first
    | with_reducible assumption
    | simp -zeta only [Kept.other_iff]
    | with_reducible apply State.writeEpoch_kept
    | split
    | extract_lets
    | simp -zeta +zetaDelta only [Kept.other_iff]

theorem State.writeMbx_kept {o0 : State} (s : State) (mid : Byte) (a v : Nat) (hk : Kept o0 s) : Kept o0 (State.writeMbx s mid a v).2 := by
  unfold State.writeMbx
  repeat' first
    | with_reducible assumption
    | simp -zeta only [Kept.other_iff]
    | with_reducible apply State.release_kept
    | with_reducible apply State.writeMessage_kept
    | with_reducible apply State.writeAck_kept
    | with_reducible apply State.writeChanStatus_kept
    | with_reducible apply State.writeEpochReg_kept
    | split
    | extract_lets
    | simp -zeta +zetaDelta only [Kept.other_iff]

theorem State.writeTrace_kept {o0 : State} (s : State) (v : Nat) (hk : Kept o0 s) : Kept o0 (State.writeTrace s v) := by
  unfold State.writeTrace
  repeat' first
    | with_reducible assumption
    | simp -zeta only [Kept.other_iff]
    | with_reducible apply State.traceSync_kept
    | with_reducible apply State.wake_kept
    | split
    | extract_lets
    | simp -zeta +zetaDelta only [Kept.other_iff]

theorem State.writeCnt_kept {o0 : State} (s : State) (a v : Nat) (hk : Kept o0 s) : Kept o0 (State.writeCnt s a v) := by
  unfold State.writeCnt
  repeat' first
    | with_reducible assumption
    | simp -zeta only [Kept.other_iff]
    | with_reducible apply State.writeTrace_kept
    | split
    | extract_lets
    | simp -zeta +zetaDelta only [Kept.other_iff]

theorem State.writeDbk_kept {o0 : State} (s : State) (a v : Nat) (hk : Kept o0 s) : Kept o0 (State.writeDbk s a v) := by
  unfold State.writeDbk
  repeat' first
    | with_reducible assumption
    | simp -zeta only [Kept.other_iff]
    | with_reducible apply State.markIf_kept
    | split
    | extract_lets
    | simp -zeta +zetaDelta only [Kept.other_iff]

theorem State.writeCns_kept {o0 : State} (s : State) (a v : Nat) (hk : Kept o0 s) : Kept o0 (State.writeCns s a v) := by
  unfold State.writeCns
  repeat' first
    | with_reducible assumption
    | simp -zeta only [Kept.other_iff]
    | with_reducible apply State.markIf_kept
    | split
    | extract_lets
    | simp -zeta +zetaDelta only [Kept.other_iff]

theorem State.writeDbg_kept {o0 : State} (s : State) (a v : Nat) (hk : Kept o0 s) : Kept o0 (State.writeDbg s a v).2 := by
  unfold State.writeDbg
  repeat' first
    | with_reducible assumption
    | simp -zeta only [Kept.other_iff]
    | (simp -zeta only [Kept.lit_iff]; with_reducible refine KeptLit.intro ?_ ?_ ?_ ?_)
    | with_reducible exact MemStep.refl _
    | with_reducible exact SecStep.refl _
    | with_reducible rfl
    | with_reducible exact SecStep.wrote _ _
    | with_reducible exact SecStep.other _ _ _ _ _ _ _
    | with_reducible exact SecStep.locked _ _ _ _ _ _ _
    | split
    | extract_lets
    | simp -zeta +zetaDelta only [Kept.other_iff]

theorem State.writeWord_kept {o0 : State} (s : State) (mid : Byte) (a v : Nat) (hk : Kept o0 s) : Kept o0 (State.writeWord s mid a v).2 := by
  unfold State.writeWord
  repeat' first
    | with_reducible assumption
    | simp -zeta only [Kept.other_iff]
    | with_reducible apply State.release_kept
    | with_reducible apply State.writeKpr_kept
    | with_reducible apply State.writeDbl_kept
    | with_reducible apply State.writeMbx_kept
    | with_reducible apply State.writeCnt_kept
    | with_reducible apply State.writeDbk_kept
    | with_reducible apply State.writeCns_kept
    | with_reducible apply State.writeDbg_kept
    | split
    | extract_lets
    | simp -zeta +zetaDelta only [Kept.other_iff]

end Sys2Proof.Machine
end

