-- ==== Sys2Proof/Laws/Kept5.lean ====
section
/-! SUPPORT. `Kept` of each operation and meaning of Machine/Access, Pair, Security.lean. -/

set_option linter.unusedSimpArgs false

namespace Sys2Proof.Machine

open Sys2Proof.Bytes

/-! ## Access -/

theorem State.writeAt_kept {o0 : State} (s : State) (mid : Byte) (a : Nat) (data : List Byte) (hk : Kept o0 s) : Kept o0 (State.writeAt s mid a data).2 := by
  unfold State.writeAt
  repeat' first
    | with_reducible assumption
    | simp -zeta only [Kept.other_iff]
    | (simp -zeta only [Kept.lit_iff]; with_reducible refine KeptLit.intro ?_ ?_ ?_ ?_)
    | with_reducible exact MemStep.refl _
    | with_reducible exact SecStep.refl _
    | with_reducible rfl
    | with_reducible exact MemStep.write _ _ _
    | with_reducible exact MemStep.clear _ _ _
    | with_reducible exact MemStep.reply _ _ _ _
    | with_reducible exact MemStep.filter _ _
    | with_reducible exact SecStep.wrote _ _
    | with_reducible exact SecStep.other _ _ _ _ _ _ _
    | with_reducible exact SecStep.locked _ _ _ _ _ _ _
    | with_reducible apply State.wrote_kept
    | with_reducible apply State.writeWord_kept
    | split
    | extract_lets
    | simp -zeta +zetaDelta only [Kept.other_iff]

theorem State.readAt_kept {o0 : State} (s : State) (mid : Byte) (a n : Nat) (hk : Kept o0 s) : Kept o0 (State.readAt s mid a n).2.2 := by
  unfold State.readAt
  repeat' first
    | with_reducible assumption
    | simp -zeta only [Kept.other_iff]
    | with_reducible apply State.readWord_kept
    | split
    | extract_lets
    | simp -zeta +zetaDelta only [Kept.other_iff]

theorem State.refuseAccess_kept {o0 : State} (s : State) (mid : Byte) (write : Bool) (n : Nat) (hk : Kept o0 s) : Kept o0 (State.refuseAccess s mid write n) := by
  unfold State.refuseAccess
  repeat' first
    | with_reducible assumption
    | simp -zeta only [Kept.other_iff]
    | with_reducible apply State.respond_kept
    | split
    | extract_lets
    | simp -zeta +zetaDelta only [Kept.other_iff]

theorem State.perform_kept {o0 : State} (s : State) (mid : Byte) (write : Bool) (a : Nat) (data : List Byte) (hk : Kept o0 s) : Kept o0 (State.perform s mid write a data) := by
  unfold State.perform
  repeat' first
    | with_reducible assumption
    | simp -zeta only [Kept.other_iff]
    | with_reducible apply State.respond_kept
    | with_reducible apply State.writeAt_kept
    | with_reducible apply State.readAt_kept
    | split
    | extract_lets
    | simp -zeta +zetaDelta only [Kept.other_iff]

theorem State.hifAccess_kept {o0 : State} (s : State) (mid : Byte) (write : Bool) (a : Nat) (data : List Byte) (hk : Kept o0 s) : Kept o0 (State.hifAccess s mid write a data) := by
  unfold State.hifAccess
  repeat' first
    | with_reducible assumption
    | simp -zeta only [Kept.other_iff, refuse_state, busy_state]
    | with_reducible apply State.wake_kept
    | with_reducible apply State.refuseAccess_kept
    | with_reducible apply State.perform_kept
    | split
    | intro _
    | extract_lets
    | simp -zeta +zetaDelta only [Kept.other_iff]

theorem State.access_kept {o0 : State} (s : State) (port : Port) (mid : Byte) (write : Bool) (a : Nat) (data : List Byte) (hk : Kept o0 s) : Kept o0 (State.access s port mid write a data) := by
  unfold State.access
  repeat' first
    | with_reducible assumption
    | simp -zeta only [Kept.other_iff, refuse_state, busy_state]
    | with_reducible apply State.logRefused_kept
    | with_reducible apply State.refuseAccess_kept
    | with_reducible apply State.hifAccess_kept
    | split
    | extract_lets
    | simp -zeta +zetaDelta only [Kept.other_iff]

theorem State.completeHeld_kept {o0 : State} (s : State) (hk : Kept o0 s) : Kept o0 (State.completeHeld s) := by
  unfold State.completeHeld
  repeat' first
    | with_reducible assumption
    | simp -zeta only [Kept.other_iff]
    | with_reducible apply State.hifAccess_kept
    | (with_reducible refine Kept.foldl ?_ ?_)
    | split
    | intro _
    | extract_lets
    | simp -zeta +zetaDelta only [Kept.other_iff]

theorem State.write4_kept {o0 : State} (s : State) (port : Port) (mid : Byte) (a : Nat) (v : W32) (hk : Kept o0 s) : Kept o0 (State.write4 s port mid a v) := by
  unfold State.write4
  repeat' first
    | with_reducible assumption
    | simp -zeta only [Kept.other_iff]
    | with_reducible apply State.access_kept
    | extract_lets
    | simp -zeta +zetaDelta only [Kept.other_iff]

theorem State.read4_kept {o0 : State} (s : State) (port : Port) (mid : Byte) (a : Nat) (hk : Kept o0 s) : Kept o0 (State.read4 s port mid a) := by
  unfold State.read4
  repeat' first
    | with_reducible assumption
    | simp -zeta only [Kept.other_iff]
    | with_reducible apply State.access_kept
    | extract_lets
    | simp -zeta +zetaDelta only [Kept.other_iff]

theorem execDoorbell_kept {o0 : State} (mid : Byte) (ring : Fin 8) (value : W32) (s : State) (hk : Kept o0 s) : KeptOut o0 (execDoorbell mid ring value s) := by
  unfold execDoorbell
  repeat' first
    | with_reducible assumption
    | simp -zeta only [Kept.other_iff, KeptOut.next]
    | with_reducible apply State.write4_kept
    | extract_lets
    | simp -zeta +zetaDelta only [Kept.other_iff]

theorem execDblRplCi_kept {o0 : State} (mid : Byte) (ring : Fin 8) (value : W32) (s : State) (hk : Kept o0 s) : KeptOut o0 (execDblRplCi mid ring value s) := by
  unfold execDblRplCi
  repeat' first
    | with_reducible assumption
    | simp -zeta only [Kept.other_iff, KeptOut.next]
    | with_reducible apply State.write4_kept
    | extract_lets
    | simp -zeta +zetaDelta only [Kept.other_iff]

theorem execRingPairReset_kept {o0 : State} (mid : Byte) (ring : Fin 8) (value : W32) (s : State) (hk : Kept o0 s) : KeptOut o0 (execRingPairReset mid ring value s) := by
  unfold execRingPairReset
  repeat' first
    | with_reducible assumption
    | simp -zeta only [Kept.other_iff, KeptOut.next]
    | with_reducible apply State.write4_kept
    | extract_lets
    | simp -zeta +zetaDelta only [Kept.other_iff]

theorem execRingPairResetComplete_kept {o0 : State} (ring : Fin 8) (s : State) (hk : Kept o0 s) : KeptOut o0 (execRingPairResetComplete ring s) := by
  unfold execRingPairResetComplete
  repeat' first
    | with_reducible assumption
    | simp -zeta only [Kept.other_iff, KeptOut.next]
    | (simp -zeta only [Kept.lit_iff]; with_reducible refine KeptLit.intro ?_ ?_ ?_ ?_)
    | with_reducible exact MemStep.refl _
    | with_reducible exact SecStep.refl _
    | with_reducible rfl
    | with_reducible exact MemStep.write _ _ _
    | with_reducible exact MemStep.clear _ _ _
    | with_reducible exact MemStep.reply _ _ _ _
    | with_reducible exact MemStep.filter _ _
    | with_reducible apply State.updPair_kept
    | split
    | intro _
    | extract_lets
    | simp -zeta +zetaDelta only [Kept.other_iff]

theorem execDblResCi_kept {o0 : State} (mid : Byte) (ring : Fin 8) (value : W32) (s : State) (hk : Kept o0 s) : KeptOut o0 (execDblResCi mid ring value s) := by
  unfold execDblResCi
  repeat' first
    | with_reducible assumption
    | simp -zeta only [Kept.other_iff, KeptOut.next]
    | with_reducible apply State.write4_kept
    | extract_lets
    | simp -zeta +zetaDelta only [Kept.other_iff]

theorem execRingReset_kept {o0 : State} (mid : Byte) (ring : Fin 8) (value : W32) (s : State) (hk : Kept o0 s) : KeptOut o0 (execRingReset mid ring value s) := by
  unfold execRingReset
  repeat' first
    | with_reducible assumption
    | simp -zeta only [Kept.other_iff, KeptOut.next]
    | with_reducible apply State.write4_kept
    | extract_lets
    | simp -zeta +zetaDelta only [Kept.other_iff]

theorem execRingResetComplete_kept {o0 : State} (ring : Fin 8) (s : State) (hk : Kept o0 s) : KeptOut o0 (execRingResetComplete ring s) := by
  unfold execRingResetComplete
  repeat' first
    | with_reducible assumption
    | simp -zeta only [Kept.other_iff, KeptOut.next]
    | (simp -zeta only [Kept.lit_iff]; with_reducible refine KeptLit.intro ?_ ?_ ?_ ?_)
    | with_reducible exact MemStep.refl _
    | with_reducible exact SecStep.refl _
    | with_reducible rfl
    | with_reducible exact MemStep.write _ _ _
    | with_reducible exact MemStep.clear _ _ _
    | with_reducible exact MemStep.reply _ _ _ _
    | with_reducible exact MemStep.filter _ _
    | with_reducible apply State.updRes_kept
    | with_reducible apply State.event_kept
    | split
    | intro _
    | extract_lets
    | simp -zeta +zetaDelta only [Kept.other_iff]

theorem execCnsCi_kept {o0 : State} (mid : Byte) (value : W32) (s : State) (hk : Kept o0 s) : KeptOut o0 (execCnsCi mid value s) := by
  unfold execCnsCi
  repeat' first
    | with_reducible assumption
    | simp -zeta only [Kept.other_iff, KeptOut.next]
    | with_reducible apply State.write4_kept
    | extract_lets
    | simp -zeta +zetaDelta only [Kept.other_iff]

theorem execDbkCi_kept {o0 : State} (mid : Byte) (value : W32) (s : State) (hk : Kept o0 s) : KeptOut o0 (execDbkCi mid value s) := by
  unfold execDbkCi
  repeat' first
    | with_reducible assumption
    | simp -zeta only [Kept.other_iff, KeptOut.next]
    | with_reducible apply State.write4_kept
    | extract_lets
    | simp -zeta +zetaDelta only [Kept.other_iff]

theorem execReadClear_kept {o0 : State} (mid : Byte) (addr : Nat) (s : State) (hk : Kept o0 s) : KeptOut o0 (execReadClear mid addr s) := by
  unfold execReadClear
  repeat' first
    | with_reducible assumption
    | simp -zeta only [Kept.other_iff, KeptOut.next]
    | with_reducible apply State.read4_kept
    | extract_lets
    | simp -zeta +zetaDelta only [Kept.other_iff]

theorem execDomainSoftReset_kept {o0 : State} (mid : Byte) (value : W32) (s : State) (hk : Kept o0 s) : KeptOut o0 (execDomainSoftReset mid value s) := by
  unfold execDomainSoftReset
  repeat' first
    | with_reducible assumption
    | simp -zeta only [Kept.other_iff, KeptOut.next]
    | with_reducible apply State.write4_kept
    | extract_lets
    | simp -zeta +zetaDelta only [Kept.other_iff]

theorem execHardHalt_kept {o0 : State} (mid : Byte) (value : W32) (s : State) (hk : Kept o0 s) : KeptOut o0 (execHardHalt mid value s) := by
  unfold execHardHalt
  repeat' first
    | with_reducible assumption
    | simp -zeta only [Kept.other_iff, KeptOut.next]
    | with_reducible apply State.write4_kept
    | extract_lets
    | simp -zeta +zetaDelta only [Kept.other_iff]

theorem execIrqMaskWrite_kept {o0 : State} (mid : Byte) (value : W32) (s : State) (hk : Kept o0 s) : KeptOut o0 (execIrqMaskWrite mid value s) := by
  unfold execIrqMaskWrite
  repeat' first
    | with_reducible assumption
    | simp -zeta only [Kept.other_iff, KeptOut.next]
    | with_reducible apply State.write4_kept
    | extract_lets
    | simp -zeta +zetaDelta only [Kept.other_iff]

theorem execIrqAck_kept {o0 : State} (s : State) (hk : Kept o0 s) : KeptOut o0 (execIrqAck s) := by
  unfold execIrqAck
  repeat' first
    | with_reducible assumption
    | simp -zeta only [Kept.other_iff, KeptOut.next]
    | (simp -zeta only [Kept.lit_iff]; with_reducible refine KeptLit.intro ?_ ?_ ?_ ?_)
    | with_reducible exact MemStep.refl _
    | with_reducible exact SecStep.refl _
    | with_reducible rfl
    | exact rfl
    | with_reducible apply State.nextMsg_kept
    | split
    | extract_lets
    | simp -zeta +zetaDelta only [Kept.other_iff]

theorem execPost_kept {o0 : State} (port : Port) (mid : Byte) (chan : Fin 32) (value : W32) (s : State) (hk : Kept o0 s) : KeptOut o0 (execPost port mid chan value s) := by
  unfold execPost
  repeat' first
    | with_reducible assumption
    | simp -zeta only [Kept.other_iff, KeptOut.next]
    | with_reducible apply State.write4_kept
    | extract_lets
    | simp -zeta +zetaDelta only [Kept.other_iff]

theorem execMbxAck_kept {o0 : State} (port : Port) (mid : Byte) (chan : Fin 32) (value : W32) (s : State) (hk : Kept o0 s) : KeptOut o0 (execMbxAck port mid chan value s) := by
  unfold execMbxAck
  repeat' first
    | with_reducible assumption
    | simp -zeta only [Kept.other_iff, KeptOut.next]
    | with_reducible apply State.write4_kept
    | extract_lets
    | simp -zeta +zetaDelta only [Kept.other_iff]

theorem execMbxEpoch_kept {o0 : State} (port : Port) (mid : Byte) (index : Fin 7) (value : W32) (s : State) (hk : Kept o0 s) : KeptOut o0 (execMbxEpoch port mid index value s) := by
  unfold execMbxEpoch
  repeat' first
    | with_reducible assumption
    | simp -zeta only [Kept.other_iff, KeptOut.next]
    | with_reducible apply State.write4_kept
    | extract_lets
    | simp -zeta +zetaDelta only [Kept.other_iff]

theorem execLockAcquire_kept {o0 : State} (port : Port) (mid : Byte) (lock : Fin 64) (s : State) (hk : Kept o0 s) : KeptOut o0 (execLockAcquire port mid lock s) := by
  unfold execLockAcquire
  repeat' first
    | with_reducible assumption
    | simp -zeta only [Kept.other_iff, KeptOut.next]
    | with_reducible apply State.read4_kept
    | extract_lets
    | simp -zeta +zetaDelta only [Kept.other_iff]

theorem execLockRelease_kept {o0 : State} (port : Port) (mid : Byte) (lock : Fin 64) (value : W32) (s : State) (hk : Kept o0 s) : KeptOut o0 (execLockRelease port mid lock value s) := by
  unfold execLockRelease
  repeat' first
    | with_reducible assumption
    | simp -zeta only [Kept.other_iff, KeptOut.next]
    | with_reducible apply State.write4_kept
    | extract_lets
    | simp -zeta +zetaDelta only [Kept.other_iff]

theorem execLowWordRead_kept {o0 : State} (mid : Byte) (addr : Nat) (s : State) (hk : Kept o0 s) : KeptOut o0 (execLowWordRead mid addr s) := by
  unfold execLowWordRead
  repeat' first
    | with_reducible assumption
    | simp -zeta only [Kept.other_iff, KeptOut.next]
    | with_reducible apply State.read4_kept
    | extract_lets
    | simp -zeta +zetaDelta only [Kept.other_iff]

theorem execHighWordRead_kept {o0 : State} (mid : Byte) (addr : Nat) (s : State) (hk : Kept o0 s) : KeptOut o0 (execHighWordRead mid addr s) := by
  unfold execHighWordRead
  repeat' first
    | with_reducible assumption
    | simp -zeta only [Kept.other_iff, KeptOut.next]
    | with_reducible apply State.read4_kept
    | extract_lets
    | simp -zeta +zetaDelta only [Kept.other_iff]

theorem execRegisterWrite_kept {o0 : State} (port : Port) (mid : Byte) (addr : Nat) (data : List Byte) (s : State) (hk : Kept o0 s) : KeptOut o0 (execRegisterWrite port mid addr data s) := by
  unfold execRegisterWrite
  repeat' first
    | with_reducible assumption
    | simp -zeta only [Kept.other_iff, KeptOut.next]
    | with_reducible apply State.access_kept
    | extract_lets
    | simp -zeta +zetaDelta only [Kept.other_iff]

theorem execAccessRefused_kept {o0 : State} (port : Port) (mid : Byte) (write : Bool) (addr : Nat) (data : List Byte) (s : State) (hk : Kept o0 s) : KeptOut o0 (execAccessRefused port mid write addr data s) := by
  unfold execAccessRefused
  repeat' first
    | with_reducible assumption
    | simp -zeta only [Kept.other_iff, KeptOut.next]
    | with_reducible apply State.access_kept
    | extract_lets
    | simp -zeta +zetaDelta only [Kept.other_iff]

theorem execHifAccessWake_kept {o0 : State} (mid : Byte) (write : Bool) (addr : Nat) (data : List Byte) (s : State) (hk : Kept o0 s) : KeptOut o0 (execHifAccessWake mid write addr data s) := by
  unfold execHifAccessWake
  repeat' first
    | with_reducible assumption
    | simp -zeta only [Kept.other_iff, KeptOut.next]
    | with_reducible apply State.access_kept
    | extract_lets
    | simp -zeta +zetaDelta only [Kept.other_iff]

theorem execBadOpcode_kept {o0 : State} (ring : Fin 8) (s : State) (hk : Kept o0 s) : KeptOut o0 (execBadOpcode ring s) := by
  unfold execBadOpcode
  repeat' first
    | with_reducible assumption
    | simp -zeta only [Kept.other_iff, KeptOut.next]
    | with_reducible apply badOpcodeCommand_kept
    | extract_lets
    | simp -zeta +zetaDelta only [Kept.other_iff]

/-! ## Pair -/

theorem State.cover_kept {o0 : State} (s : State) (hk : Kept o0 s) : Kept o0 (State.cover s) := by
  unfold State.cover
  repeat' first
    | with_reducible assumption
    | simp -zeta only [Kept.other_iff]
    | with_reducible apply State.mapReqs_kept
    | split
    | intro _
    | extract_lets
    | simp -zeta +zetaDelta only [Kept.other_iff]

theorem State.sendHandbacks_kept {o0 : State} (s : State) (hk : Kept o0 s) : Kept o0 (State.sendHandbacks s) := by
  unfold State.sendHandbacks
  repeat' first
    | with_reducible assumption
    | simp -zeta only [Kept.other_iff]
    | with_reducible apply State.count_kept
    | with_reducible apply State.ledgerAdd_kept
    | with_reducible apply State.sendFrame_kept
    | (with_reducible refine Kept.foldl ?_ ?_)
    | split
    | intro _
    | extract_lets
    | simp -zeta +zetaDelta only [Kept.other_iff]

theorem State.toMirror_kept {o0 : State} (s : State) (acc : Nat) (hk : Kept o0 s) : Kept o0 (State.toMirror s acc) := by
  unfold State.toMirror
  repeat' first
    | with_reducible assumption
    | simp -zeta only [Kept.other_iff]
    | split
    | intro _
    | extract_lets
    | simp -zeta +zetaDelta only [Kept.other_iff]

theorem State.endHandbacks_kept {o0 : State} (s : State) (hk : Kept o0 s) : Kept o0 (State.endHandbacks s) := by
  unfold State.endHandbacks
  repeat' first
    | with_reducible assumption
    | simp -zeta only [Kept.other_iff]
    | with_reducible apply State.toMirror_kept
    | (with_reducible refine Kept.foldl ?_ ?_)
    | intro _
    | extract_lets
    | simp -zeta +zetaDelta only [Kept.other_iff]

theorem State.joinStep_kept {o0 : State} (s : State) (hk : Kept o0 s) : Kept o0 (State.joinStep s) := by
  unfold State.joinStep
  repeat' first
    | with_reducible assumption
    | simp -zeta only [Kept.other_iff]
    | with_reducible apply State.flushReplies_kept
    | with_reducible apply State.setPair_kept
    | with_reducible apply State.endActivity_kept
    | split
    | extract_lets
    | simp -zeta +zetaDelta only [Kept.other_iff]

theorem State.pairProgress_kept {o0 : State} (s : State) (hk : Kept o0 s) : Kept o0 (State.pairProgress s) := by
  unfold State.pairProgress
  repeat' first
    | with_reducible assumption
    | simp -zeta only [Kept.other_iff]
    | with_reducible apply State.flushReplies_kept
    | with_reducible apply State.fencedActivities_kept
    | with_reducible apply State.cover_kept
    | with_reducible apply State.sendHandbacks_kept
    | with_reducible apply State.endHandbacks_kept
    | with_reducible apply State.joinStep_kept
    | extract_lets
    | simp -zeta +zetaDelta only [Kept.other_iff]

theorem State.startJoin_kept {o0 : State} (s : State) (seq : Option W32) (hk : Kept o0 s) : Kept o0 (State.startJoin s seq) := by
  unfold State.startJoin
  repeat' first
    | with_reducible assumption
    | simp -zeta only [Kept.other_iff]
    | (simp -zeta only [Kept.lit_iff]; with_reducible refine KeptLit.intro ?_ ?_ ?_ ?_)
    | with_reducible exact MemStep.refl _
    | with_reducible exact SecStep.refl _
    | with_reducible rfl
    | with_reducible apply State.drawn_kept
    | with_reducible apply State.setPair_kept
    | with_reducible apply State.sendFrame_kept
    | with_reducible apply State.startActivity_kept
    | extract_lets
    | simp -zeta +zetaDelta only [Kept.other_iff]

theorem State.failJoin_kept {o0 : State} (s : State) (status : Nat) (hk : Kept o0 s) : Kept o0 (State.failJoin s status) := by
  unfold State.failJoin
  repeat' first
    | with_reducible assumption
    | simp -zeta only [Kept.other_iff]
    | with_reducible apply State.flushReplies_kept
    | with_reducible apply State.setPair_kept
    | with_reducible apply State.endSession_kept
    | with_reducible apply State.endActivity_kept
    | split
    | extract_lets
    | simp -zeta +zetaDelta only [Kept.other_iff]

theorem State.tellAids_kept {o0 : State} (s : State) (g : Nat) (hk : Kept o0 s) : Kept o0 (State.tellAids s g) := by
  unfold State.tellAids
  repeat' first
    | with_reducible assumption
    | simp -zeta only [Kept.other_iff]
    | with_reducible apply State.sendFrame_kept
    | with_reducible apply State.markTold_kept
    | (with_reducible refine Kept.foldl ?_ ?_)
    | intro _
    | extract_lets
    | simp -zeta +zetaDelta only [Kept.other_iff]

theorem State.tellGallery_kept {o0 : State} (s : State) (g : Nat) (hk : Kept o0 s) : Kept o0 (State.tellGallery s g) := by
  unfold State.tellGallery
  repeat' first
    | with_reducible assumption
    | simp -zeta only [Kept.other_iff]
    | with_reducible apply State.updGal_kept
    | with_reducible apply State.sendFrame_kept
    | with_reducible apply State.tellAids_kept
    | split
    | intro _
    | extract_lets
    | simp -zeta +zetaDelta only [Kept.other_iff]

theorem State.tellActs_kept {o0 : State} (s : State) (g : Nat) (hk : Kept o0 s) : Kept o0 (State.tellActs s g) := by
  unfold State.tellActs
  repeat' first
    | with_reducible assumption
    | simp -zeta only [Kept.other_iff]
    | with_reducible apply State.updGal_kept
    | with_reducible apply State.sendFrame_kept
    | with_reducible apply State.tellAids_kept
    | (with_reducible refine Kept.foldl ?_ ?_)
    | intro _
    | extract_lets
    | simp -zeta +zetaDelta only [Kept.other_iff]

theorem State.tellClose_kept {o0 : State} (s : State) (g gen : Nat) (hk : Kept o0 s) : Kept o0 (State.tellClose s g gen) := by
  unfold State.tellClose
  repeat' first
    | with_reducible assumption
    | simp -zeta only [Kept.other_iff]
    | with_reducible apply State.sendFrame_kept
    | split
    | extract_lets
    | simp -zeta +zetaDelta only [Kept.other_iff]

theorem State.sendBulk_kept {o0 : State} (s : State) (r : Req) (hk : Kept o0 s) : Kept o0 (State.sendBulk s r) := by
  unfold State.sendBulk
  repeat' first
    | with_reducible assumption
    | simp -zeta only [Kept.other_iff]
    | with_reducible apply State.sendFrame_kept
    | with_reducible apply State.accession_kept
    | with_reducible apply State.updRec_kept
    | (with_reducible refine Kept.foldl ?_ ?_)
    | intro _
    | extract_lets
    | simp -zeta +zetaDelta only [Kept.other_iff]

theorem State.beginSession_kept {o0 : State} (s : State) (h : Hello) (fseq : Nat) (hk : Kept o0 s) : Kept o0 (State.beginSession s h fseq) := by
  unfold State.beginSession
  repeat' first
    | with_reducible assumption
    | simp -zeta only [Kept.other_iff]
    | with_reducible apply State.sendFrame_kept
    | with_reducible apply State.mapReqs_kept
    | with_reducible apply State.mapPage_kept
    | with_reducible apply State.pairProgress_kept
    | with_reducible apply State.tellGallery_kept
    | with_reducible apply State.tellActs_kept
    | with_reducible apply State.tellClose_kept
    | with_reducible apply State.sendBulk_kept
    | (with_reducible refine Kept.foldl ?_ ?_)
    | split
    | intro _
    | extract_lets
    | simp -zeta +zetaDelta only [Kept.other_iff]

theorem State.meet_kept {o0 : State} (s : State) (hk : Kept o0 s) : Kept o0 (State.meet s) := by
  unfold State.meet
  repeat' first
    | with_reducible assumption
    | simp -zeta only [Kept.other_iff]
    | with_reducible apply State.failJoin_kept
    | with_reducible apply State.beginSession_kept
    | split
    | extract_lets
    | simp -zeta +zetaDelta only [Kept.other_iff]

theorem State.joinCommand_kept {o0 : State} (s : State) (hk : Kept o0 s) : Kept o0 (State.joinCommand s).state := by
  unfold State.joinCommand
  repeat' first
    | with_reducible assumption
    | simp -zeta only [Kept.other_iff, refuse_state, busy_state]
    | with_reducible apply Done.refuse_kept
    | with_reducible apply Done.busy_kept
    | with_reducible apply State.startJoin_kept
    | with_reducible apply State.meet_kept
    | split
    | extract_lets
    | simp -zeta +zetaDelta only [Kept.other_iff]

theorem execPairJoin_kept {o0 : State} (ring : Fin 8) (s : State) (hk : Kept o0 s) : KeptOut o0 (execPairJoin ring s) := by
  unfold execPairJoin
  repeat' first
    | with_reducible assumption
    | simp -zeta only [Kept.other_iff, KeptOut.next]
    | with_reducible apply clearCommand_kept
    | with_reducible apply State.joinCommand_kept
    | intro _
    | extract_lets
    | simp -zeta +zetaDelta only [Kept.other_iff]

theorem execPairResync_kept {o0 : State} (ring : Fin 8) (s : State) (hk : Kept o0 s) : KeptOut o0 (execPairResync ring s) := by
  unfold execPairResync
  repeat' first
    | with_reducible assumption
    | simp -zeta only [Kept.other_iff, KeptOut.next, refuse_state, busy_state]
    | with_reducible apply Done.refuse_kept
    | with_reducible apply clearCommand_kept
    | with_reducible apply State.joinCommand_kept
    | split
    | intro _
    | extract_lets
    | simp -zeta +zetaDelta only [Kept.other_iff]

theorem execHelloTimeout_kept {o0 : State} (s : State) (hk : Kept o0 s) : KeptOut o0 (execHelloTimeout s) := by
  unfold execHelloTimeout
  repeat' first
    | with_reducible assumption
    | simp -zeta only [Kept.other_iff, KeptOut.next]
    | with_reducible apply State.failJoin_kept
    | split
    | extract_lets
    | simp -zeta +zetaDelta only [Kept.other_iff]

theorem State.enterYielded_kept {o0 : State} (s : State) (hk : Kept o0 s) : Kept o0 (State.enterYielded s) := by
  unfold State.enterYielded
  repeat' first
    | with_reducible assumption
    | simp -zeta only [Kept.other_iff]
    | with_reducible apply State.flushReplies_kept
    | with_reducible apply State.setPair_kept
    | with_reducible apply State.endSession_kept
    | with_reducible apply State.askDeaccession_kept
    | with_reducible apply State.endActivity_kept
    | (with_reducible refine Kept.foldl ?_ ?_)
    | split
    | intro _
    | extract_lets
    | simp -zeta +zetaDelta only [Kept.other_iff]

theorem execPairYield_kept {o0 : State} (ring : Fin 8) (s : State) (hk : Kept o0 s) : KeptOut o0 (execPairYield ring s) := by
  unfold execPairYield
  repeat' first
    | with_reducible assumption
    | simp -zeta only [Kept.other_iff, KeptOut.next, refuse_state, busy_state]
    | with_reducible apply Done.refuse_kept
    | with_reducible apply clearCommand_kept
    | with_reducible apply State.enterYielded_kept
    | split
    | intro _
    | extract_lets
    | simp -zeta +zetaDelta only [Kept.other_iff]

theorem execPairStatus_kept {o0 : State} (ring : Fin 8) (s : State) (hk : Kept o0 s) : KeptOut o0 (execPairStatus ring s) := by
  unfold execPairStatus
  repeat' first
    | with_reducible assumption
    | simp -zeta only [Kept.other_iff, KeptOut.next]
    | with_reducible apply clearCommand_kept
    | intro _
    | extract_lets
    | simp -zeta +zetaDelta only [Kept.other_iff]

theorem State.leave_kept {o0 : State} (s : State) (hk : Kept o0 s) : Kept o0 (State.leave s) := by
  unfold State.leave
  repeat' first
    | with_reducible assumption
    | simp -zeta only [Kept.other_iff]
    | with_reducible apply State.flushReplies_kept
    | with_reducible apply State.setPair_kept
    | with_reducible apply State.endSession_kept
    | with_reducible apply State.clearMirrorMap_kept
    | with_reducible apply State.endActivity_kept
    | split
    | intro _
    | extract_lets
    | simp -zeta +zetaDelta only [Kept.other_iff]

theorem execPairLeave_kept {o0 : State} (ring : Fin 8) (s : State) (hk : Kept o0 s) : KeptOut o0 (execPairLeave ring s) := by
  unfold execPairLeave
  repeat' first
    | with_reducible assumption
    | simp -zeta only [Kept.other_iff, KeptOut.next, refuse_state, busy_state]
    | with_reducible apply Done.refuse_kept
    | with_reducible apply clearCommand_kept
    | with_reducible apply State.sendFrame_kept
    | with_reducible apply State.leave_kept
    | split
    | intro _
    | extract_lets
    | simp -zeta +zetaDelta only [Kept.other_iff]

theorem State.ackAdvance_kept {o0 : State} (s : State) (acked : Nat) (hk : Kept o0 s) : Kept o0 (State.ackAdvance s acked) := by
  unfold State.ackAdvance
  repeat' first
    | with_reducible assumption
    | simp -zeta only [Kept.other_iff]
    | with_reducible apply State.pairProgress_kept
    | split
    | intro _
    | extract_lets
    | simp -zeta +zetaDelta only [Kept.other_iff]

theorem State.receive_kept {o0 : State} (s : State) (hdr : FrameHdr) (p : FrameOut) (effect : State → State) (hk : Kept o0 s) (heffect : ∀ u, Kept o0 u → Kept o0 (effect u)) : Kept o0 (State.receive s hdr p effect) := by
  unfold State.receive
  repeat' first
    | with_reducible assumption
    | simp -zeta only [Kept.other_iff]
    | with_reducible apply State.count_kept
    | with_reducible apply State.wake_kept
    | with_reducible apply State.applied_kept
    | with_reducible apply State.ackAdvance_kept
    | with_reducible apply heffect
    | split
    | intro _
    | extract_lets
    | simp -zeta +zetaDelta only [Kept.other_iff]

theorem execGrvHello_kept {o0 : State} (hdr : FrameHdr) (hello : Hello) (s : State) (hk : Kept o0 s) : KeptOut o0 (execGrvHello hdr hello s) := by
  unfold execGrvHello
  repeat' first
    | with_reducible assumption
    | simp -zeta only [Kept.other_iff, KeptOut.next]
    | with_reducible apply State.count_kept
    | with_reducible apply State.wake_kept
    | with_reducible apply State.meet_kept
    | split
    | extract_lets
    | simp -zeta +zetaDelta only [Kept.other_iff]

theorem execGrvTime_kept {o0 : State} (hdr : FrameHdr) (sent echoSent echoArrived : W64) (s : State) (hk : Kept o0 s) : KeptOut o0 (execGrvTime hdr sent echoSent echoArrived s) := by
  unfold execGrvTime
  repeat' first
    | with_reducible assumption
    | simp -zeta only [Kept.other_iff, KeptOut.next]
    | with_reducible apply State.sendFrame_kept
    | with_reducible apply State.receive_kept
    | split
    | intro _
    | extract_lets
    | simp -zeta +zetaDelta only [Kept.other_iff]

theorem State.mirrorAreas_kept {o0 : State} (s : State) (old : Option Req) (r : Req) (op : MirrorOp) (all : Bool) (hk : Kept o0 s) : Kept o0 (State.mirrorAreas s old r op all) := by
  unfold State.mirrorAreas
  repeat' first
    | with_reducible assumption
    | simp -zeta only [Kept.other_iff]
    | with_reducible apply State.smpSend_kept
    | with_reducible apply State.smpArea_kept
    | with_reducible apply State.accession_kept
    | with_reducible apply State.writePte_kept
    | (with_reducible refine Kept.foldl ?_ ?_)
    | split
    | intro _
    | extract_lets
    | simp -zeta +zetaDelta only [Kept.other_iff]

theorem State.applyRec_kept {o0 : State} (s : State) (m : MirrorRec) (all : Bool) (hk : Kept o0 s) : Kept o0 (State.applyRec s m all) := by
  unfold State.applyRec
  repeat' first
    | with_reducible assumption
    | simp -zeta only [Kept.other_iff]
    | with_reducible apply State.mirrorAreas_kept
    | split
    | intro _
    | extract_lets
    | simp -zeta +zetaDelta only [Kept.other_iff]

theorem execGrvRec_kept {o0 : State} (hdr : FrameHdr) (record : MirrorRec) (s : State) (hk : Kept o0 s) : KeptOut o0 (execGrvRec hdr record s) := by
  unfold execGrvRec
  repeat' first
    | with_reducible assumption
    | simp -zeta only [Kept.other_iff, KeptOut.next]
    | with_reducible apply State.receive_kept
    | with_reducible apply State.applyRec_kept
    | intro _
    | extract_lets
    | simp -zeta +zetaDelta only [Kept.other_iff]

theorem execGrvBulk_kept {o0 : State} (hdr : FrameHdr) (record : MirrorRec) (s : State) (hk : Kept o0 s) : KeptOut o0 (execGrvBulk hdr record s) := by
  unfold execGrvBulk
  repeat' first
    | with_reducible assumption
    | simp -zeta only [Kept.other_iff, KeptOut.next]
    | with_reducible apply State.receive_kept
    | with_reducible apply State.applyRec_kept
    | intro _
    | extract_lets
    | simp -zeta +zetaDelta only [Kept.other_iff]

theorem execGrvAck_kept {o0 : State} (hdr : FrameHdr) (s : State) (hk : Kept o0 s) : KeptOut o0 (execGrvAck hdr s) := by
  unfold execGrvAck
  repeat' first
    | with_reducible assumption
    | simp -zeta only [Kept.other_iff, KeptOut.next]
    | with_reducible apply State.receive_kept
    | intro _
    | extract_lets
    | simp -zeta +zetaDelta only [Kept.other_iff]

theorem execGrvGallery_kept {o0 : State} (hdr : FrameHdr) (gallery : Nat) (act : GalleryAct) (s : State) (hk : Kept o0 s) :
    KeptOut o0 (execGrvGallery hdr gallery act s) := by
  unfold execGrvGallery
  rw [KeptOut.next]
  refine State.receive_kept _ _ _ _ hk fun u hu => ?_
  split
  · split
    · exact hu
    · exact State.openGallery_kept _ _ _ _ _ hu
  · exact State.installRekey_kept _ _ _ _ hu
  · exact State.closeGallery_kept _ _ hu
  · refine State.markTold_kept _ _ _ _ ?_
    cases e : u.applySeg gallery _ _ _ with
    | none => exact hu
    | some t => exact State.applySeg_out hu e

theorem execGrvCatalogue_kept {o0 : State} (hdr : FrameHdr) (act : CatFrame) (s : State) (hk : Kept o0 s) : KeptOut o0 (execGrvCatalogue hdr act s) := by
  unfold execGrvCatalogue
  repeat' first
    | with_reducible assumption
    | simp -zeta only [Kept.other_iff, KeptOut.next]
    | with_reducible apply State.updWing_kept
    | with_reducible apply State.acceptCommit_kept
    | with_reducible apply State.receive_kept
    | split
    | intro _
    | extract_lets
    | simp -zeta +zetaDelta only [Kept.other_iff]

theorem execGrvCounter_kept {o0 : State} (hdr : FrameHdr) (gallery counter : Nat) (s : State) (hk : Kept o0 s) : KeptOut o0 (execGrvCounter hdr gallery counter s) := by
  unfold execGrvCounter
  repeat' first
    | with_reducible assumption
    | simp -zeta only [Kept.other_iff, KeptOut.next]
    | with_reducible apply State.updGal_kept
    | with_reducible apply State.receive_kept
    | intro _
    | extract_lets
    | simp -zeta +zetaDelta only [Kept.other_iff]

theorem State.takeBack_kept {o0 : State} (s : State) (r : Req) (hk : Kept o0 s) : Kept o0 (State.takeBack s r) := by
  unfold State.takeBack
  repeat' first
    | with_reducible assumption
    | simp -zeta only [Kept.other_iff]
    | with_reducible apply State.smpSend_kept
    | with_reducible apply State.armWheel_kept
    | with_reducible apply State.writeAreas_kept
    | with_reducible apply State.writePte_kept
    | (with_reducible refine Kept.foldl ?_ ?_)
    | split
    | intro _
    | extract_lets
    | simp -zeta +zetaDelta only [Kept.other_iff]

theorem execGrvHandback_kept {o0 : State} (hdr : FrameHdr) (record : Req) (s : State) (hk : Kept o0 s) : KeptOut o0 (execGrvHandback hdr record s) := by
  unfold execGrvHandback
  repeat' first
    | with_reducible assumption
    | simp -zeta only [Kept.other_iff, KeptOut.next]
    | with_reducible apply State.receive_kept
    | with_reducible apply State.takeBack_kept
    | intro _
    | extract_lets
    | simp -zeta +zetaDelta only [Kept.other_iff]

theorem execGrvLeave_kept {o0 : State} (hdr : FrameHdr) (s : State) (hk : Kept o0 s) : KeptOut o0 (execGrvLeave hdr s) := by
  unfold execGrvLeave
  repeat' first
    | with_reducible assumption
    | simp -zeta only [Kept.other_iff, KeptOut.next]
    | with_reducible apply State.leave_kept
    | with_reducible apply State.receive_kept
    | intro _
    | extract_lets
    | simp -zeta +zetaDelta only [Kept.other_iff]

theorem State.ackRecovery_kept {o0 : State} (s : State) (hk : Kept o0 s) : Kept o0 (State.ackRecovery s) := by
  unfold State.ackRecovery
  repeat' first
    | with_reducible assumption
    | simp -zeta only [Kept.other_iff]
    | with_reducible apply State.applied_kept
    | with_reducible apply State.sendRecovery_kept
    | split
    | extract_lets
    | simp -zeta +zetaDelta only [Kept.other_iff]

theorem State.ackPair_kept {o0 : State} (s : State) (hk : Kept o0 s) : Kept o0 (State.ackPair s) := by
  unfold State.ackPair
  repeat' first
    | with_reducible assumption
    | simp -zeta only [Kept.other_iff]
    | with_reducible apply State.sendFrame_kept
    | split
    | extract_lets
    | simp -zeta +zetaDelta only [Kept.other_iff]

theorem execAckTimer_kept {o0 : State} (s : State) (hk : Kept o0 s) : KeptOut o0 (execAckTimer s) := by
  unfold execAckTimer
  repeat' first
    | with_reducible assumption
    | simp -zeta only [Kept.other_iff, KeptOut.next]
    | with_reducible apply State.ackRecovery_kept
    | with_reducible apply State.ackPair_kept
    | split
    | extract_lets
    | simp -zeta +zetaDelta only [Kept.other_iff]

theorem State.resendFrames_kept {o0 : State} (s : State) (ks : List KeptFrame) (acked : Nat) (hk : Kept o0 s) : Kept o0 (State.resendFrames s ks acked) := by
  unfold State.resendFrames
  repeat' first
    | with_reducible assumption
    | simp -zeta only [Kept.other_iff]
    | with_reducible apply State.emit_kept
    | (with_reducible refine Kept.foldl ?_ ?_)
    | intro _
    | extract_lets
    | simp -zeta +zetaDelta only [Kept.other_iff]

theorem State.resendPair_kept {o0 : State} (s : State) (hk : Kept o0 s) : Kept o0 (State.resendPair s) := by
  unfold State.resendPair
  repeat' first
    | with_reducible assumption
    | simp -zeta only [Kept.other_iff]
    | with_reducible apply State.count_kept
    | with_reducible apply State.event_kept
    | with_reducible apply State.resendFrames_kept
    | split
    | extract_lets
    | simp -zeta +zetaDelta only [Kept.other_iff]

theorem State.resendRecovery_kept {o0 : State} (s : State) (hk : Kept o0 s) : Kept o0 (State.resendRecovery s) := by
  unfold State.resendRecovery
  repeat' first
    | with_reducible assumption
    | simp -zeta only [Kept.other_iff]
    | with_reducible apply State.applied_kept
    | with_reducible apply State.resendFrames_kept
    | split
    | extract_lets
    | simp -zeta +zetaDelta only [Kept.other_iff]

theorem execResend_kept {o0 : State} (s : State) (hk : Kept o0 s) : KeptOut o0 (execResend s) := by
  unfold execResend
  repeat' first
    | with_reducible assumption
    | simp -zeta only [Kept.other_iff, KeptOut.next]
    | with_reducible apply State.resendPair_kept
    | with_reducible apply State.resendRecovery_kept
    | split
    | extract_lets
    | simp -zeta +zetaDelta only [Kept.other_iff]

theorem execCopyCleared_kept {o0 : State} (wing : Fin 4) (page : Nat) (s : State) (hk : Kept o0 s) : KeptOut o0 (execCopyCleared wing page s) := by
  unfold execCopyCleared
  repeat' first
    | with_reducible assumption
    | simp -zeta only [Kept.other_iff, KeptOut.next]
    | with_reducible apply State.pairProgress_kept
    | split
    | intro _
    | extract_lets
    | simp -zeta +zetaDelta only [Kept.other_iff]

/-! ## Security -/

theorem execServiceChallenge_kept {o0 : State} (ring : Fin 8) (s : State) (hk : Kept o0 s) : KeptOut o0 (execServiceChallenge ring s) := by
  unfold execServiceChallenge
  repeat' first
    | with_reducible assumption
    | simp -zeta only [Kept.other_iff, KeptOut.next]
    | (simp -zeta only [Kept.lit_iff]; with_reducible refine KeptLit.intro ?_ ?_ ?_ ?_)
    | with_reducible exact MemStep.refl _
    | with_reducible exact SecStep.refl _
    | with_reducible rfl
    | with_reducible exact SecStep.wrote _ _
    | with_reducible exact SecStep.other _ _ _ _ _ _ _
    | with_reducible exact SecStep.locked _ _ _ _ _ _ _
    | with_reducible apply State.drawn_kept
    | with_reducible apply clearCommand_kept
    | intro _
    | extract_lets
    | simp -zeta +zetaDelta only [Kept.other_iff]

theorem execChallengeExpiry_kept {o0 : State} (s : State) (hk : Kept o0 s) : KeptOut o0 (execChallengeExpiry s) := by
  unfold execChallengeExpiry
  repeat' first
    | with_reducible assumption
    | simp -zeta only [Kept.other_iff, KeptOut.next]
    | (simp -zeta only [Kept.lit_iff]; with_reducible refine KeptLit.intro ?_ ?_ ?_ ?_)
    | with_reducible exact MemStep.refl _
    | with_reducible exact SecStep.refl _
    | with_reducible rfl
    | with_reducible exact SecStep.wrote _ _
    | with_reducible exact SecStep.other _ _ _ _ _ _ _
    | with_reducible exact SecStep.locked _ _ _ _ _ _ _
    | split
    | extract_lets
    | simp -zeta +zetaDelta only [Kept.other_iff]

theorem State.eraseAll_kept {o0 : State} (s : State) (hk : Kept o0 s) : Kept o0 (State.eraseAll s) := by
  unfold State.eraseAll
  repeat' first
    | with_reducible assumption
    | simp -zeta only [Kept.other_iff]
    | with_reducible apply State.kybSend_kept
    | (with_reducible refine Kept.foldl ?_ ?_)
    | intro _
    | extract_lets
    | simp -zeta +zetaDelta only [Kept.other_iff]

theorem State.loadControlKey_kept {o0 : State} (s : State) (hk : Kept o0 s) : Kept o0 (State.loadControlKey s) := by
  unfold State.loadControlKey
  repeat' first
    | with_reducible assumption
    | simp -zeta only [Kept.other_iff]
    | with_reducible apply State.kybSend_kept
    | (with_reducible refine Kept.foldl ?_ ?_)
    | intro _
    | extract_lets
    | simp -zeta +zetaDelta only [Kept.other_iff]

theorem State.drawGalleryKey_kept {o0 : State} (s : State) (hk : Kept o0 s) : Kept o0 (State.drawGalleryKey s) := by
  unfold State.drawGalleryKey
  repeat' first
    | with_reducible assumption
    | simp -zeta only [Kept.other_iff]
    | (simp -zeta only [Kept.lit_iff]; with_reducible refine KeptLit.intro ?_ ?_ ?_ ?_)
    | with_reducible exact MemStep.refl _
    | with_reducible exact SecStep.refl _
    | with_reducible rfl
    | with_reducible apply State.updGal_kept
    | with_reducible apply State.drawn_kept
    | with_reducible apply State.loadKeys_kept
    | intro _
    | extract_lets
    | simp -zeta +zetaDelta only [Kept.other_iff]

theorem State.serviceWipe_kept {o0 : State} (s : State) (hk : Kept o0 s) : Kept o0 (State.serviceWipe s) := by
  unfold State.serviceWipe
  repeat' first
    | with_reducible assumption
    | simp -zeta only [Kept.other_iff]
    | intro _
    | extract_lets
    | simp -zeta +zetaDelta only [Kept.other_iff]

/-- The granted unlock leaves KTIME, the queue and the canonical memory. -/
theorem State.grantUnlock_based {o0 : State} (s : State) (h : Based o0 s) (hk : s.kpr.ktime = o0.kpr.ktime) :
    Based o0 s.grantUnlock ∧ s.grantUnlock.kpr.ktime = o0.kpr.ktime := by
  have h2 : Kept s ((s.liveReqs.filter fun r => decide (r.gallery = 0)).foldl (fun t r => t.deaccession r.acc 4) s).eraseAll.drawGalleryKey.loadControlKey.serviceWipe :=
    State.serviceWipe_kept _ (State.loadControlKey_kept _ (State.drawGalleryKey_kept _ (State.eraseAll_kept _
      (Kept.foldl (Kept.refl s) fun _ _ hu => State.deaccession_kept _ _ _ hu))))
  unfold State.grantUnlock
  extract_lets k1 k2
  have h3 : Kept s k2 := h2
  have h4 := State.ledgerAdd_kept (o0 := { k2 with sec := { k2.sec with unlocked := true } }) _ 18 1 (Kept.refl _)
  exact ⟨h.trans (h3.1.trans ⟨h4.1.1, h4.1.2⟩), h4.2.1.trans (h3.2.1.trans hk)⟩

/-- SERVICE_UNLOCK leaves KTIME, the queue and the canonical memory. -/
theorem execServiceUnlock_based (ring : Fin 8) (s t : State) (e : execServiceUnlock ring s = .next t) :
    Based s t ∧ t.kpr.ktime = s.kpr.ktime := by
  unfold execServiceUnlock at e
  cases e
  rcases clearCommand_cases 0x71 (layout 96 [] fun _ _ => none) _ ring s with h | ⟨c, old, u, q, k, hu, h⟩
  · exact ⟨h.1, h.2.1⟩
  · rw [h]
    have hf := fun d => finish_kept (o0 := d.state) c old q k d (Kept.refl _)
    split
    · exact ⟨hu.1.trans (hf _).1, (hf _).2.1.trans hu.2.1⟩
    · split
      · exact ⟨hu.1.trans (hf _).1, (hf _).2.1.trans hu.2.1⟩
      · extract_lets sig k1
        have h1 : Based s k1 ∧ k1.kpr.ktime = s.kpr.ktime := ⟨hu.1, hu.2.1⟩
        clear_value k1
        split
        · have h2 := State.grantUnlock_based (o0 := s) k1 h1.1 h1.2
          have h3 := finish_kept (o0 := k1.grantUnlock) c old q k { state := k1.grantUnlock } (Kept.refl _)
          exact ⟨h2.1.trans h3.1, h3.2.1.trans h2.2⟩
        · have h3 := finish_kept (o0 := k1) c old q k (Done.refuse k1 stBadSignature) (Kept.refl _)
          exact ⟨h1.1.trans h3.1, h3.2.1.trans h1.2⟩

theorem State.lockService_kept {o0 : State} (s : State) (hk : Kept o0 s) : Kept o0 (State.lockService s) := by
  unfold State.lockService
  repeat' first
    | with_reducible assumption
    | simp -zeta only [Kept.other_iff]
    | (simp -zeta only [Kept.lit_iff]; with_reducible refine KeptLit.intro ?_ ?_ ?_ ?_)
    | with_reducible exact MemStep.refl _
    | with_reducible exact SecStep.refl _
    | with_reducible rfl
    | with_reducible exact SecStep.wrote _ _
    | with_reducible exact SecStep.other _ _ _ _ _ _ _
    | with_reducible exact SecStep.locked _ _ _ _ _ _ _
    | extract_lets
    | simp -zeta +zetaDelta only [Kept.other_iff]

theorem execServiceLock_kept {o0 : State} (ring : Fin 8) (s : State) (hk : Kept o0 s) : KeptOut o0 (execServiceLock ring s) := by
  unfold execServiceLock
  repeat' first
    | with_reducible assumption
    | simp -zeta only [Kept.other_iff, KeptOut.next]
    | with_reducible apply clearCommand_kept
    | with_reducible apply State.lockService_kept
    | intro _
    | extract_lets
    | simp -zeta +zetaDelta only [Kept.other_iff]

theorem execCapsuleWrite_kept {o0 : State} (ring : Fin 8) (verdict : Option Capsule) (s : State) (hk : Kept o0 s) : KeptOut o0 (execCapsuleWrite ring verdict s) := by
  unfold execCapsuleWrite
  repeat' first
    | with_reducible assumption
    | simp -zeta only [Kept.other_iff, KeptOut.next, refuse_state, busy_state]
    | with_reducible apply State.wrote_kept
    | with_reducible apply State.emit_kept
    | with_reducible apply Done.refuse_kept
    | with_reducible apply Done.busy_kept
    | with_reducible apply clearCommand_kept
    | split
    | intro _
    | extract_lets
    | simp -zeta +zetaDelta only [Kept.other_iff]

theorem execCapsuleProgrammed_kept {o0 : State} (s : State) (hk : Kept o0 s) : KeptOut o0 (execCapsuleProgrammed s) := by
  unfold execCapsuleProgrammed
  repeat' first
    | with_reducible assumption
    | simp -zeta only [Kept.other_iff, KeptOut.next]
    | with_reducible apply State.raiseVec_kept
    | split
    | extract_lets
    | simp -zeta +zetaDelta only [Kept.other_iff]

theorem execFwStage_kept {o0 : State} (ring : Fin 8) (s : State) (hk : Kept o0 s) : KeptOut o0 (execFwStage ring s) := by
  unfold execFwStage
  repeat' first
    | with_reducible assumption
    | simp -zeta only [Kept.other_iff, KeptOut.next, refuse_state, busy_state]
    | with_reducible apply State.wrote_kept
    | with_reducible apply Done.busy_kept
    | with_reducible apply clearCommand_kept
    | with_reducible apply State.startActivity_kept
    | with_reducible apply State.endActivity_kept
    | split
    | intro _
    | extract_lets
    | simp -zeta +zetaDelta only [Kept.other_iff]

theorem execFwActivate_kept {o0 : State} (ring : Fin 8) (verdict : Option ImageInfo) (s : State) (hk : Kept o0 s) : KeptOut o0 (execFwActivate ring verdict s) := by
  unfold execFwActivate
  repeat' first
    | with_reducible assumption
    | simp -zeta only [Kept.other_iff, KeptOut.next, refuse_state, busy_state]
    | with_reducible apply State.emit_kept
    | with_reducible apply Done.refuse_kept
    | with_reducible apply Done.busy_kept
    | with_reducible apply clearCommand_kept
    | with_reducible apply State.startActivity_kept
    | with_reducible apply State.enterYielded_kept
    | split
    | intro _
    | extract_lets
    | simp -zeta +zetaDelta only [Kept.other_iff]

end Sys2Proof.Machine
end

