-- ==== Sys2Proof/Laws/Kept6.lean ====
section
/-! SUPPORT. `Kept` of each operation and meaning of Machine/Boot, Sleep, Wrapper, Tick.lean. -/

set_option linter.unusedSimpArgs false

namespace Sys2Proof.Machine

open Sys2Proof.Bytes

/-! ## Boot -/

theorem State.blockState_kept {o0 : State} (s : State) (cause : Nat) (keep : Bool) (h : Kept o0 s) : Kept o0 (s.blockState cause keep) :=
  ⟨⟨h.1.1, fun w => Memory.filter_wf (h.1.2 w) _⟩, h.2.1, nofun⟩

theorem State.powerOnState_kept {o0 : State} (s : State) (h : Kept o0 s) : Kept o0 s.powerOnState := ⟨⟨h.1.1, fun _ => rfl⟩, h.2.1, nofun⟩

theorem State.beginBoot_kept {o0 : State} (s : State) (hk : Kept o0 s) : Kept o0 (State.beginBoot s) := by
  unfold State.beginBoot
  repeat' first
    | with_reducible assumption
    | simp -zeta only [Kept.other_iff]
    | (simp -zeta only [Kept.lit_iff]; with_reducible refine KeptLit.intro ?_ ?_ ?_ ?_)
    | with_reducible exact MemStep.refl _
    | with_reducible exact SecStep.refl _
    | with_reducible rfl
    | exact rfl
    | with_reducible apply State.wake_kept
    | extract_lets
    | simp -zeta +zetaDelta only [Kept.other_iff]

theorem State.internalReset_kept {o0 : State} (s : State) (cause : Nat) (hk : Kept o0 s) : Kept o0 (State.internalReset s cause) := by
  unfold State.internalReset
  repeat' first
    | with_reducible assumption
    | simp -zeta only [Kept.other_iff]
    | with_reducible apply State.ledgerAdd_kept
    | with_reducible apply State.blockState_kept
    | with_reducible apply State.beginBoot_kept
    | extract_lets
    | simp -zeta +zetaDelta only [Kept.other_iff]

theorem execPowerOnReset_kept {o0 : State} (s : State) (hk : Kept o0 s) : KeptOut o0 (execPowerOnReset s) := by
  unfold execPowerOnReset
  repeat' first
    | with_reducible assumption
    | simp -zeta only [Kept.other_iff, KeptOut.next]
    | with_reducible apply State.powerOnState_kept
    | split
    | extract_lets
    | simp -zeta +zetaDelta only [Kept.other_iff]

theorem execBlockReset_kept {o0 : State} (s : State) (hk : Kept o0 s) : KeptOut o0 (execBlockReset s) := by
  unfold execBlockReset
  repeat' first
    | with_reducible assumption
    | simp -zeta only [Kept.other_iff, KeptOut.next]
    | (simp -zeta only [Kept.lit_iff]; with_reducible refine KeptLit.intro ?_ ?_ ?_ ?_)
    | with_reducible exact MemStep.refl _
    | with_reducible exact SecStep.refl _
    | with_reducible rfl
    | exact rfl
    | with_reducible apply State.blockState_kept
    | split
    | extract_lets
    | simp -zeta +zetaDelta only [Kept.other_iff]

theorem execFenceReset_kept {o0 : State} (s : State) (hk : Kept o0 s) : KeptOut o0 (execFenceReset s) := by
  unfold execFenceReset
  repeat' first
    | with_reducible assumption
    | simp -zeta only [Kept.other_iff, KeptOut.next]
    | (simp -zeta only [Kept.lit_iff]; with_reducible refine KeptLit.intro ?_ ?_ ?_ ?_)
    | with_reducible exact MemStep.refl _
    | with_reducible exact SecStep.refl _
    | with_reducible rfl
    | exact rfl
    | with_reducible apply State.dropJournal_kept
    | with_reducible apply State.blockState_kept
    | split
    | extract_lets
    | simp -zeta +zetaDelta only [Kept.other_iff]

/-- RESET_RELEASE of POR_N sets KTIME to zero; the other pins leave it (R69). -/
theorem execResetRelease_based {o0 : State} (pin : ResetPin) (s t : State) (hb : Based o0 s) (e : execResetRelease pin s = .next t) :
    Based o0 t ∧ (t.sec.unlocked = true → s.sec.unlocked = true)
      ∧ t.kpr.ktime = if pin = .por ∧ s.kpr.porLow = true then 0 else s.kpr.ktime := by
  unfold execResetRelease at e
  split at e
  · rename_i hl
    extract_lets k1 c at e
    have hk : Kept k1 (if k1.resetLow = true then k1 else (if c = 1 then k1 else k1.ledgerAdd c 1).beginBoot) := by
      split
      · exact Kept.refl _
      · refine State.beginBoot_kept _ ?_
        split
        · exact Kept.refl _
        · exact State.ledgerAdd_kept _ _ _ (Kept.refl _)
    cases e
    refine ⟨Based.trans hb ?_, hk.2.2, hk.2.1.trans ?_⟩
    · exact ⟨hk.1.1, hk.1.2⟩
    · cases pin
      · have : s.kpr.porLow = true := hl
        simp [k1, Kpr.release, this]
      · rfl
      · rfl
  · rename_i hl
    cases e
    refine ⟨hb, id, ?_⟩
    cases pin
    · have : ¬s.kpr.porLow = true := hl
      simp [this]
    · rfl
    · rfl

theorem State.atPhase_kept {o0 : State} (s : State) (p : Byte) (hk : Kept o0 s) : Kept o0 (State.atPhase s p) := by
  unfold State.atPhase
  repeat' first
    | with_reducible assumption
    | simp -zeta only [Kept.other_iff]
    | (simp -zeta only [Kept.lit_iff]; with_reducible refine KeptLit.intro ?_ ?_ ?_ ?_)
    | with_reducible exact MemStep.refl _
    | with_reducible exact SecStep.refl _
    | with_reducible rfl
    | exact rfl
    | extract_lets
    | simp -zeta +zetaDelta only [Kept.other_iff]

theorem State.bootHalt_kept {o0 : State} (s : State) (code : Byte) (hk : Kept o0 s) : Kept o0 (State.bootHalt s code) := by
  unfold State.bootHalt
  repeat' first
    | with_reducible assumption
    | simp -zeta only [Kept.other_iff]
    | (simp -zeta only [Kept.lit_iff]; with_reducible refine KeptLit.intro ?_ ?_ ?_ ?_)
    | with_reducible exact MemStep.refl _
    | with_reducible exact SecStep.refl _
    | with_reducible rfl
    | exact rfl
    | intro _
    | extract_lets
    | simp -zeta +zetaDelta only [Kept.other_iff]

theorem State.discover_kept {o0 : State} (s : State) (table : Option ArcTable) (hk : Kept o0 s) : Kept o0 (State.discover s table) := by
  unfold State.discover
  repeat' first
    | with_reducible assumption
    | simp -zeta only [Kept.other_iff]
    | extract_lets
    | simp -zeta +zetaDelta only [Kept.other_iff]

theorem State.readPuf_kept {o0 : State} (s : State) (copy0 copy1 : HelperCopy) (hk : Kept o0 s) : Kept o0 (State.readPuf s copy0 copy1) := by
  unfold State.readPuf
  repeat' first
    | with_reducible assumption
    | simp -zeta only [Kept.other_iff]
    | (simp -zeta only [Kept.lit_iff]; with_reducible refine KeptLit.intro ?_ ?_ ?_ ?_)
    | with_reducible exact MemStep.refl _
    | with_reducible exact SecStep.refl _
    | with_reducible rfl
    | exact rfl
    | with_reducible exact SecStep.wrote _ _
    | with_reducible exact SecStep.other _ _ _ _ _ _ _
    | with_reducible exact SecStep.locked _ _ _ _ _ _ _
    | with_reducible apply State.bootHalt_kept
    | split
    | extract_lets
    | simp -zeta +zetaDelta only [Kept.other_iff]

theorem execPufCheck_kept {o0 : State} (scan : PufScan) (s : State) (hk : Kept o0 s) : KeptOut o0 (execPufCheck scan s) := by
  unfold execPufCheck
  repeat' first
    | with_reducible assumption
    | simp -zeta only [Kept.other_iff, KeptOut.next]
    | with_reducible apply State.atPhase_kept
    | with_reducible apply State.bootHalt_kept
    | with_reducible apply State.discover_kept
    | with_reducible apply State.readPuf_kept
    | split
    | extract_lets
    | simp -zeta +zetaDelta only [Kept.other_iff]

theorem State.askImage_kept {o0 : State} (s : State) (hk : Kept o0 s) : Kept o0 (State.askImage s) := by
  unfold State.askImage
  repeat' first
    | with_reducible assumption
    | simp -zeta only [Kept.other_iff]
    | with_reducible apply State.sendRecovery_kept
    | extract_lets
    | simp -zeta +zetaDelta only [Kept.other_iff]

theorem State.enterRecovery_kept {o0 : State} (s : State) (hk : Kept o0 s) : Kept o0 (State.enterRecovery s) := by
  unfold State.enterRecovery
  repeat' first
    | with_reducible assumption
    | simp -zeta only [Kept.other_iff]
    | (simp -zeta only [Kept.lit_iff]; with_reducible refine KeptLit.intro ?_ ?_ ?_ ?_)
    | with_reducible exact MemStep.refl _
    | with_reducible exact SecStep.refl _
    | with_reducible rfl
    | exact rfl
    | with_reducible apply State.updChan_kept
    | with_reducible apply State.askImage_kept
    | split
    | intro _
    | extract_lets
    | simp -zeta +zetaDelta only [Kept.other_iff]

theorem execBootImage_kept {o0 : State} (verdict : Option ImageInfo) (s : State) (hk : Kept o0 s) : KeptOut o0 (execBootImage verdict s) := by
  unfold execBootImage
  repeat' first
    | with_reducible assumption
    | simp -zeta only [Kept.other_iff, KeptOut.next]
    | (simp -zeta only [Kept.lit_iff]; with_reducible refine KeptLit.intro ?_ ?_ ?_ ?_)
    | with_reducible exact MemStep.refl _
    | with_reducible exact SecStep.refl _
    | with_reducible rfl
    | exact rfl
    | with_reducible apply State.enterRecovery_kept
    | split
    | extract_lets
    | simp -zeta +zetaDelta only [Kept.other_iff]

theorem State.loadBindings_kept {o0 : State} (s : State) (bs : List (Nat × Nat × Nat)) (hk : Kept o0 s) : Kept o0 (State.loadBindings s bs) := by
  unfold State.loadBindings
  repeat' first
    | with_reducible assumption
    | simp -zeta only [Kept.other_iff]
    | with_reducible apply State.updChan_kept
    | (with_reducible refine Kept.foldl ?_ ?_)
    | intro _
    | extract_lets
    | simp -zeta +zetaDelta only [Kept.other_iff]

theorem State.acceptCapsule_kept {o0 : State} (s : State) (c : Capsule) (hk : Kept o0 s) : Kept o0 (State.acceptCapsule s c) := by
  unfold State.acceptCapsule
  repeat' first
    | with_reducible assumption
    | simp -zeta only [Kept.other_iff]
    | (simp -zeta only [Kept.lit_iff]; with_reducible refine KeptLit.intro ?_ ?_ ?_ ?_)
    | with_reducible exact MemStep.refl _
    | with_reducible exact SecStep.refl _
    | with_reducible rfl
    | exact rfl
    | with_reducible apply State.seedSource_kept
    | with_reducible apply State.controlPost_kept
    | with_reducible apply State.dropJournal_kept
    | with_reducible apply State.loadBindings_kept
    | split
    | extract_lets
    | simp -zeta +zetaDelta only [Kept.other_iff]

theorem execBootCapsule_kept {o0 : State} (scan : CapsuleScan) (s : State) (hk : Kept o0 s) : KeptOut o0 (execBootCapsule scan s) := by
  unfold execBootCapsule
  repeat' first
    | with_reducible assumption
    | simp -zeta only [Kept.other_iff, KeptOut.next]
    | with_reducible apply State.enterRecovery_kept
    | with_reducible apply State.acceptCapsule_kept
    | split
    | extract_lets
    | simp -zeta +zetaDelta only [Kept.other_iff]

theorem execJournalTimeout_kept {o0 : State} (s : State) (hk : Kept o0 s) : KeptOut o0 (execJournalTimeout s) := by
  unfold execJournalTimeout
  repeat' first
    | with_reducible assumption
    | simp -zeta only [Kept.other_iff, KeptOut.next]
    | with_reducible apply State.dropJournal_kept
    | with_reducible apply State.clearPreserved_kept
    | split
    | extract_lets
    | simp -zeta +zetaDelta only [Kept.other_iff]

theorem State.resumeRecords_kept {o0 : State} (s : State) (hk : Kept o0 s) : Kept o0 (State.resumeRecords s) := by
  unfold State.resumeRecords
  repeat' first
    | with_reducible assumption
    | simp -zeta only [Kept.other_iff]
    | with_reducible apply State.mapReqs_kept
    | with_reducible apply State.freePages_kept
    | (with_reducible refine Kept.foldl ?_ ?_)
    | intro _
    | extract_lets
    | simp -zeta +zetaDelta only [Kept.other_iff]

theorem State.reloadKeys_kept {o0 : State} (s : State) (hk : Kept o0 s) : Kept o0 (State.reloadKeys s) := by
  unfold State.reloadKeys
  repeat' first
    | with_reducible assumption
    | simp -zeta only [Kept.other_iff]
    | with_reducible apply State.loadKeys_kept
    | (with_reducible refine Kept.foldl ?_ ?_)
    | intro _
    | extract_lets
    | simp -zeta +zetaDelta only [Kept.other_iff]

theorem State.clearArray_kept {o0 : State} (s : State) (hk : Kept o0 s) : Kept o0 (State.clearArray s) := by
  unfold State.clearArray
  repeat' first
    | with_reducible assumption
    | simp -zeta only [Kept.other_iff]
    | (simp -zeta only [Kept.lit_iff]; with_reducible refine KeptLit.intro ?_ ?_ ?_ ?_)
    | with_reducible exact MemStep.refl _
    | with_reducible exact SecStep.refl _
    | with_reducible rfl
    | with_reducible exact MemStep.write _ _ _
    | with_reducible exact MemStep.clear _ _ _
    | with_reducible exact MemStep.reply _ _ _ _
    | with_reducible exact MemStep.filter _ _
    | intro _
    | extract_lets
    | simp -zeta +zetaDelta only [Kept.other_iff]

theorem State.badRecord_kept {o0 : State} (s : State) (slot : Nat) (hk : Kept o0 s) : Kept o0 (State.badRecord s slot) := by
  unfold State.badRecord
  repeat' first
    | with_reducible assumption
    | simp -zeta only [Kept.other_iff]
    | with_reducible apply State.recordLost_kept
    | extract_lets
    | simp -zeta +zetaDelta only [Kept.other_iff]

theorem execEccRegions_kept {o0 : State} (scan : RegionScan) (s : State) (hk : Kept o0 s) : KeptOut o0 (execEccRegions scan s) := by
  unfold execEccRegions
  repeat' first
    | with_reducible assumption
    | simp -zeta only [Kept.other_iff, KeptOut.next]
    | with_reducible apply State.clearPreserved_kept
    | with_reducible apply State.eraseAll_kept
    | with_reducible apply State.loadControlKey_kept
    | with_reducible apply State.atPhase_kept
    | with_reducible apply State.bootHalt_kept
    | with_reducible apply State.resumeRecords_kept
    | with_reducible apply State.reloadKeys_kept
    | with_reducible apply State.clearArray_kept
    | with_reducible apply State.badRecord_kept
    | (with_reducible refine Kept.foldl ?_ ?_)
    | split
    | intro _
    | extract_lets
    | simp -zeta +zetaDelta only [Kept.other_iff]

theorem State.loadCatalogue_kept {o0 : State} (s : State) (hk : Kept o0 s) : Kept o0 (State.loadCatalogue s) := by
  unfold State.loadCatalogue
  repeat' first
    | with_reducible assumption
    | simp -zeta only [Kept.other_iff]
    | (simp -zeta only [Kept.lit_iff]; with_reducible refine KeptLit.intro ?_ ?_ ?_ ?_)
    | with_reducible exact MemStep.refl _
    | with_reducible exact SecStep.refl _
    | with_reducible rfl
    | exact rfl
    | with_reducible exact SecStep.wrote _ _
    | with_reducible exact SecStep.other _ _ _ _ _ _ _
    | with_reducible exact SecStep.locked _ _ _ _ _ _ _
    | with_reducible apply State.updWing_kept
    | (with_reducible refine Kept.foldl ?_ ?_)
    | split
    | intro _
    | extract_lets
    | simp -zeta +zetaDelta only [Kept.other_iff]

theorem State.restoreLedger_kept {o0 : State} (s : State) (hk : Kept o0 s) : Kept o0 (State.restoreLedger s) := by
  unfold State.restoreLedger
  repeat' first
    | with_reducible assumption
    | simp -zeta only [Kept.other_iff]
    | with_reducible apply State.ledgerAdd_kept
    | with_reducible apply State.take_kept
    | split
    | extract_lets
    | simp -zeta +zetaDelta only [Kept.other_iff]

theorem State.defaultBudgets_kept {o0 : State} (s : State) (hk : Kept o0 s) : Kept o0 (State.defaultBudgets s) := by
  unfold State.defaultBudgets
  repeat' first
    | with_reducible assumption
    | simp -zeta only [Kept.other_iff]
    | with_reducible apply State.updGal_kept
    | (with_reducible refine Kept.foldl ?_ ?_)
    | split
    | intro _
    | extract_lets
    | simp -zeta +zetaDelta only [Kept.other_iff]

theorem State.openGallery0_kept {o0 : State} (s : State) (hk : Kept o0 s) : Kept o0 (State.openGallery0 s) := by
  unfold State.openGallery0
  repeat' first
    | with_reducible assumption
    | simp -zeta only [Kept.other_iff]
    | with_reducible apply State.updGal_kept
    | with_reducible apply State.drawGalleryKey_kept
    | intro _
    | extract_lets
    | simp -zeta +zetaDelta only [Kept.other_iff]

theorem State.rise_kept {o0 : State} (s : State) (hk : Kept o0 s) : Kept o0 (State.rise s) := by
  unfold State.rise
  repeat' first
    | with_reducible assumption
    | simp -zeta only [Kept.other_iff]
    | (simp -zeta only [Kept.lit_iff]; with_reducible refine KeptLit.intro ?_ ?_ ?_ ?_)
    | with_reducible exact MemStep.refl _
    | with_reducible exact SecStep.refl _
    | with_reducible rfl
    | exact rfl
    | with_reducible apply State.ledgerMax_kept
    | with_reducible apply State.keeperCause_kept
    | with_reducible apply State.defaultBudgets_kept
    | with_reducible apply State.openGallery0_kept
    | intro _
    | extract_lets
    | simp -zeta +zetaDelta only [Kept.other_iff]

theorem State.passedDeadlines_kept {o0 : State} (s : State) (hk : Kept o0 s) : Kept o0 (State.passedDeadlines s) := by
  unfold State.passedDeadlines
  repeat' first
    | with_reducible assumption
    | simp -zeta only [Kept.other_iff]
    | with_reducible apply State.mapReqs_kept
    | split
    | intro _
    | extract_lets
    | simp -zeta +zetaDelta only [Kept.other_iff]

theorem State.phase8_kept {o0 : State} (s : State) (hk : Kept o0 s) : Kept o0 (State.phase8 s) := by
  unfold State.phase8
  repeat' first
    | with_reducible assumption
    | simp -zeta only [Kept.other_iff]
    | with_reducible apply State.setPair_kept
    | with_reducible apply State.armWheel_kept
    | with_reducible apply State.startJoin_kept
    | with_reducible apply State.atPhase_kept
    | with_reducible apply State.passedDeadlines_kept
    | (with_reducible refine Kept.foldl ?_ ?_)
    | split
    | intro _
    | extract_lets
    | simp -zeta +zetaDelta only [Kept.other_iff]

theorem execBootCatalogue_kept {o0 : State} (s : State) (hk : Kept o0 s) : KeptOut o0 (execBootCatalogue s) := by
  unfold execBootCatalogue
  repeat' first
    | with_reducible assumption
    | simp -zeta only [Kept.other_iff, KeptOut.next]
    | with_reducible apply State.loadCatalogue_kept
    | with_reducible apply State.restoreLedger_kept
    | with_reducible apply State.rise_kept
    | with_reducible apply State.phase8_kept
    | split
    | extract_lets
    | simp -zeta +zetaDelta only [Kept.other_iff]

theorem State.programItem_kept {o0 : State} (s : State) (r : RecoveredItem) (hk : Kept o0 s) : Kept o0 (State.programItem s r) := by
  unfold State.programItem
  repeat' first
    | with_reducible assumption
    | simp -zeta only [Kept.other_iff]
    | with_reducible apply State.emit_kept
    | extract_lets
    | simp -zeta +zetaDelta only [Kept.other_iff]

theorem State.recoveryChunk_kept {o0 : State} (s : State) (ws : List Nat) (verdict : Option RecoveredItem) (hk : Kept o0 s) : Kept o0 (State.recoveryChunk s ws verdict) := by
  unfold State.recoveryChunk
  repeat' first
    | with_reducible assumption
    | simp -zeta only [Kept.other_iff]
    | with_reducible apply State.ackMessage_kept
    | with_reducible apply State.programItem_kept
    | split
    | intro _
    | extract_lets
    | simp -zeta +zetaDelta only [Kept.other_iff]

theorem execRecoveryChunk_kept {o0 : State} (verdict : Option RecoveredItem) (s : State) (hk : Kept o0 s) : KeptOut o0 (execRecoveryChunk verdict s) := by
  unfold execRecoveryChunk
  repeat' first
    | with_reducible assumption
    | simp -zeta only [Kept.other_iff, KeptOut.next, refuse_state, busy_state]
    | with_reducible apply State.ackMessage_kept
    | with_reducible apply Done.refuse_kept
    | with_reducible apply State.recoveryChunk_kept
    | split
    | extract_lets
    | simp -zeta +zetaDelta only [Kept.other_iff]

theorem execRecoveryProgrammed_kept {o0 : State} (s : State) (hk : Kept o0 s) : KeptOut o0 (execRecoveryProgrammed s) := by
  unfold execRecoveryProgrammed
  repeat' first
    | with_reducible assumption
    | simp -zeta only [Kept.other_iff, KeptOut.next]
    | with_reducible apply State.ackMessage_kept
    | with_reducible apply State.internalReset_kept
    | split
    | extract_lets
    | simp -zeta +zetaDelta only [Kept.other_iff]

theorem execImageRequestRetry_kept {o0 : State} (s : State) (hk : Kept o0 s) : KeptOut o0 (execImageRequestRetry s) := by
  unfold execImageRequestRetry
  repeat' first
    | with_reducible assumption
    | simp -zeta only [Kept.other_iff, KeptOut.next]
    | with_reducible apply State.askImage_kept
    | split
    | extract_lets
    | simp -zeta +zetaDelta only [Kept.other_iff]

theorem State.imageChunk_kept {o0 : State} (s : State) (len total : Nat) (verdict : Option ImageInfo) (hk : Kept o0 s) : Kept o0 (State.imageChunk s len total verdict) := by
  unfold State.imageChunk
  repeat' first
    | with_reducible assumption
    | simp -zeta only [Kept.other_iff]
    | with_reducible apply State.askImage_kept
    | with_reducible apply State.programItem_kept
    | split
    | extract_lets
    | simp -zeta +zetaDelta only [Kept.other_iff]

theorem State.applyRecovery_kept {o0 : State} (s : State) (hdr : FrameHdr) (hk : Kept o0 s) : Kept o0 (State.applyRecovery s hdr) := by
  unfold State.applyRecovery
  repeat' first
    | with_reducible assumption
    | simp -zeta only [Kept.other_iff]
    | split
    | intro _
    | extract_lets
    | simp -zeta +zetaDelta only [Kept.other_iff]

theorem State.sendImage_kept {o0 : State} (s : State) (i : ImageInfo) (hk : Kept o0 s) : Kept o0 (State.sendImage s i) := by
  unfold State.sendImage
  repeat' first
    | with_reducible assumption
    | simp -zeta only [Kept.other_iff]
    | with_reducible apply State.sendRecovery_kept
    | with_reducible apply Comp.chunk_kept
    | (with_reducible refine Kept.foldl ?_ ?_)
    | intro _
    | extract_lets
    | simp -zeta +zetaDelta only [Kept.other_iff]

theorem execGrvImage_kept {o0 : State} (hdr : FrameHdr) (frame : ImageFrame) (s : State) (hk : Kept o0 s) : KeptOut o0 (execGrvImage hdr frame s) := by
  unfold execGrvImage
  repeat' first
    | with_reducible assumption
    | simp -zeta only [Kept.other_iff, KeptOut.next]
    | with_reducible apply State.applied_kept
    | with_reducible apply Comp.chunk_kept
    | with_reducible apply State.imageChunk_kept
    | with_reducible apply State.applyRecovery_kept
    | with_reducible apply State.sendImage_kept
    | split
    | intro _
    | extract_lets
    | simp -zeta +zetaDelta only [Kept.other_iff]

theorem execGrvLinkUp_kept {o0 : State} (up : Bool) (s : State) (hk : Kept o0 s) : KeptOut o0 (execGrvLinkUp up s) := by
  unfold execGrvLinkUp
  repeat' first
    | with_reducible assumption
    | simp -zeta only [Kept.other_iff, KeptOut.next]
    | with_reducible apply State.askImage_kept
    | split
    | extract_lets
    | simp -zeta +zetaDelta only [Kept.other_iff]

theorem State.countActivation_kept {o0 : State} (s : State) (i : ImageInfo) (hk : Kept o0 s) : Kept o0 (State.countActivation s i) := by
  unfold State.countActivation
  repeat' first
    | with_reducible assumption
    | simp -zeta only [Kept.other_iff]
    | with_reducible apply State.ledgerAdd_kept
    | extract_lets
    | simp -zeta +zetaDelta only [Kept.other_iff]

theorem execFirmwareActivationDone_kept {o0 : State} (s : State) (hk : Kept o0 s) : KeptOut o0 (execFirmwareActivationDone s) := by
  unfold execFirmwareActivationDone
  repeat' first
    | with_reducible assumption
    | simp -zeta only [Kept.other_iff, KeptOut.next]
    | with_reducible apply State.internalReset_kept
    | with_reducible apply State.countActivation_kept
    | split
    | extract_lets
    | simp -zeta +zetaDelta only [Kept.other_iff]

/-! ## Sleep -/

theorem execDomainPowerDown_kept {o0 : State} (dom : Dom) (s : State) (hk : Kept o0 s) : KeptOut o0 (execDomainPowerDown dom s) := by
  unfold execDomainPowerDown
  repeat' first
    | with_reducible assumption
    | simp -zeta only [Kept.other_iff, KeptOut.next]
    | with_reducible apply State.updDom_kept
    | split
    | intro _
    | extract_lets
    | simp -zeta +zetaDelta only [Kept.other_iff]

/-! ## Wrapper -/

theorem State.leaveWrapper_kept {o0 : State} (s : State) (hk : Kept o0 s) : Kept o0 (State.leaveWrapper s) := by
  unfold State.leaveWrapper
  repeat' first
    | with_reducible assumption
    | simp -zeta only [Kept.other_iff]
    | (simp -zeta only [Kept.lit_iff]; with_reducible refine KeptLit.intro ?_ ?_ ?_ ?_)
    | with_reducible exact MemStep.refl _
    | with_reducible exact SecStep.refl _
    | with_reducible rfl
    | exact rfl
    | with_reducible apply State.internalReset_kept
    | split
    | extract_lets
    | simp -zeta +zetaDelta only [Kept.other_iff]

theorem State.wrapperTo_kept {o0 : State} (s : State) (code : Nat) (hk : Kept o0 s) : Kept o0 (State.wrapperTo s code) := by
  unfold State.wrapperTo
  repeat' first
    | with_reducible assumption
    | simp -zeta only [Kept.other_iff]
    | (simp -zeta only [Kept.lit_iff]; with_reducible refine KeptLit.intro ?_ ?_ ?_ ?_)
    | with_reducible exact MemStep.refl _
    | with_reducible exact SecStep.refl _
    | with_reducible rfl
    | exact rfl
    | with_reducible apply State.emit_kept
    | with_reducible apply State.leaveWrapper_kept
    | split
    | extract_lets
    | simp -zeta +zetaDelta only [Kept.other_iff]

theorem State.wrapperOff_kept {o0 : State} (s : State) (code : Nat) (hk : Kept o0 s) : Kept o0 (State.wrapperOff s code) := by
  unfold State.wrapperOff
  repeat' first
    | with_reducible assumption
    | simp -zeta only [Kept.other_iff]
    | with_reducible apply State.emit_kept
    | with_reducible apply State.leaveWrapper_kept
    | split
    | extract_lets
    | simp -zeta +zetaDelta only [Kept.other_iff]

theorem execWsBypass_kept {o0 : State} (s : State) (hk : Kept o0 s) : KeptOut o0 (execWsBypass s) := by
  unfold execWsBypass
  repeat' first
    | with_reducible assumption
    | simp -zeta only [Kept.other_iff, KeptOut.next]
    | with_reducible apply State.wrapperTo_kept
    | extract_lets
    | simp -zeta +zetaDelta only [Kept.other_iff]

theorem execWsExtest_kept {o0 : State} (leave : Bool) (s : State) (hk : Kept o0 s) : KeptOut o0 (execWsExtest leave s) := by
  unfold execWsExtest
  repeat' first
    | with_reducible assumption
    | simp -zeta only [Kept.other_iff, KeptOut.next]
    | with_reducible apply State.wrapperTo_kept
    | with_reducible apply State.wrapperOff_kept
    | split
    | extract_lets
    | simp -zeta +zetaDelta only [Kept.other_iff]

theorem execWsIntestScan_kept {o0 : State} (leave : Bool) (s : State) (hk : Kept o0 s) : KeptOut o0 (execWsIntestScan leave s) := by
  unfold execWsIntestScan
  repeat' first
    | with_reducible assumption
    | simp -zeta only [Kept.other_iff, KeptOut.next]
    | with_reducible apply State.wrapperTo_kept
    | with_reducible apply State.wrapperOff_kept
    | split
    | extract_lets
    | simp -zeta +zetaDelta only [Kept.other_iff]

theorem execWsMbist_kept {o0 : State} (leave : Bool) (s : State) (hk : Kept o0 s) : KeptOut o0 (execWsMbist leave s) := by
  unfold execWsMbist
  repeat' first
    | with_reducible assumption
    | simp -zeta only [Kept.other_iff, KeptOut.next]
    | with_reducible apply State.wrapperTo_kept
    | with_reducible apply State.wrapperOff_kept
    | split
    | extract_lets
    | simp -zeta +zetaDelta only [Kept.other_iff]

theorem execWsStatus_kept {o0 : State} (s : State) (hk : Kept o0 s) : KeptOut o0 (execWsStatus s) := by
  unfold execWsStatus
  repeat' first
    | with_reducible assumption
    | simp -zeta only [Kept.other_iff, KeptOut.next]
    | with_reducible apply State.emit_kept
    | with_reducible apply State.wrapperTo_kept
    | extract_lets
    | simp -zeta +zetaDelta only [Kept.other_iff]

/-! ## Tick -/

theorem State.countTick_kept {o0 : State} (s : State) (hk : Kept o0 s) : Kept o0 (State.countTick s) := by
  unfold State.countTick
  repeat' first
    | with_reducible assumption
    | simp -zeta only [Kept.other_iff]
    | with_reducible apply State.count_kept
    | (with_reducible refine Kept.foldl ?_ ?_)
    | split
    | intro _
    | extract_lets
    | simp -zeta +zetaDelta only [Kept.other_iff]

theorem State.drainTrace_kept {o0 : State} (s : State) (hk : Kept o0 s) : Kept o0 (State.drainTrace s) := by
  unfold State.drainTrace
  repeat' first
    | with_reducible assumption
    | simp -zeta only [Kept.other_iff]
    | with_reducible apply State.emit_kept
    | with_reducible apply State.trace_kept
    | with_reducible apply State.take_kept
    | (with_reducible refine Kept.foldl ?_ ?_)
    | split
    | intro _
    | extract_lets
    | simp -zeta +zetaDelta only [Kept.other_iff]

theorem State.endOfTick_kept {o0 : State} (s : State) (hk : Kept o0 s) : Kept o0 (State.endOfTick s) := by
  unfold State.endOfTick
  repeat' first
    | with_reducible assumption
    | simp -zeta only [Kept.other_iff]
    | with_reducible apply State.bankTick_kept
    | with_reducible apply State.ownStarts_kept
    | with_reducible apply State.countTick_kept
    | with_reducible apply State.drainTrace_kept
    | split
    | extract_lets
    | simp -zeta +zetaDelta only [Kept.other_iff]

/-- A new tick raises KTIME by one (R69). -/
theorem State.advanceTime_based {o0 : State} (s : State) (h : Based o0 s) :
    Based o0 s.advanceTime ∧ s.advanceTime.kpr.ktime = s.kpr.ktime + 1 ∧ (s.advanceTime.sec.unlocked = true → s.sec.unlocked = true) := by
  have h4 := State.ledgerAdd_kept (o0 := { s with kpr := { s.kpr with ktime := s.kpr.ktime + 1 } }) _ 0 1 (Kept.refl _)
  unfold State.advanceTime
  extract_lets k1
  split
  · exact ⟨h.trans ⟨h4.1.1, h4.1.2⟩, h4.2.1, h4.2.2⟩
  · exact ⟨h, rfl, id⟩

theorem State.refillAll_kept {o0 : State} (s : State) (hk : Kept o0 s) : Kept o0 (State.refillAll s) := by
  unfold State.refillAll
  repeat' first
    | with_reducible assumption
    | simp -zeta only [Kept.other_iff]
    | split
    | intro _
    | extract_lets
    | simp -zeta +zetaDelta only [Kept.other_iff]

theorem State.powerTick_kept {o0 : State} (s : State) (hk : Kept o0 s) : Kept o0 (State.powerTick s) := by
  unfold State.powerTick
  repeat' first
    | with_reducible assumption
    | simp -zeta only [Kept.other_iff]
    | with_reducible apply State.activate_kept
    | with_reducible apply State.raiseWaiting_kept
    | with_reducible apply State.clockTick_kept
    | with_reducible apply State.waitingReset_kept
    | extract_lets
    | simp -zeta +zetaDelta only [Kept.other_iff]

theorem State.bootTick_kept {o0 : State} (s : State) (hk : Kept o0 s) : Kept o0 (State.bootTick s) := by
  unfold State.bootTick
  repeat' first
    | with_reducible assumption
    | simp -zeta only [Kept.other_iff]
    | with_reducible apply State.atPhase_kept
    | split
    | extract_lets
    | simp -zeta +zetaDelta only [Kept.other_iff]

theorem State.idleBoundary_kept {o0 : State} (s : State) (w : Nat) (hk : Kept o0 s) : Kept o0 (State.idleBoundary s w) := by
  unfold State.idleBoundary
  repeat' first
    | with_reducible assumption
    | simp -zeta only [Kept.other_iff]
    | with_reducible apply State.updWing_kept
    | with_reducible apply State.boundaryFrees_kept
    | with_reducible apply State.takeBudgets_kept
    | with_reducible apply State.flip_kept
    | with_reducible apply State.settle_kept
    | with_reducible apply State.boundaryEnds_kept
    | split
    | intro _
    | extract_lets
    | simp -zeta +zetaDelta only [Kept.other_iff]

theorem State.refuseMail_kept {o0 : State} (s : State) (hk : Kept o0 s) : Kept o0 (State.refuseMail s) := by
  unfold State.refuseMail
  repeat' first
    | with_reducible assumption
    | simp -zeta only [Kept.other_iff, refuse_state, busy_state]
    | with_reducible apply State.ackMessage_kept
    | with_reducible apply Done.refuse_kept
    | (with_reducible refine Kept.foldl ?_ ?_)
    | split
    | intro _
    | extract_lets
    | simp -zeta +zetaDelta only [Kept.other_iff]

theorem State.newTick_kept {o0 : State} (s : State) (hk : Kept o0 s) : Kept o0 (State.newTick s) := by
  unfold State.newTick
  repeat' first
    | with_reducible assumption
    | simp -zeta only [Kept.other_iff, refuse_state, busy_state]
    | with_reducible apply State.fenceTick_kept
    | with_reducible apply State.sweepAids_kept
    | with_reducible apply State.closeDue_kept
    | with_reducible apply State.completeHeld_kept
    | with_reducible apply State.pairProgress_kept
    | with_reducible apply State.refillAll_kept
    | with_reducible apply State.powerTick_kept
    | with_reducible apply State.bootTick_kept
    | with_reducible apply State.idleBoundary_kept
    | with_reducible apply State.refuseMail_kept
    | (with_reducible refine Kept.foldl ?_ ?_)
    | split
    | intro _
    | extract_lets
    | simp -zeta +zetaDelta only [Kept.other_iff]

/-- A keeper tick raises KTIME by one; it keeps the queue and the canonical memory, and unlocks nothing. -/
theorem State.tick_based {o0 : State} (s : State) (h : Based o0 s) :
    Based o0 s.tick ∧ s.tick.kpr.ktime = s.kpr.ktime + 1
      ∧ (s.tick.sec.unlocked = true → s.sec.unlocked = true) := by
  have h1 := State.endOfTick_kept s (Kept.refl s)
  have h2 := State.advanceTime_based (o0 := o0) s.endOfTick (h.trans h1.1)
  have h4 := State.announceSnapshot_kept s.endOfTick.advanceTime (Kept.refl _)
  unfold State.tick
  split
  · exact ⟨⟨h.1, h.2⟩, rfl, id⟩
  · extract_lets k1
    have h3 : Kept k1 (if k1.resetLow = true then k1 else if k1.dead = true then k1.refuseMail.completeHeld else k1.newTick) := by
      split
      · exact Kept.refl _
      · split
        · exact State.completeHeld_kept _ (State.refuseMail_kept _ (Kept.refl _))
        · exact State.newTick_kept _ (Kept.refl _)
    refine ⟨h2.1.trans (h4.trans h3).1, (h4.trans h3).2.1.trans (h2.2.1.trans ?_), fun w => h1.2.2 (h2.2.2 ((h4.trans h3).2.2 w))⟩
    rw [h1.2.1]

end Sys2Proof.Machine
end

