-- ==== Sys2Proof/Laws/State.lean ====
section
/-! SUPPORT. The fields that each named update leaves, one lemma per field, and what a table holds after an update. -/

namespace Sys2Proof.Machine

open Sys2Proof.Bytes

/-! ## Fields left unchanged -/

@[simp] theorem State.wrote_kpr (s : State) (region : Nat) : (State.wrote s region).kpr = s.kpr := rfl
@[simp] theorem State.wrote_power (s : State) (region : Nat) : (State.wrote s region).power = s.power := rfl
@[simp] theorem State.wrote_rings (s : State) (region : Nat) : (State.wrote s region).rings = s.rings := rfl
@[simp] theorem State.wrote_mem (s : State) (region : Nat) : (State.wrote s region).mem = s.mem := rfl
@[simp] theorem State.wrote_mbx (s : State) (region : Nat) : (State.wrote s region).mbx = s.mbx := rfl
@[simp] theorem State.wrote_cnt (s : State) (region : Nat) : (State.wrote s region).cnt = s.cnt := rfl
@[simp] theorem State.wrote_logs (s : State) (region : Nat) : (State.wrote s region).logs = s.logs := rfl
@[simp] theorem State.wrote_ledger (s : State) (region : Nat) : (State.wrote s region).ledger = s.ledger := rfl
@[simp] theorem State.wrote_galleries (s : State) (region : Nat) : (State.wrote s region).galleries = s.galleries := rfl
@[simp] theorem State.wrote_reg (s : State) (region : Nat) : (State.wrote s region).reg = s.reg := rfl
@[simp] theorem State.wrote_wings (s : State) (region : Nat) : (State.wrote s region).wings = s.wings := rfl
@[simp] theorem State.wrote_path (s : State) (region : Nat) : (State.wrote s region).path = s.path := rfl
@[simp] theorem State.wrote_cap (s : State) (region : Nat) : (State.wrote s region).cap = s.cap := rfl
@[simp] theorem State.wrote_pair (s : State) (region : Nat) : (State.wrote s region).pair = s.pair := rfl
@[simp] theorem State.wrote_maint (s : State) (region : Nat) : (State.wrote s region).maint = s.maint := rfl
@[simp] theorem State.wrote_integ (s : State) (region : Nat) : (State.wrote s region).integ = s.integ := rfl
@[simp] theorem State.wrote_outs (s : State) (region : Nat) : (State.wrote s region).outs = s.outs := rfl
@[simp] theorem State.wrote_free (s : State) (region : Nat) : (State.wrote s region).free = s.free := rfl
@[simp] theorem State.wrote_pending (s : State) (region : Nat) : (State.wrote s region).pending = s.pending := rfl

@[simp] theorem State.updPair_kpr (s : State) (i : Nat) (f : RingPair → RingPair) : (State.updPair s i f).kpr = s.kpr := rfl
@[simp] theorem State.updPair_power (s : State) (i : Nat) (f : RingPair → RingPair) : (State.updPair s i f).power = s.power := rfl
@[simp] theorem State.updPair_mem (s : State) (i : Nat) (f : RingPair → RingPair) : (State.updPair s i f).mem = s.mem := rfl
@[simp] theorem State.updPair_mbx (s : State) (i : Nat) (f : RingPair → RingPair) : (State.updPair s i f).mbx = s.mbx := rfl
@[simp] theorem State.updPair_cnt (s : State) (i : Nat) (f : RingPair → RingPair) : (State.updPair s i f).cnt = s.cnt := rfl
@[simp] theorem State.updPair_logs (s : State) (i : Nat) (f : RingPair → RingPair) : (State.updPair s i f).logs = s.logs := rfl
@[simp] theorem State.updPair_ledger (s : State) (i : Nat) (f : RingPair → RingPair) : (State.updPair s i f).ledger = s.ledger := rfl
@[simp] theorem State.updPair_galleries (s : State) (i : Nat) (f : RingPair → RingPair) : (State.updPair s i f).galleries = s.galleries := rfl
@[simp] theorem State.updPair_reg (s : State) (i : Nat) (f : RingPair → RingPair) : (State.updPair s i f).reg = s.reg := rfl
@[simp] theorem State.updPair_wings (s : State) (i : Nat) (f : RingPair → RingPair) : (State.updPair s i f).wings = s.wings := rfl
@[simp] theorem State.updPair_path (s : State) (i : Nat) (f : RingPair → RingPair) : (State.updPair s i f).path = s.path := rfl
@[simp] theorem State.updPair_cap (s : State) (i : Nat) (f : RingPair → RingPair) : (State.updPair s i f).cap = s.cap := rfl
@[simp] theorem State.updPair_pair (s : State) (i : Nat) (f : RingPair → RingPair) : (State.updPair s i f).pair = s.pair := rfl
@[simp] theorem State.updPair_maint (s : State) (i : Nat) (f : RingPair → RingPair) : (State.updPair s i f).maint = s.maint := rfl
@[simp] theorem State.updPair_integ (s : State) (i : Nat) (f : RingPair → RingPair) : (State.updPair s i f).integ = s.integ := rfl
@[simp] theorem State.updPair_sec (s : State) (i : Nat) (f : RingPair → RingPair) : (State.updPair s i f).sec = s.sec := rfl
@[simp] theorem State.updPair_outs (s : State) (i : Nat) (f : RingPair → RingPair) : (State.updPair s i f).outs = s.outs := rfl
@[simp] theorem State.updPair_free (s : State) (i : Nat) (f : RingPair → RingPair) : (State.updPair s i f).free = s.free := rfl
@[simp] theorem State.updPair_pending (s : State) (i : Nat) (f : RingPair → RingPair) : (State.updPair s i f).pending = s.pending := rfl

@[simp] theorem State.updRes_kpr (s : State) (i : Nat) (f : ResRing → ResRing) : (State.updRes s i f).kpr = s.kpr := rfl
@[simp] theorem State.updRes_power (s : State) (i : Nat) (f : ResRing → ResRing) : (State.updRes s i f).power = s.power := rfl
@[simp] theorem State.updRes_mem (s : State) (i : Nat) (f : ResRing → ResRing) : (State.updRes s i f).mem = s.mem := rfl
@[simp] theorem State.updRes_mbx (s : State) (i : Nat) (f : ResRing → ResRing) : (State.updRes s i f).mbx = s.mbx := rfl
@[simp] theorem State.updRes_cnt (s : State) (i : Nat) (f : ResRing → ResRing) : (State.updRes s i f).cnt = s.cnt := rfl
@[simp] theorem State.updRes_logs (s : State) (i : Nat) (f : ResRing → ResRing) : (State.updRes s i f).logs = s.logs := rfl
@[simp] theorem State.updRes_ledger (s : State) (i : Nat) (f : ResRing → ResRing) : (State.updRes s i f).ledger = s.ledger := rfl
@[simp] theorem State.updRes_galleries (s : State) (i : Nat) (f : ResRing → ResRing) : (State.updRes s i f).galleries = s.galleries := rfl
@[simp] theorem State.updRes_reg (s : State) (i : Nat) (f : ResRing → ResRing) : (State.updRes s i f).reg = s.reg := rfl
@[simp] theorem State.updRes_wings (s : State) (i : Nat) (f : ResRing → ResRing) : (State.updRes s i f).wings = s.wings := rfl
@[simp] theorem State.updRes_path (s : State) (i : Nat) (f : ResRing → ResRing) : (State.updRes s i f).path = s.path := rfl
@[simp] theorem State.updRes_cap (s : State) (i : Nat) (f : ResRing → ResRing) : (State.updRes s i f).cap = s.cap := rfl
@[simp] theorem State.updRes_pair (s : State) (i : Nat) (f : ResRing → ResRing) : (State.updRes s i f).pair = s.pair := rfl
@[simp] theorem State.updRes_maint (s : State) (i : Nat) (f : ResRing → ResRing) : (State.updRes s i f).maint = s.maint := rfl
@[simp] theorem State.updRes_integ (s : State) (i : Nat) (f : ResRing → ResRing) : (State.updRes s i f).integ = s.integ := rfl
@[simp] theorem State.updRes_sec (s : State) (i : Nat) (f : ResRing → ResRing) : (State.updRes s i f).sec = s.sec := rfl
@[simp] theorem State.updRes_outs (s : State) (i : Nat) (f : ResRing → ResRing) : (State.updRes s i f).outs = s.outs := rfl
@[simp] theorem State.updRes_free (s : State) (i : Nat) (f : ResRing → ResRing) : (State.updRes s i f).free = s.free := rfl
@[simp] theorem State.updRes_pending (s : State) (i : Nat) (f : ResRing → ResRing) : (State.updRes s i f).pending = s.pending := rfl

@[simp] theorem State.updChan_kpr (s : State) (n : Nat) (f : Chan → Chan) : (State.updChan s n f).kpr = s.kpr := rfl
@[simp] theorem State.updChan_power (s : State) (n : Nat) (f : Chan → Chan) : (State.updChan s n f).power = s.power := rfl
@[simp] theorem State.updChan_rings (s : State) (n : Nat) (f : Chan → Chan) : (State.updChan s n f).rings = s.rings := rfl
@[simp] theorem State.updChan_mem (s : State) (n : Nat) (f : Chan → Chan) : (State.updChan s n f).mem = s.mem := rfl
@[simp] theorem State.updChan_cnt (s : State) (n : Nat) (f : Chan → Chan) : (State.updChan s n f).cnt = s.cnt := rfl
@[simp] theorem State.updChan_logs (s : State) (n : Nat) (f : Chan → Chan) : (State.updChan s n f).logs = s.logs := rfl
@[simp] theorem State.updChan_ledger (s : State) (n : Nat) (f : Chan → Chan) : (State.updChan s n f).ledger = s.ledger := rfl
@[simp] theorem State.updChan_galleries (s : State) (n : Nat) (f : Chan → Chan) : (State.updChan s n f).galleries = s.galleries := rfl
@[simp] theorem State.updChan_reg (s : State) (n : Nat) (f : Chan → Chan) : (State.updChan s n f).reg = s.reg := rfl
@[simp] theorem State.updChan_wings (s : State) (n : Nat) (f : Chan → Chan) : (State.updChan s n f).wings = s.wings := rfl
@[simp] theorem State.updChan_path (s : State) (n : Nat) (f : Chan → Chan) : (State.updChan s n f).path = s.path := rfl
@[simp] theorem State.updChan_cap (s : State) (n : Nat) (f : Chan → Chan) : (State.updChan s n f).cap = s.cap := rfl
@[simp] theorem State.updChan_pair (s : State) (n : Nat) (f : Chan → Chan) : (State.updChan s n f).pair = s.pair := rfl
@[simp] theorem State.updChan_maint (s : State) (n : Nat) (f : Chan → Chan) : (State.updChan s n f).maint = s.maint := rfl
@[simp] theorem State.updChan_integ (s : State) (n : Nat) (f : Chan → Chan) : (State.updChan s n f).integ = s.integ := rfl
@[simp] theorem State.updChan_outs (s : State) (n : Nat) (f : Chan → Chan) : (State.updChan s n f).outs = s.outs := rfl
@[simp] theorem State.updChan_free (s : State) (n : Nat) (f : Chan → Chan) : (State.updChan s n f).free = s.free := rfl
@[simp] theorem State.updChan_pending (s : State) (n : Nat) (f : Chan → Chan) : (State.updChan s n f).pending = s.pending := rfl

@[simp] theorem State.updWing_kpr (s : State) (w : Nat) (f : Wing → Wing) : (State.updWing s w f).kpr = s.kpr := rfl
@[simp] theorem State.updWing_power (s : State) (w : Nat) (f : Wing → Wing) : (State.updWing s w f).power = s.power := rfl
@[simp] theorem State.updWing_rings (s : State) (w : Nat) (f : Wing → Wing) : (State.updWing s w f).rings = s.rings := rfl
@[simp] theorem State.updWing_mem (s : State) (w : Nat) (f : Wing → Wing) : (State.updWing s w f).mem = s.mem := rfl
@[simp] theorem State.updWing_mbx (s : State) (w : Nat) (f : Wing → Wing) : (State.updWing s w f).mbx = s.mbx := rfl
@[simp] theorem State.updWing_cnt (s : State) (w : Nat) (f : Wing → Wing) : (State.updWing s w f).cnt = s.cnt := rfl
@[simp] theorem State.updWing_logs (s : State) (w : Nat) (f : Wing → Wing) : (State.updWing s w f).logs = s.logs := rfl
@[simp] theorem State.updWing_ledger (s : State) (w : Nat) (f : Wing → Wing) : (State.updWing s w f).ledger = s.ledger := rfl
@[simp] theorem State.updWing_galleries (s : State) (w : Nat) (f : Wing → Wing) : (State.updWing s w f).galleries = s.galleries := rfl
@[simp] theorem State.updWing_reg (s : State) (w : Nat) (f : Wing → Wing) : (State.updWing s w f).reg = s.reg := rfl
@[simp] theorem State.updWing_path (s : State) (w : Nat) (f : Wing → Wing) : (State.updWing s w f).path = s.path := rfl
@[simp] theorem State.updWing_cap (s : State) (w : Nat) (f : Wing → Wing) : (State.updWing s w f).cap = s.cap := rfl
@[simp] theorem State.updWing_pair (s : State) (w : Nat) (f : Wing → Wing) : (State.updWing s w f).pair = s.pair := rfl
@[simp] theorem State.updWing_maint (s : State) (w : Nat) (f : Wing → Wing) : (State.updWing s w f).maint = s.maint := rfl
@[simp] theorem State.updWing_integ (s : State) (w : Nat) (f : Wing → Wing) : (State.updWing s w f).integ = s.integ := rfl
@[simp] theorem State.updWing_sec (s : State) (w : Nat) (f : Wing → Wing) : (State.updWing s w f).sec = s.sec := rfl
@[simp] theorem State.updWing_outs (s : State) (w : Nat) (f : Wing → Wing) : (State.updWing s w f).outs = s.outs := rfl
@[simp] theorem State.updWing_free (s : State) (w : Nat) (f : Wing → Wing) : (State.updWing s w f).free = s.free := rfl
@[simp] theorem State.updWing_pending (s : State) (w : Nat) (f : Wing → Wing) : (State.updWing s w f).pending = s.pending := rfl

@[simp] theorem State.updGal_kpr (s : State) (g : Nat) (f : Gallery → Gallery) : (State.updGal s g f).kpr = s.kpr := rfl
@[simp] theorem State.updGal_power (s : State) (g : Nat) (f : Gallery → Gallery) : (State.updGal s g f).power = s.power := rfl
@[simp] theorem State.updGal_rings (s : State) (g : Nat) (f : Gallery → Gallery) : (State.updGal s g f).rings = s.rings := rfl
@[simp] theorem State.updGal_mem (s : State) (g : Nat) (f : Gallery → Gallery) : (State.updGal s g f).mem = s.mem := rfl
@[simp] theorem State.updGal_mbx (s : State) (g : Nat) (f : Gallery → Gallery) : (State.updGal s g f).mbx = s.mbx := rfl
@[simp] theorem State.updGal_cnt (s : State) (g : Nat) (f : Gallery → Gallery) : (State.updGal s g f).cnt = s.cnt := rfl
@[simp] theorem State.updGal_logs (s : State) (g : Nat) (f : Gallery → Gallery) : (State.updGal s g f).logs = s.logs := rfl
@[simp] theorem State.updGal_ledger (s : State) (g : Nat) (f : Gallery → Gallery) : (State.updGal s g f).ledger = s.ledger := rfl
@[simp] theorem State.updGal_reg (s : State) (g : Nat) (f : Gallery → Gallery) : (State.updGal s g f).reg = s.reg := rfl
@[simp] theorem State.updGal_wings (s : State) (g : Nat) (f : Gallery → Gallery) : (State.updGal s g f).wings = s.wings := rfl
@[simp] theorem State.updGal_path (s : State) (g : Nat) (f : Gallery → Gallery) : (State.updGal s g f).path = s.path := rfl
@[simp] theorem State.updGal_cap (s : State) (g : Nat) (f : Gallery → Gallery) : (State.updGal s g f).cap = s.cap := rfl
@[simp] theorem State.updGal_pair (s : State) (g : Nat) (f : Gallery → Gallery) : (State.updGal s g f).pair = s.pair := rfl
@[simp] theorem State.updGal_maint (s : State) (g : Nat) (f : Gallery → Gallery) : (State.updGal s g f).maint = s.maint := rfl
@[simp] theorem State.updGal_integ (s : State) (g : Nat) (f : Gallery → Gallery) : (State.updGal s g f).integ = s.integ := rfl
@[simp] theorem State.updGal_outs (s : State) (g : Nat) (f : Gallery → Gallery) : (State.updGal s g f).outs = s.outs := rfl
@[simp] theorem State.updGal_free (s : State) (g : Nat) (f : Gallery → Gallery) : (State.updGal s g f).free = s.free := rfl
@[simp] theorem State.updGal_pending (s : State) (g : Nat) (f : Gallery → Gallery) : (State.updGal s g f).pending = s.pending := rfl

@[simp] theorem State.updReq_kpr (s : State) (acc : Nat) (f : Req → Req) : (State.updReq s acc f).kpr = s.kpr := rfl
@[simp] theorem State.updReq_power (s : State) (acc : Nat) (f : Req → Req) : (State.updReq s acc f).power = s.power := rfl
@[simp] theorem State.updReq_rings (s : State) (acc : Nat) (f : Req → Req) : (State.updReq s acc f).rings = s.rings := rfl
@[simp] theorem State.updReq_mem (s : State) (acc : Nat) (f : Req → Req) : (State.updReq s acc f).mem = s.mem := rfl
@[simp] theorem State.updReq_mbx (s : State) (acc : Nat) (f : Req → Req) : (State.updReq s acc f).mbx = s.mbx := rfl
@[simp] theorem State.updReq_cnt (s : State) (acc : Nat) (f : Req → Req) : (State.updReq s acc f).cnt = s.cnt := rfl
@[simp] theorem State.updReq_logs (s : State) (acc : Nat) (f : Req → Req) : (State.updReq s acc f).logs = s.logs := rfl
@[simp] theorem State.updReq_ledger (s : State) (acc : Nat) (f : Req → Req) : (State.updReq s acc f).ledger = s.ledger := rfl
@[simp] theorem State.updReq_galleries (s : State) (acc : Nat) (f : Req → Req) : (State.updReq s acc f).galleries = s.galleries := rfl
@[simp] theorem State.updReq_wings (s : State) (acc : Nat) (f : Req → Req) : (State.updReq s acc f).wings = s.wings := rfl
@[simp] theorem State.updReq_path (s : State) (acc : Nat) (f : Req → Req) : (State.updReq s acc f).path = s.path := rfl
@[simp] theorem State.updReq_cap (s : State) (acc : Nat) (f : Req → Req) : (State.updReq s acc f).cap = s.cap := rfl
@[simp] theorem State.updReq_pair (s : State) (acc : Nat) (f : Req → Req) : (State.updReq s acc f).pair = s.pair := rfl
@[simp] theorem State.updReq_maint (s : State) (acc : Nat) (f : Req → Req) : (State.updReq s acc f).maint = s.maint := rfl
@[simp] theorem State.updReq_integ (s : State) (acc : Nat) (f : Req → Req) : (State.updReq s acc f).integ = s.integ := rfl
@[simp] theorem State.updReq_outs (s : State) (acc : Nat) (f : Req → Req) : (State.updReq s acc f).outs = s.outs := rfl
@[simp] theorem State.updReq_free (s : State) (acc : Nat) (f : Req → Req) : (State.updReq s acc f).free = s.free := rfl
@[simp] theorem State.updReq_pending (s : State) (acc : Nat) (f : Req → Req) : (State.updReq s acc f).pending = s.pending := rfl

@[simp] theorem State.emit_kpr (s : State) (o : PortOut) : (State.emit s o).kpr = s.kpr := rfl
@[simp] theorem State.emit_power (s : State) (o : PortOut) : (State.emit s o).power = s.power := rfl
@[simp] theorem State.emit_rings (s : State) (o : PortOut) : (State.emit s o).rings = s.rings := rfl
@[simp] theorem State.emit_mem (s : State) (o : PortOut) : (State.emit s o).mem = s.mem := rfl
@[simp] theorem State.emit_mbx (s : State) (o : PortOut) : (State.emit s o).mbx = s.mbx := rfl
@[simp] theorem State.emit_cnt (s : State) (o : PortOut) : (State.emit s o).cnt = s.cnt := rfl
@[simp] theorem State.emit_logs (s : State) (o : PortOut) : (State.emit s o).logs = s.logs := rfl
@[simp] theorem State.emit_ledger (s : State) (o : PortOut) : (State.emit s o).ledger = s.ledger := rfl
@[simp] theorem State.emit_galleries (s : State) (o : PortOut) : (State.emit s o).galleries = s.galleries := rfl
@[simp] theorem State.emit_reg (s : State) (o : PortOut) : (State.emit s o).reg = s.reg := rfl
@[simp] theorem State.emit_wings (s : State) (o : PortOut) : (State.emit s o).wings = s.wings := rfl
@[simp] theorem State.emit_path (s : State) (o : PortOut) : (State.emit s o).path = s.path := rfl
@[simp] theorem State.emit_cap (s : State) (o : PortOut) : (State.emit s o).cap = s.cap := rfl
@[simp] theorem State.emit_pair (s : State) (o : PortOut) : (State.emit s o).pair = s.pair := rfl
@[simp] theorem State.emit_maint (s : State) (o : PortOut) : (State.emit s o).maint = s.maint := rfl
@[simp] theorem State.emit_integ (s : State) (o : PortOut) : (State.emit s o).integ = s.integ := rfl
@[simp] theorem State.emit_sec (s : State) (o : PortOut) : (State.emit s o).sec = s.sec := rfl
@[simp] theorem State.emit_free (s : State) (o : PortOut) : (State.emit s o).free = s.free := rfl
@[simp] theorem State.emit_pending (s : State) (o : PortOut) : (State.emit s o).pending = s.pending := rfl

@[simp] theorem State.drawn_kpr (s : State) : (State.drawn s).kpr = s.kpr := by unfold State.drawn; dsimp only; split <;> rfl
@[simp] theorem State.drawn_power (s : State) : (State.drawn s).power = s.power := by unfold State.drawn; dsimp only; split <;> rfl
@[simp] theorem State.drawn_rings (s : State) : (State.drawn s).rings = s.rings := by unfold State.drawn; dsimp only; split <;> rfl
@[simp] theorem State.drawn_mem (s : State) : (State.drawn s).mem = s.mem := by unfold State.drawn; dsimp only; split <;> rfl
@[simp] theorem State.drawn_mbx (s : State) : (State.drawn s).mbx = s.mbx := by unfold State.drawn; dsimp only; split <;> rfl
@[simp] theorem State.drawn_cnt (s : State) : (State.drawn s).cnt = s.cnt := by unfold State.drawn; dsimp only; split <;> rfl
@[simp] theorem State.drawn_logs (s : State) : (State.drawn s).logs = s.logs := by unfold State.drawn; dsimp only; split <;> rfl
@[simp] theorem State.drawn_ledger (s : State) : (State.drawn s).ledger = s.ledger := by unfold State.drawn; dsimp only; split <;> rfl
@[simp] theorem State.drawn_galleries (s : State) : (State.drawn s).galleries = s.galleries := by unfold State.drawn; dsimp only; split <;> rfl
@[simp] theorem State.drawn_reg (s : State) : (State.drawn s).reg = s.reg := by unfold State.drawn; dsimp only; split <;> rfl
@[simp] theorem State.drawn_wings (s : State) : (State.drawn s).wings = s.wings := by unfold State.drawn; dsimp only; split <;> rfl
@[simp] theorem State.drawn_path (s : State) : (State.drawn s).path = s.path := by unfold State.drawn; dsimp only; split <;> rfl
@[simp] theorem State.drawn_cap (s : State) : (State.drawn s).cap = s.cap := by unfold State.drawn; dsimp only; split <;> rfl
@[simp] theorem State.drawn_pair (s : State) : (State.drawn s).pair = s.pair := by unfold State.drawn; dsimp only; split <;> rfl
@[simp] theorem State.drawn_maint (s : State) : (State.drawn s).maint = s.maint := by unfold State.drawn; dsimp only; split <;> rfl
@[simp] theorem State.drawn_integ (s : State) : (State.drawn s).integ = s.integ := by unfold State.drawn; dsimp only; split <;> rfl
@[simp] theorem State.drawn_outs (s : State) : (State.drawn s).outs = s.outs := by unfold State.drawn; dsimp only; split <;> rfl
@[simp] theorem State.drawn_pending (s : State) : (State.drawn s).pending = s.pending := by unfold State.drawn; dsimp only; split <;> rfl

@[simp] theorem State.bank_kpr (s : State) (delay : Nat) (op : BankOp) : (State.bank s delay op).kpr = s.kpr := rfl
@[simp] theorem State.bank_power (s : State) (delay : Nat) (op : BankOp) : (State.bank s delay op).power = s.power := rfl
@[simp] theorem State.bank_rings (s : State) (delay : Nat) (op : BankOp) : (State.bank s delay op).rings = s.rings := rfl
@[simp] theorem State.bank_mem (s : State) (delay : Nat) (op : BankOp) : (State.bank s delay op).mem = s.mem := rfl
@[simp] theorem State.bank_mbx (s : State) (delay : Nat) (op : BankOp) : (State.bank s delay op).mbx = s.mbx := rfl
@[simp] theorem State.bank_logs (s : State) (delay : Nat) (op : BankOp) : (State.bank s delay op).logs = s.logs := rfl
@[simp] theorem State.bank_ledger (s : State) (delay : Nat) (op : BankOp) : (State.bank s delay op).ledger = s.ledger := rfl
@[simp] theorem State.bank_galleries (s : State) (delay : Nat) (op : BankOp) : (State.bank s delay op).galleries = s.galleries := rfl
@[simp] theorem State.bank_reg (s : State) (delay : Nat) (op : BankOp) : (State.bank s delay op).reg = s.reg := rfl
@[simp] theorem State.bank_wings (s : State) (delay : Nat) (op : BankOp) : (State.bank s delay op).wings = s.wings := rfl
@[simp] theorem State.bank_path (s : State) (delay : Nat) (op : BankOp) : (State.bank s delay op).path = s.path := rfl
@[simp] theorem State.bank_cap (s : State) (delay : Nat) (op : BankOp) : (State.bank s delay op).cap = s.cap := rfl
@[simp] theorem State.bank_pair (s : State) (delay : Nat) (op : BankOp) : (State.bank s delay op).pair = s.pair := rfl
@[simp] theorem State.bank_maint (s : State) (delay : Nat) (op : BankOp) : (State.bank s delay op).maint = s.maint := rfl
@[simp] theorem State.bank_integ (s : State) (delay : Nat) (op : BankOp) : (State.bank s delay op).integ = s.integ := rfl
@[simp] theorem State.bank_sec (s : State) (delay : Nat) (op : BankOp) : (State.bank s delay op).sec = s.sec := rfl
@[simp] theorem State.bank_outs (s : State) (delay : Nat) (op : BankOp) : (State.bank s delay op).outs = s.outs := rfl
@[simp] theorem State.bank_free (s : State) (delay : Nat) (op : BankOp) : (State.bank s delay op).free = s.free := rfl
@[simp] theorem State.bank_pending (s : State) (delay : Nat) (op : BankOp) : (State.bank s delay op).pending = s.pending := rfl

@[simp] theorem State.ledgerAdd_kpr (s : State) (i : Nat) (n : Nat) : (State.ledgerAdd s i n).kpr = s.kpr := rfl
@[simp] theorem State.ledgerAdd_power (s : State) (i : Nat) (n : Nat) : (State.ledgerAdd s i n).power = s.power := rfl
@[simp] theorem State.ledgerAdd_rings (s : State) (i : Nat) (n : Nat) : (State.ledgerAdd s i n).rings = s.rings := rfl
@[simp] theorem State.ledgerAdd_mem (s : State) (i : Nat) (n : Nat) : (State.ledgerAdd s i n).mem = s.mem := rfl
@[simp] theorem State.ledgerAdd_mbx (s : State) (i : Nat) (n : Nat) : (State.ledgerAdd s i n).mbx = s.mbx := rfl
@[simp] theorem State.ledgerAdd_cnt (s : State) (i : Nat) (n : Nat) : (State.ledgerAdd s i n).cnt = s.cnt := rfl
@[simp] theorem State.ledgerAdd_logs (s : State) (i : Nat) (n : Nat) : (State.ledgerAdd s i n).logs = s.logs := rfl
@[simp] theorem State.ledgerAdd_galleries (s : State) (i : Nat) (n : Nat) : (State.ledgerAdd s i n).galleries = s.galleries := rfl
@[simp] theorem State.ledgerAdd_reg (s : State) (i : Nat) (n : Nat) : (State.ledgerAdd s i n).reg = s.reg := rfl
@[simp] theorem State.ledgerAdd_wings (s : State) (i : Nat) (n : Nat) : (State.ledgerAdd s i n).wings = s.wings := rfl
@[simp] theorem State.ledgerAdd_path (s : State) (i : Nat) (n : Nat) : (State.ledgerAdd s i n).path = s.path := rfl
@[simp] theorem State.ledgerAdd_cap (s : State) (i : Nat) (n : Nat) : (State.ledgerAdd s i n).cap = s.cap := rfl
@[simp] theorem State.ledgerAdd_pair (s : State) (i : Nat) (n : Nat) : (State.ledgerAdd s i n).pair = s.pair := rfl
@[simp] theorem State.ledgerAdd_maint (s : State) (i : Nat) (n : Nat) : (State.ledgerAdd s i n).maint = s.maint := rfl
@[simp] theorem State.ledgerAdd_integ (s : State) (i : Nat) (n : Nat) : (State.ledgerAdd s i n).integ = s.integ := rfl
@[simp] theorem State.ledgerAdd_sec (s : State) (i : Nat) (n : Nat) : (State.ledgerAdd s i n).sec = s.sec := rfl
@[simp] theorem State.ledgerAdd_outs (s : State) (i : Nat) (n : Nat) : (State.ledgerAdd s i n).outs = s.outs := rfl
@[simp] theorem State.ledgerAdd_free (s : State) (i : Nat) (n : Nat) : (State.ledgerAdd s i n).free = s.free := rfl
@[simp] theorem State.ledgerAdd_pending (s : State) (i : Nat) (n : Nat) : (State.ledgerAdd s i n).pending = s.pending := rfl

@[simp] theorem State.ledgerSet_kpr (s : State) (i : Nat) (n : Nat) : (State.ledgerSet s i n).kpr = s.kpr := rfl
@[simp] theorem State.ledgerSet_power (s : State) (i : Nat) (n : Nat) : (State.ledgerSet s i n).power = s.power := rfl
@[simp] theorem State.ledgerSet_rings (s : State) (i : Nat) (n : Nat) : (State.ledgerSet s i n).rings = s.rings := rfl
@[simp] theorem State.ledgerSet_mem (s : State) (i : Nat) (n : Nat) : (State.ledgerSet s i n).mem = s.mem := rfl
@[simp] theorem State.ledgerSet_mbx (s : State) (i : Nat) (n : Nat) : (State.ledgerSet s i n).mbx = s.mbx := rfl
@[simp] theorem State.ledgerSet_cnt (s : State) (i : Nat) (n : Nat) : (State.ledgerSet s i n).cnt = s.cnt := rfl
@[simp] theorem State.ledgerSet_logs (s : State) (i : Nat) (n : Nat) : (State.ledgerSet s i n).logs = s.logs := rfl
@[simp] theorem State.ledgerSet_galleries (s : State) (i : Nat) (n : Nat) : (State.ledgerSet s i n).galleries = s.galleries := rfl
@[simp] theorem State.ledgerSet_reg (s : State) (i : Nat) (n : Nat) : (State.ledgerSet s i n).reg = s.reg := rfl
@[simp] theorem State.ledgerSet_wings (s : State) (i : Nat) (n : Nat) : (State.ledgerSet s i n).wings = s.wings := rfl
@[simp] theorem State.ledgerSet_path (s : State) (i : Nat) (n : Nat) : (State.ledgerSet s i n).path = s.path := rfl
@[simp] theorem State.ledgerSet_cap (s : State) (i : Nat) (n : Nat) : (State.ledgerSet s i n).cap = s.cap := rfl
@[simp] theorem State.ledgerSet_pair (s : State) (i : Nat) (n : Nat) : (State.ledgerSet s i n).pair = s.pair := rfl
@[simp] theorem State.ledgerSet_maint (s : State) (i : Nat) (n : Nat) : (State.ledgerSet s i n).maint = s.maint := rfl
@[simp] theorem State.ledgerSet_integ (s : State) (i : Nat) (n : Nat) : (State.ledgerSet s i n).integ = s.integ := rfl
@[simp] theorem State.ledgerSet_sec (s : State) (i : Nat) (n : Nat) : (State.ledgerSet s i n).sec = s.sec := rfl
@[simp] theorem State.ledgerSet_outs (s : State) (i : Nat) (n : Nat) : (State.ledgerSet s i n).outs = s.outs := rfl
@[simp] theorem State.ledgerSet_free (s : State) (i : Nat) (n : Nat) : (State.ledgerSet s i n).free = s.free := rfl
@[simp] theorem State.ledgerSet_pending (s : State) (i : Nat) (n : Nat) : (State.ledgerSet s i n).pending = s.pending := rfl

@[simp] theorem State.respond_kpr (s : State) (mid : Byte) (ok : Bool) (data : List Byte) : (State.respond s mid ok data).kpr = s.kpr := rfl
@[simp] theorem State.respond_power (s : State) (mid : Byte) (ok : Bool) (data : List Byte) : (State.respond s mid ok data).power = s.power := rfl
@[simp] theorem State.respond_mem (s : State) (mid : Byte) (ok : Bool) (data : List Byte) : (State.respond s mid ok data).mem = s.mem := rfl
@[simp] theorem State.respond_mbx (s : State) (mid : Byte) (ok : Bool) (data : List Byte) : (State.respond s mid ok data).mbx = s.mbx := rfl
@[simp] theorem State.respond_cnt (s : State) (mid : Byte) (ok : Bool) (data : List Byte) : (State.respond s mid ok data).cnt = s.cnt := rfl
@[simp] theorem State.respond_logs (s : State) (mid : Byte) (ok : Bool) (data : List Byte) : (State.respond s mid ok data).logs = s.logs := rfl
@[simp] theorem State.respond_ledger (s : State) (mid : Byte) (ok : Bool) (data : List Byte) : (State.respond s mid ok data).ledger = s.ledger := rfl
@[simp] theorem State.respond_galleries (s : State) (mid : Byte) (ok : Bool) (data : List Byte) : (State.respond s mid ok data).galleries = s.galleries := rfl
@[simp] theorem State.respond_reg (s : State) (mid : Byte) (ok : Bool) (data : List Byte) : (State.respond s mid ok data).reg = s.reg := rfl
@[simp] theorem State.respond_wings (s : State) (mid : Byte) (ok : Bool) (data : List Byte) : (State.respond s mid ok data).wings = s.wings := rfl
@[simp] theorem State.respond_path (s : State) (mid : Byte) (ok : Bool) (data : List Byte) : (State.respond s mid ok data).path = s.path := rfl
@[simp] theorem State.respond_cap (s : State) (mid : Byte) (ok : Bool) (data : List Byte) : (State.respond s mid ok data).cap = s.cap := rfl
@[simp] theorem State.respond_pair (s : State) (mid : Byte) (ok : Bool) (data : List Byte) : (State.respond s mid ok data).pair = s.pair := rfl
@[simp] theorem State.respond_maint (s : State) (mid : Byte) (ok : Bool) (data : List Byte) : (State.respond s mid ok data).maint = s.maint := rfl
@[simp] theorem State.respond_integ (s : State) (mid : Byte) (ok : Bool) (data : List Byte) : (State.respond s mid ok data).integ = s.integ := rfl
@[simp] theorem State.respond_sec (s : State) (mid : Byte) (ok : Bool) (data : List Byte) : (State.respond s mid ok data).sec = s.sec := rfl
@[simp] theorem State.respond_outs (s : State) (mid : Byte) (ok : Bool) (data : List Byte) : (State.respond s mid ok data).outs = s.outs := rfl
@[simp] theorem State.respond_free (s : State) (mid : Byte) (ok : Bool) (data : List Byte) : (State.respond s mid ok data).free = s.free := rfl
@[simp] theorem State.respond_pending (s : State) (mid : Byte) (ok : Bool) (data : List Byte) : (State.respond s mid ok data).pending = s.pending := rfl

@[simp] theorem State.applied_kpr (s : State) : (State.applied s).kpr = s.kpr := rfl
@[simp] theorem State.applied_power (s : State) : (State.applied s).power = s.power := rfl
@[simp] theorem State.applied_mem (s : State) : (State.applied s).mem = s.mem := rfl
@[simp] theorem State.applied_mbx (s : State) : (State.applied s).mbx = s.mbx := rfl
@[simp] theorem State.applied_cnt (s : State) : (State.applied s).cnt = s.cnt := rfl
@[simp] theorem State.applied_logs (s : State) : (State.applied s).logs = s.logs := rfl
@[simp] theorem State.applied_ledger (s : State) : (State.applied s).ledger = s.ledger := rfl
@[simp] theorem State.applied_galleries (s : State) : (State.applied s).galleries = s.galleries := rfl
@[simp] theorem State.applied_reg (s : State) : (State.applied s).reg = s.reg := rfl
@[simp] theorem State.applied_wings (s : State) : (State.applied s).wings = s.wings := rfl
@[simp] theorem State.applied_path (s : State) : (State.applied s).path = s.path := rfl
@[simp] theorem State.applied_cap (s : State) : (State.applied s).cap = s.cap := rfl
@[simp] theorem State.applied_pair (s : State) : (State.applied s).pair = s.pair := rfl
@[simp] theorem State.applied_maint (s : State) : (State.applied s).maint = s.maint := rfl
@[simp] theorem State.applied_integ (s : State) : (State.applied s).integ = s.integ := rfl
@[simp] theorem State.applied_sec (s : State) : (State.applied s).sec = s.sec := rfl
@[simp] theorem State.applied_outs (s : State) : (State.applied s).outs = s.outs := rfl
@[simp] theorem State.applied_free (s : State) : (State.applied s).free = s.free := rfl
@[simp] theorem State.applied_pending (s : State) : (State.applied s).pending = s.pending := rfl

@[simp] theorem State.advance_kpr (s : State) (i : Nat) (units : Nat) : (State.advance s i units).kpr = s.kpr := rfl
@[simp] theorem State.advance_power (s : State) (i : Nat) (units : Nat) : (State.advance s i units).power = s.power := rfl
@[simp] theorem State.advance_mem (s : State) (i : Nat) (units : Nat) : (State.advance s i units).mem = s.mem := rfl
@[simp] theorem State.advance_mbx (s : State) (i : Nat) (units : Nat) : (State.advance s i units).mbx = s.mbx := rfl
@[simp] theorem State.advance_cnt (s : State) (i : Nat) (units : Nat) : (State.advance s i units).cnt = s.cnt := rfl
@[simp] theorem State.advance_logs (s : State) (i : Nat) (units : Nat) : (State.advance s i units).logs = s.logs := rfl
@[simp] theorem State.advance_ledger (s : State) (i : Nat) (units : Nat) : (State.advance s i units).ledger = s.ledger := rfl
@[simp] theorem State.advance_galleries (s : State) (i : Nat) (units : Nat) : (State.advance s i units).galleries = s.galleries := rfl
@[simp] theorem State.advance_reg (s : State) (i : Nat) (units : Nat) : (State.advance s i units).reg = s.reg := rfl
@[simp] theorem State.advance_wings (s : State) (i : Nat) (units : Nat) : (State.advance s i units).wings = s.wings := rfl
@[simp] theorem State.advance_path (s : State) (i : Nat) (units : Nat) : (State.advance s i units).path = s.path := rfl
@[simp] theorem State.advance_cap (s : State) (i : Nat) (units : Nat) : (State.advance s i units).cap = s.cap := rfl
@[simp] theorem State.advance_pair (s : State) (i : Nat) (units : Nat) : (State.advance s i units).pair = s.pair := rfl
@[simp] theorem State.advance_maint (s : State) (i : Nat) (units : Nat) : (State.advance s i units).maint = s.maint := rfl
@[simp] theorem State.advance_integ (s : State) (i : Nat) (units : Nat) : (State.advance s i units).integ = s.integ := rfl
@[simp] theorem State.advance_sec (s : State) (i : Nat) (units : Nat) : (State.advance s i units).sec = s.sec := rfl
@[simp] theorem State.advance_outs (s : State) (i : Nat) (units : Nat) : (State.advance s i units).outs = s.outs := rfl
@[simp] theorem State.advance_free (s : State) (i : Nat) (units : Nat) : (State.advance s i units).free = s.free := rfl
@[simp] theorem State.advance_pending (s : State) (i : Nat) (units : Nat) : (State.advance s i units).pending = s.pending := rfl

@[simp] theorem State.atPhase_power (s : State) (p : Byte) : (State.atPhase s p).power = s.power := rfl
@[simp] theorem State.atPhase_rings (s : State) (p : Byte) : (State.atPhase s p).rings = s.rings := rfl
@[simp] theorem State.atPhase_mem (s : State) (p : Byte) : (State.atPhase s p).mem = s.mem := rfl
@[simp] theorem State.atPhase_mbx (s : State) (p : Byte) : (State.atPhase s p).mbx = s.mbx := rfl
@[simp] theorem State.atPhase_cnt (s : State) (p : Byte) : (State.atPhase s p).cnt = s.cnt := rfl
@[simp] theorem State.atPhase_logs (s : State) (p : Byte) : (State.atPhase s p).logs = s.logs := rfl
@[simp] theorem State.atPhase_ledger (s : State) (p : Byte) : (State.atPhase s p).ledger = s.ledger := rfl
@[simp] theorem State.atPhase_galleries (s : State) (p : Byte) : (State.atPhase s p).galleries = s.galleries := rfl
@[simp] theorem State.atPhase_reg (s : State) (p : Byte) : (State.atPhase s p).reg = s.reg := rfl
@[simp] theorem State.atPhase_wings (s : State) (p : Byte) : (State.atPhase s p).wings = s.wings := rfl
@[simp] theorem State.atPhase_path (s : State) (p : Byte) : (State.atPhase s p).path = s.path := rfl
@[simp] theorem State.atPhase_cap (s : State) (p : Byte) : (State.atPhase s p).cap = s.cap := rfl
@[simp] theorem State.atPhase_pair (s : State) (p : Byte) : (State.atPhase s p).pair = s.pair := rfl
@[simp] theorem State.atPhase_maint (s : State) (p : Byte) : (State.atPhase s p).maint = s.maint := rfl
@[simp] theorem State.atPhase_integ (s : State) (p : Byte) : (State.atPhase s p).integ = s.integ := rfl
@[simp] theorem State.atPhase_sec (s : State) (p : Byte) : (State.atPhase s p).sec = s.sec := rfl
@[simp] theorem State.atPhase_outs (s : State) (p : Byte) : (State.atPhase s p).outs = s.outs := rfl
@[simp] theorem State.atPhase_free (s : State) (p : Byte) : (State.atPhase s p).free = s.free := rfl
@[simp] theorem State.atPhase_pending (s : State) (p : Byte) : (State.atPhase s p).pending = s.pending := rfl

@[simp] theorem State.bootHalt_power (s : State) (code : Byte) : (State.bootHalt s code).power = s.power := rfl
@[simp] theorem State.bootHalt_rings (s : State) (code : Byte) : (State.bootHalt s code).rings = s.rings := rfl
@[simp] theorem State.bootHalt_mem (s : State) (code : Byte) : (State.bootHalt s code).mem = s.mem := rfl
@[simp] theorem State.bootHalt_mbx (s : State) (code : Byte) : (State.bootHalt s code).mbx = s.mbx := rfl
@[simp] theorem State.bootHalt_cnt (s : State) (code : Byte) : (State.bootHalt s code).cnt = s.cnt := rfl
@[simp] theorem State.bootHalt_logs (s : State) (code : Byte) : (State.bootHalt s code).logs = s.logs := rfl
@[simp] theorem State.bootHalt_ledger (s : State) (code : Byte) : (State.bootHalt s code).ledger = s.ledger := rfl
@[simp] theorem State.bootHalt_galleries (s : State) (code : Byte) : (State.bootHalt s code).galleries = s.galleries := rfl
@[simp] theorem State.bootHalt_reg (s : State) (code : Byte) : (State.bootHalt s code).reg = s.reg := rfl
@[simp] theorem State.bootHalt_wings (s : State) (code : Byte) : (State.bootHalt s code).wings = s.wings := rfl
@[simp] theorem State.bootHalt_path (s : State) (code : Byte) : (State.bootHalt s code).path = s.path := rfl
@[simp] theorem State.bootHalt_cap (s : State) (code : Byte) : (State.bootHalt s code).cap = s.cap := rfl
@[simp] theorem State.bootHalt_pair (s : State) (code : Byte) : (State.bootHalt s code).pair = s.pair := rfl
@[simp] theorem State.bootHalt_maint (s : State) (code : Byte) : (State.bootHalt s code).maint = s.maint := rfl
@[simp] theorem State.bootHalt_integ (s : State) (code : Byte) : (State.bootHalt s code).integ = s.integ := rfl
@[simp] theorem State.bootHalt_sec (s : State) (code : Byte) : (State.bootHalt s code).sec = s.sec := rfl
@[simp] theorem State.bootHalt_outs (s : State) (code : Byte) : (State.bootHalt s code).outs = s.outs := rfl
@[simp] theorem State.bootHalt_free (s : State) (code : Byte) : (State.bootHalt s code).free = s.free := rfl
@[simp] theorem State.bootHalt_pending (s : State) (code : Byte) : (State.bootHalt s code).pending = s.pending := rfl

@[simp] theorem State.count_kpr (s : State) (g : Nat) (i : Nat) (n : Nat) : (State.count s g i n).kpr = s.kpr := by unfold State.count; (try dsimp only); (repeat' split) <;> first | rfl | simp
@[simp] theorem State.count_power (s : State) (g : Nat) (i : Nat) (n : Nat) : (State.count s g i n).power = s.power := by unfold State.count; (try dsimp only); (repeat' split) <;> first | rfl | simp
@[simp] theorem State.count_rings (s : State) (g : Nat) (i : Nat) (n : Nat) : (State.count s g i n).rings = s.rings := by unfold State.count; (try dsimp only); (repeat' split) <;> first | rfl | simp
@[simp] theorem State.count_mem (s : State) (g : Nat) (i : Nat) (n : Nat) : (State.count s g i n).mem = s.mem := by unfold State.count; (try dsimp only); (repeat' split) <;> first | rfl | simp
@[simp] theorem State.count_mbx (s : State) (g : Nat) (i : Nat) (n : Nat) : (State.count s g i n).mbx = s.mbx := by unfold State.count; (try dsimp only); (repeat' split) <;> first | rfl | simp
@[simp] theorem State.count_logs (s : State) (g : Nat) (i : Nat) (n : Nat) : (State.count s g i n).logs = s.logs := by unfold State.count; (try dsimp only); (repeat' split) <;> first | rfl | simp
@[simp] theorem State.count_ledger (s : State) (g : Nat) (i : Nat) (n : Nat) : (State.count s g i n).ledger = s.ledger := by unfold State.count; (try dsimp only); (repeat' split) <;> first | rfl | simp
@[simp] theorem State.count_galleries (s : State) (g : Nat) (i : Nat) (n : Nat) : (State.count s g i n).galleries = s.galleries := by unfold State.count; (try dsimp only); (repeat' split) <;> first | rfl | simp
@[simp] theorem State.count_reg (s : State) (g : Nat) (i : Nat) (n : Nat) : (State.count s g i n).reg = s.reg := by unfold State.count; (try dsimp only); (repeat' split) <;> first | rfl | simp
@[simp] theorem State.count_wings (s : State) (g : Nat) (i : Nat) (n : Nat) : (State.count s g i n).wings = s.wings := by unfold State.count; (try dsimp only); (repeat' split) <;> first | rfl | simp
@[simp] theorem State.count_path (s : State) (g : Nat) (i : Nat) (n : Nat) : (State.count s g i n).path = s.path := by unfold State.count; (try dsimp only); (repeat' split) <;> first | rfl | simp
@[simp] theorem State.count_cap (s : State) (g : Nat) (i : Nat) (n : Nat) : (State.count s g i n).cap = s.cap := by unfold State.count; (try dsimp only); (repeat' split) <;> first | rfl | simp
@[simp] theorem State.count_pair (s : State) (g : Nat) (i : Nat) (n : Nat) : (State.count s g i n).pair = s.pair := by unfold State.count; (try dsimp only); (repeat' split) <;> first | rfl | simp
@[simp] theorem State.count_maint (s : State) (g : Nat) (i : Nat) (n : Nat) : (State.count s g i n).maint = s.maint := by unfold State.count; (try dsimp only); (repeat' split) <;> first | rfl | simp
@[simp] theorem State.count_integ (s : State) (g : Nat) (i : Nat) (n : Nat) : (State.count s g i n).integ = s.integ := by unfold State.count; (try dsimp only); (repeat' split) <;> first | rfl | simp
@[simp] theorem State.count_sec (s : State) (g : Nat) (i : Nat) (n : Nat) : (State.count s g i n).sec = s.sec := by unfold State.count; (try dsimp only); (repeat' split) <;> first | rfl | simp
@[simp] theorem State.count_outs (s : State) (g : Nat) (i : Nat) (n : Nat) : (State.count s g i n).outs = s.outs := by unfold State.count; (try dsimp only); (repeat' split) <;> first | rfl | simp
@[simp] theorem State.count_free (s : State) (g : Nat) (i : Nat) (n : Nat) : (State.count s g i n).free = s.free := by unfold State.count; (try dsimp only); (repeat' split) <;> first | rfl | simp
@[simp] theorem State.count_pending (s : State) (g : Nat) (i : Nat) (n : Nat) : (State.count s g i n).pending = s.pending := by unfold State.count; (try dsimp only); (repeat' split) <;> first | rfl | simp

@[simp] theorem State.gaugeMax_kpr (s : State) (g : Nat) (i : Nat) (n : Nat) : (State.gaugeMax s g i n).kpr = s.kpr := by unfold State.gaugeMax; (try dsimp only); (repeat' split) <;> first | rfl | simp
@[simp] theorem State.gaugeMax_power (s : State) (g : Nat) (i : Nat) (n : Nat) : (State.gaugeMax s g i n).power = s.power := by unfold State.gaugeMax; (try dsimp only); (repeat' split) <;> first | rfl | simp
@[simp] theorem State.gaugeMax_rings (s : State) (g : Nat) (i : Nat) (n : Nat) : (State.gaugeMax s g i n).rings = s.rings := by unfold State.gaugeMax; (try dsimp only); (repeat' split) <;> first | rfl | simp
@[simp] theorem State.gaugeMax_mem (s : State) (g : Nat) (i : Nat) (n : Nat) : (State.gaugeMax s g i n).mem = s.mem := by unfold State.gaugeMax; (try dsimp only); (repeat' split) <;> first | rfl | simp
@[simp] theorem State.gaugeMax_mbx (s : State) (g : Nat) (i : Nat) (n : Nat) : (State.gaugeMax s g i n).mbx = s.mbx := by unfold State.gaugeMax; (try dsimp only); (repeat' split) <;> first | rfl | simp
@[simp] theorem State.gaugeMax_logs (s : State) (g : Nat) (i : Nat) (n : Nat) : (State.gaugeMax s g i n).logs = s.logs := by unfold State.gaugeMax; (try dsimp only); (repeat' split) <;> first | rfl | simp
@[simp] theorem State.gaugeMax_ledger (s : State) (g : Nat) (i : Nat) (n : Nat) : (State.gaugeMax s g i n).ledger = s.ledger := by unfold State.gaugeMax; (try dsimp only); (repeat' split) <;> first | rfl | simp
@[simp] theorem State.gaugeMax_galleries (s : State) (g : Nat) (i : Nat) (n : Nat) : (State.gaugeMax s g i n).galleries = s.galleries := by unfold State.gaugeMax; (try dsimp only); (repeat' split) <;> first | rfl | simp
@[simp] theorem State.gaugeMax_reg (s : State) (g : Nat) (i : Nat) (n : Nat) : (State.gaugeMax s g i n).reg = s.reg := by unfold State.gaugeMax; (try dsimp only); (repeat' split) <;> first | rfl | simp
@[simp] theorem State.gaugeMax_wings (s : State) (g : Nat) (i : Nat) (n : Nat) : (State.gaugeMax s g i n).wings = s.wings := by unfold State.gaugeMax; (try dsimp only); (repeat' split) <;> first | rfl | simp
@[simp] theorem State.gaugeMax_path (s : State) (g : Nat) (i : Nat) (n : Nat) : (State.gaugeMax s g i n).path = s.path := by unfold State.gaugeMax; (try dsimp only); (repeat' split) <;> first | rfl | simp
@[simp] theorem State.gaugeMax_cap (s : State) (g : Nat) (i : Nat) (n : Nat) : (State.gaugeMax s g i n).cap = s.cap := by unfold State.gaugeMax; (try dsimp only); (repeat' split) <;> first | rfl | simp
@[simp] theorem State.gaugeMax_pair (s : State) (g : Nat) (i : Nat) (n : Nat) : (State.gaugeMax s g i n).pair = s.pair := by unfold State.gaugeMax; (try dsimp only); (repeat' split) <;> first | rfl | simp
@[simp] theorem State.gaugeMax_maint (s : State) (g : Nat) (i : Nat) (n : Nat) : (State.gaugeMax s g i n).maint = s.maint := by unfold State.gaugeMax; (try dsimp only); (repeat' split) <;> first | rfl | simp
@[simp] theorem State.gaugeMax_integ (s : State) (g : Nat) (i : Nat) (n : Nat) : (State.gaugeMax s g i n).integ = s.integ := by unfold State.gaugeMax; (try dsimp only); (repeat' split) <;> first | rfl | simp
@[simp] theorem State.gaugeMax_sec (s : State) (g : Nat) (i : Nat) (n : Nat) : (State.gaugeMax s g i n).sec = s.sec := by unfold State.gaugeMax; (try dsimp only); (repeat' split) <;> first | rfl | simp
@[simp] theorem State.gaugeMax_outs (s : State) (g : Nat) (i : Nat) (n : Nat) : (State.gaugeMax s g i n).outs = s.outs := by unfold State.gaugeMax; (try dsimp only); (repeat' split) <;> first | rfl | simp
@[simp] theorem State.gaugeMax_free (s : State) (g : Nat) (i : Nat) (n : Nat) : (State.gaugeMax s g i n).free = s.free := by unfold State.gaugeMax; (try dsimp only); (repeat' split) <;> first | rfl | simp
@[simp] theorem State.gaugeMax_pending (s : State) (g : Nat) (i : Nat) (n : Nat) : (State.gaugeMax s g i n).pending = s.pending := by unfold State.gaugeMax; (try dsimp only); (repeat' split) <;> first | rfl | simp

@[simp] theorem State.gauge_kpr (s : State) (g : Nat) (i : Nat) (n : Nat) : (State.gauge s g i n).kpr = s.kpr := by unfold State.gauge; (try dsimp only); (repeat' split) <;> first | rfl | simp
@[simp] theorem State.gauge_power (s : State) (g : Nat) (i : Nat) (n : Nat) : (State.gauge s g i n).power = s.power := by unfold State.gauge; (try dsimp only); (repeat' split) <;> first | rfl | simp
@[simp] theorem State.gauge_rings (s : State) (g : Nat) (i : Nat) (n : Nat) : (State.gauge s g i n).rings = s.rings := by unfold State.gauge; (try dsimp only); (repeat' split) <;> first | rfl | simp
@[simp] theorem State.gauge_mem (s : State) (g : Nat) (i : Nat) (n : Nat) : (State.gauge s g i n).mem = s.mem := by unfold State.gauge; (try dsimp only); (repeat' split) <;> first | rfl | simp
@[simp] theorem State.gauge_mbx (s : State) (g : Nat) (i : Nat) (n : Nat) : (State.gauge s g i n).mbx = s.mbx := by unfold State.gauge; (try dsimp only); (repeat' split) <;> first | rfl | simp
@[simp] theorem State.gauge_logs (s : State) (g : Nat) (i : Nat) (n : Nat) : (State.gauge s g i n).logs = s.logs := by unfold State.gauge; (try dsimp only); (repeat' split) <;> first | rfl | simp
@[simp] theorem State.gauge_ledger (s : State) (g : Nat) (i : Nat) (n : Nat) : (State.gauge s g i n).ledger = s.ledger := by unfold State.gauge; (try dsimp only); (repeat' split) <;> first | rfl | simp
@[simp] theorem State.gauge_galleries (s : State) (g : Nat) (i : Nat) (n : Nat) : (State.gauge s g i n).galleries = s.galleries := by unfold State.gauge; (try dsimp only); (repeat' split) <;> first | rfl | simp
@[simp] theorem State.gauge_reg (s : State) (g : Nat) (i : Nat) (n : Nat) : (State.gauge s g i n).reg = s.reg := by unfold State.gauge; (try dsimp only); (repeat' split) <;> first | rfl | simp
@[simp] theorem State.gauge_wings (s : State) (g : Nat) (i : Nat) (n : Nat) : (State.gauge s g i n).wings = s.wings := by unfold State.gauge; (try dsimp only); (repeat' split) <;> first | rfl | simp
@[simp] theorem State.gauge_path (s : State) (g : Nat) (i : Nat) (n : Nat) : (State.gauge s g i n).path = s.path := by unfold State.gauge; (try dsimp only); (repeat' split) <;> first | rfl | simp
@[simp] theorem State.gauge_cap (s : State) (g : Nat) (i : Nat) (n : Nat) : (State.gauge s g i n).cap = s.cap := by unfold State.gauge; (try dsimp only); (repeat' split) <;> first | rfl | simp
@[simp] theorem State.gauge_pair (s : State) (g : Nat) (i : Nat) (n : Nat) : (State.gauge s g i n).pair = s.pair := by unfold State.gauge; (try dsimp only); (repeat' split) <;> first | rfl | simp
@[simp] theorem State.gauge_maint (s : State) (g : Nat) (i : Nat) (n : Nat) : (State.gauge s g i n).maint = s.maint := by unfold State.gauge; (try dsimp only); (repeat' split) <;> first | rfl | simp
@[simp] theorem State.gauge_integ (s : State) (g : Nat) (i : Nat) (n : Nat) : (State.gauge s g i n).integ = s.integ := by unfold State.gauge; (try dsimp only); (repeat' split) <;> first | rfl | simp
@[simp] theorem State.gauge_sec (s : State) (g : Nat) (i : Nat) (n : Nat) : (State.gauge s g i n).sec = s.sec := by unfold State.gauge; (try dsimp only); (repeat' split) <;> first | rfl | simp
@[simp] theorem State.gauge_outs (s : State) (g : Nat) (i : Nat) (n : Nat) : (State.gauge s g i n).outs = s.outs := by unfold State.gauge; (try dsimp only); (repeat' split) <;> first | rfl | simp
@[simp] theorem State.gauge_free (s : State) (g : Nat) (i : Nat) (n : Nat) : (State.gauge s g i n).free = s.free := by unfold State.gauge; (try dsimp only); (repeat' split) <;> first | rfl | simp
@[simp] theorem State.gauge_pending (s : State) (g : Nat) (i : Nat) (n : Nat) : (State.gauge s g i n).pending = s.pending := by unfold State.gauge; (try dsimp only); (repeat' split) <;> first | rfl | simp

@[simp] theorem State.ledgerMax_kpr (s : State) (i : Nat) (n : Nat) : (State.ledgerMax s i n).kpr = s.kpr := by unfold State.ledgerMax; (try dsimp only); (repeat' split) <;> first | rfl | simp
@[simp] theorem State.ledgerMax_power (s : State) (i : Nat) (n : Nat) : (State.ledgerMax s i n).power = s.power := by unfold State.ledgerMax; (try dsimp only); (repeat' split) <;> first | rfl | simp
@[simp] theorem State.ledgerMax_rings (s : State) (i : Nat) (n : Nat) : (State.ledgerMax s i n).rings = s.rings := by unfold State.ledgerMax; (try dsimp only); (repeat' split) <;> first | rfl | simp
@[simp] theorem State.ledgerMax_mem (s : State) (i : Nat) (n : Nat) : (State.ledgerMax s i n).mem = s.mem := by unfold State.ledgerMax; (try dsimp only); (repeat' split) <;> first | rfl | simp
@[simp] theorem State.ledgerMax_mbx (s : State) (i : Nat) (n : Nat) : (State.ledgerMax s i n).mbx = s.mbx := by unfold State.ledgerMax; (try dsimp only); (repeat' split) <;> first | rfl | simp
@[simp] theorem State.ledgerMax_cnt (s : State) (i : Nat) (n : Nat) : (State.ledgerMax s i n).cnt = s.cnt := by unfold State.ledgerMax; (try dsimp only); (repeat' split) <;> first | rfl | simp
@[simp] theorem State.ledgerMax_logs (s : State) (i : Nat) (n : Nat) : (State.ledgerMax s i n).logs = s.logs := by unfold State.ledgerMax; (try dsimp only); (repeat' split) <;> first | rfl | simp
@[simp] theorem State.ledgerMax_galleries (s : State) (i : Nat) (n : Nat) : (State.ledgerMax s i n).galleries = s.galleries := by unfold State.ledgerMax; (try dsimp only); (repeat' split) <;> first | rfl | simp
@[simp] theorem State.ledgerMax_reg (s : State) (i : Nat) (n : Nat) : (State.ledgerMax s i n).reg = s.reg := by unfold State.ledgerMax; (try dsimp only); (repeat' split) <;> first | rfl | simp
@[simp] theorem State.ledgerMax_wings (s : State) (i : Nat) (n : Nat) : (State.ledgerMax s i n).wings = s.wings := by unfold State.ledgerMax; (try dsimp only); (repeat' split) <;> first | rfl | simp
@[simp] theorem State.ledgerMax_path (s : State) (i : Nat) (n : Nat) : (State.ledgerMax s i n).path = s.path := by unfold State.ledgerMax; (try dsimp only); (repeat' split) <;> first | rfl | simp
@[simp] theorem State.ledgerMax_cap (s : State) (i : Nat) (n : Nat) : (State.ledgerMax s i n).cap = s.cap := by unfold State.ledgerMax; (try dsimp only); (repeat' split) <;> first | rfl | simp
@[simp] theorem State.ledgerMax_pair (s : State) (i : Nat) (n : Nat) : (State.ledgerMax s i n).pair = s.pair := by unfold State.ledgerMax; (try dsimp only); (repeat' split) <;> first | rfl | simp
@[simp] theorem State.ledgerMax_maint (s : State) (i : Nat) (n : Nat) : (State.ledgerMax s i n).maint = s.maint := by unfold State.ledgerMax; (try dsimp only); (repeat' split) <;> first | rfl | simp
@[simp] theorem State.ledgerMax_integ (s : State) (i : Nat) (n : Nat) : (State.ledgerMax s i n).integ = s.integ := by unfold State.ledgerMax; (try dsimp only); (repeat' split) <;> first | rfl | simp
@[simp] theorem State.ledgerMax_sec (s : State) (i : Nat) (n : Nat) : (State.ledgerMax s i n).sec = s.sec := by unfold State.ledgerMax; (try dsimp only); (repeat' split) <;> first | rfl | simp
@[simp] theorem State.ledgerMax_outs (s : State) (i : Nat) (n : Nat) : (State.ledgerMax s i n).outs = s.outs := by unfold State.ledgerMax; (try dsimp only); (repeat' split) <;> first | rfl | simp
@[simp] theorem State.ledgerMax_free (s : State) (i : Nat) (n : Nat) : (State.ledgerMax s i n).free = s.free := by unfold State.ledgerMax; (try dsimp only); (repeat' split) <;> first | rfl | simp
@[simp] theorem State.ledgerMax_pending (s : State) (i : Nat) (n : Nat) : (State.ledgerMax s i n).pending = s.pending := by unfold State.ledgerMax; (try dsimp only); (repeat' split) <;> first | rfl | simp

@[simp] theorem State.requestMsg_power (s : State) (v : Nat) : (State.requestMsg s v).power = s.power := by unfold State.requestMsg; (try dsimp only); (repeat' split) <;> first | rfl | simp
@[simp] theorem State.requestMsg_rings (s : State) (v : Nat) : (State.requestMsg s v).rings = s.rings := by unfold State.requestMsg; (try dsimp only); (repeat' split) <;> first | rfl | simp
@[simp] theorem State.requestMsg_mem (s : State) (v : Nat) : (State.requestMsg s v).mem = s.mem := by unfold State.requestMsg; (try dsimp only); (repeat' split) <;> first | rfl | simp
@[simp] theorem State.requestMsg_mbx (s : State) (v : Nat) : (State.requestMsg s v).mbx = s.mbx := by unfold State.requestMsg; (try dsimp only); (repeat' split) <;> first | rfl | simp
@[simp] theorem State.requestMsg_cnt (s : State) (v : Nat) : (State.requestMsg s v).cnt = s.cnt := by unfold State.requestMsg; (try dsimp only); (repeat' split) <;> first | rfl | simp
@[simp] theorem State.requestMsg_logs (s : State) (v : Nat) : (State.requestMsg s v).logs = s.logs := by unfold State.requestMsg; (try dsimp only); (repeat' split) <;> first | rfl | simp
@[simp] theorem State.requestMsg_ledger (s : State) (v : Nat) : (State.requestMsg s v).ledger = s.ledger := by unfold State.requestMsg; (try dsimp only); (repeat' split) <;> first | rfl | simp
@[simp] theorem State.requestMsg_galleries (s : State) (v : Nat) : (State.requestMsg s v).galleries = s.galleries := by unfold State.requestMsg; (try dsimp only); (repeat' split) <;> first | rfl | simp
@[simp] theorem State.requestMsg_reg (s : State) (v : Nat) : (State.requestMsg s v).reg = s.reg := by unfold State.requestMsg; (try dsimp only); (repeat' split) <;> first | rfl | simp
@[simp] theorem State.requestMsg_wings (s : State) (v : Nat) : (State.requestMsg s v).wings = s.wings := by unfold State.requestMsg; (try dsimp only); (repeat' split) <;> first | rfl | simp
@[simp] theorem State.requestMsg_path (s : State) (v : Nat) : (State.requestMsg s v).path = s.path := by unfold State.requestMsg; (try dsimp only); (repeat' split) <;> first | rfl | simp
@[simp] theorem State.requestMsg_cap (s : State) (v : Nat) : (State.requestMsg s v).cap = s.cap := by unfold State.requestMsg; (try dsimp only); (repeat' split) <;> first | rfl | simp
@[simp] theorem State.requestMsg_pair (s : State) (v : Nat) : (State.requestMsg s v).pair = s.pair := by unfold State.requestMsg; (try dsimp only); (repeat' split) <;> first | rfl | simp
@[simp] theorem State.requestMsg_maint (s : State) (v : Nat) : (State.requestMsg s v).maint = s.maint := by unfold State.requestMsg; (try dsimp only); (repeat' split) <;> first | rfl | simp
@[simp] theorem State.requestMsg_integ (s : State) (v : Nat) : (State.requestMsg s v).integ = s.integ := by unfold State.requestMsg; (try dsimp only); (repeat' split) <;> first | rfl | simp
@[simp] theorem State.requestMsg_sec (s : State) (v : Nat) : (State.requestMsg s v).sec = s.sec := by unfold State.requestMsg; (try dsimp only); (repeat' split) <;> first | rfl | simp
@[simp] theorem State.requestMsg_free (s : State) (v : Nat) : (State.requestMsg s v).free = s.free := by unfold State.requestMsg; (try dsimp only); (repeat' split) <;> first | rfl | simp
@[simp] theorem State.requestMsg_pending (s : State) (v : Nat) : (State.requestMsg s v).pending = s.pending := by unfold State.requestMsg; (try dsimp only); (repeat' split) <;> first | rfl | simp

@[simp] theorem State.mark_power (s : State) (key : Nat) : (State.mark s key).power = s.power := rfl
@[simp] theorem State.mark_rings (s : State) (key : Nat) : (State.mark s key).rings = s.rings := rfl
@[simp] theorem State.mark_mem (s : State) (key : Nat) : (State.mark s key).mem = s.mem := rfl
@[simp] theorem State.mark_mbx (s : State) (key : Nat) : (State.mark s key).mbx = s.mbx := rfl
@[simp] theorem State.mark_cnt (s : State) (key : Nat) : (State.mark s key).cnt = s.cnt := rfl
@[simp] theorem State.mark_logs (s : State) (key : Nat) : (State.mark s key).logs = s.logs := rfl
@[simp] theorem State.mark_ledger (s : State) (key : Nat) : (State.mark s key).ledger = s.ledger := rfl
@[simp] theorem State.mark_galleries (s : State) (key : Nat) : (State.mark s key).galleries = s.galleries := rfl
@[simp] theorem State.mark_reg (s : State) (key : Nat) : (State.mark s key).reg = s.reg := rfl
@[simp] theorem State.mark_wings (s : State) (key : Nat) : (State.mark s key).wings = s.wings := rfl
@[simp] theorem State.mark_path (s : State) (key : Nat) : (State.mark s key).path = s.path := rfl
@[simp] theorem State.mark_cap (s : State) (key : Nat) : (State.mark s key).cap = s.cap := rfl
@[simp] theorem State.mark_pair (s : State) (key : Nat) : (State.mark s key).pair = s.pair := rfl
@[simp] theorem State.mark_maint (s : State) (key : Nat) : (State.mark s key).maint = s.maint := rfl
@[simp] theorem State.mark_integ (s : State) (key : Nat) : (State.mark s key).integ = s.integ := rfl
@[simp] theorem State.mark_sec (s : State) (key : Nat) : (State.mark s key).sec = s.sec := rfl
@[simp] theorem State.mark_outs (s : State) (key : Nat) : (State.mark s key).outs = s.outs := rfl
@[simp] theorem State.mark_free (s : State) (key : Nat) : (State.mark s key).free = s.free := rfl
@[simp] theorem State.mark_pending (s : State) (key : Nat) : (State.mark s key).pending = s.pending := rfl

@[simp] theorem State.announce_power (s : State) (v : Nat) : (State.announce s v).power = s.power := by unfold State.announce; (try dsimp only); (repeat' split) <;> first | rfl | simp
@[simp] theorem State.announce_rings (s : State) (v : Nat) : (State.announce s v).rings = s.rings := by unfold State.announce; (try dsimp only); (repeat' split) <;> first | rfl | simp
@[simp] theorem State.announce_mem (s : State) (v : Nat) : (State.announce s v).mem = s.mem := by unfold State.announce; (try dsimp only); (repeat' split) <;> first | rfl | simp
@[simp] theorem State.announce_mbx (s : State) (v : Nat) : (State.announce s v).mbx = s.mbx := by unfold State.announce; (try dsimp only); (repeat' split) <;> first | rfl | simp
@[simp] theorem State.announce_cnt (s : State) (v : Nat) : (State.announce s v).cnt = s.cnt := by unfold State.announce; (try dsimp only); (repeat' split) <;> first | rfl | simp
@[simp] theorem State.announce_logs (s : State) (v : Nat) : (State.announce s v).logs = s.logs := by unfold State.announce; (try dsimp only); (repeat' split) <;> first | rfl | simp
@[simp] theorem State.announce_ledger (s : State) (v : Nat) : (State.announce s v).ledger = s.ledger := by unfold State.announce; (try dsimp only); (repeat' split) <;> first | rfl | simp
@[simp] theorem State.announce_galleries (s : State) (v : Nat) : (State.announce s v).galleries = s.galleries := by unfold State.announce; (try dsimp only); (repeat' split) <;> first | rfl | simp
@[simp] theorem State.announce_reg (s : State) (v : Nat) : (State.announce s v).reg = s.reg := by unfold State.announce; (try dsimp only); (repeat' split) <;> first | rfl | simp
@[simp] theorem State.announce_wings (s : State) (v : Nat) : (State.announce s v).wings = s.wings := by unfold State.announce; (try dsimp only); (repeat' split) <;> first | rfl | simp
@[simp] theorem State.announce_path (s : State) (v : Nat) : (State.announce s v).path = s.path := by unfold State.announce; (try dsimp only); (repeat' split) <;> first | rfl | simp
@[simp] theorem State.announce_cap (s : State) (v : Nat) : (State.announce s v).cap = s.cap := by unfold State.announce; (try dsimp only); (repeat' split) <;> first | rfl | simp
@[simp] theorem State.announce_pair (s : State) (v : Nat) : (State.announce s v).pair = s.pair := by unfold State.announce; (try dsimp only); (repeat' split) <;> first | rfl | simp
@[simp] theorem State.announce_maint (s : State) (v : Nat) : (State.announce s v).maint = s.maint := by unfold State.announce; (try dsimp only); (repeat' split) <;> first | rfl | simp
@[simp] theorem State.announce_integ (s : State) (v : Nat) : (State.announce s v).integ = s.integ := by unfold State.announce; (try dsimp only); (repeat' split) <;> first | rfl | simp
@[simp] theorem State.announce_sec (s : State) (v : Nat) : (State.announce s v).sec = s.sec := by unfold State.announce; (try dsimp only); (repeat' split) <;> first | rfl | simp
@[simp] theorem State.announce_free (s : State) (v : Nat) : (State.announce s v).free = s.free := by unfold State.announce; (try dsimp only); (repeat' split) <;> first | rfl | simp
@[simp] theorem State.announce_pending (s : State) (v : Nat) : (State.announce s v).pending = s.pending := by unfold State.announce; (try dsimp only); (repeat' split) <;> first | rfl | simp

@[simp] theorem State.raiseVec_power (s : State) (v : Nat) : (State.raiseVec s v).power = s.power := by unfold State.raiseVec; (try dsimp only); (repeat' split) <;> first | rfl | simp
@[simp] theorem State.raiseVec_rings (s : State) (v : Nat) : (State.raiseVec s v).rings = s.rings := by unfold State.raiseVec; (try dsimp only); (repeat' split) <;> first | rfl | simp
@[simp] theorem State.raiseVec_mem (s : State) (v : Nat) : (State.raiseVec s v).mem = s.mem := by unfold State.raiseVec; (try dsimp only); (repeat' split) <;> first | rfl | simp
@[simp] theorem State.raiseVec_mbx (s : State) (v : Nat) : (State.raiseVec s v).mbx = s.mbx := by unfold State.raiseVec; (try dsimp only); (repeat' split) <;> first | rfl | simp
@[simp] theorem State.raiseVec_cnt (s : State) (v : Nat) : (State.raiseVec s v).cnt = s.cnt := by unfold State.raiseVec; (try dsimp only); (repeat' split) <;> first | rfl | simp
@[simp] theorem State.raiseVec_logs (s : State) (v : Nat) : (State.raiseVec s v).logs = s.logs := by unfold State.raiseVec; (try dsimp only); (repeat' split) <;> first | rfl | simp
@[simp] theorem State.raiseVec_ledger (s : State) (v : Nat) : (State.raiseVec s v).ledger = s.ledger := by unfold State.raiseVec; (try dsimp only); (repeat' split) <;> first | rfl | simp
@[simp] theorem State.raiseVec_galleries (s : State) (v : Nat) : (State.raiseVec s v).galleries = s.galleries := by unfold State.raiseVec; (try dsimp only); (repeat' split) <;> first | rfl | simp
@[simp] theorem State.raiseVec_reg (s : State) (v : Nat) : (State.raiseVec s v).reg = s.reg := by unfold State.raiseVec; (try dsimp only); (repeat' split) <;> first | rfl | simp
@[simp] theorem State.raiseVec_wings (s : State) (v : Nat) : (State.raiseVec s v).wings = s.wings := by unfold State.raiseVec; (try dsimp only); (repeat' split) <;> first | rfl | simp
@[simp] theorem State.raiseVec_path (s : State) (v : Nat) : (State.raiseVec s v).path = s.path := by unfold State.raiseVec; (try dsimp only); (repeat' split) <;> first | rfl | simp
@[simp] theorem State.raiseVec_cap (s : State) (v : Nat) : (State.raiseVec s v).cap = s.cap := by unfold State.raiseVec; (try dsimp only); (repeat' split) <;> first | rfl | simp
@[simp] theorem State.raiseVec_pair (s : State) (v : Nat) : (State.raiseVec s v).pair = s.pair := by unfold State.raiseVec; (try dsimp only); (repeat' split) <;> first | rfl | simp
@[simp] theorem State.raiseVec_maint (s : State) (v : Nat) : (State.raiseVec s v).maint = s.maint := by unfold State.raiseVec; (try dsimp only); (repeat' split) <;> first | rfl | simp
@[simp] theorem State.raiseVec_integ (s : State) (v : Nat) : (State.raiseVec s v).integ = s.integ := by unfold State.raiseVec; (try dsimp only); (repeat' split) <;> first | rfl | simp
@[simp] theorem State.raiseVec_sec (s : State) (v : Nat) : (State.raiseVec s v).sec = s.sec := by unfold State.raiseVec; (try dsimp only); (repeat' split) <;> first | rfl | simp
@[simp] theorem State.raiseVec_free (s : State) (v : Nat) : (State.raiseVec s v).free = s.free := by unfold State.raiseVec; (try dsimp only); (repeat' split) <;> first | rfl | simp
@[simp] theorem State.raiseVec_pending (s : State) (v : Nat) : (State.raiseVec s v).pending = s.pending := by unfold State.raiseVec; (try dsimp only); (repeat' split) <;> first | rfl | simp

@[simp] theorem State.keeperCause_power (s : State) (b : Nat) : (State.keeperCause s b).power = s.power := by unfold State.keeperCause; (try dsimp only); (repeat' split) <;> first | rfl | simp
@[simp] theorem State.keeperCause_rings (s : State) (b : Nat) : (State.keeperCause s b).rings = s.rings := by unfold State.keeperCause; (try dsimp only); (repeat' split) <;> first | rfl | simp
@[simp] theorem State.keeperCause_mem (s : State) (b : Nat) : (State.keeperCause s b).mem = s.mem := by unfold State.keeperCause; (try dsimp only); (repeat' split) <;> first | rfl | simp
@[simp] theorem State.keeperCause_mbx (s : State) (b : Nat) : (State.keeperCause s b).mbx = s.mbx := by unfold State.keeperCause; (try dsimp only); (repeat' split) <;> first | rfl | simp
@[simp] theorem State.keeperCause_cnt (s : State) (b : Nat) : (State.keeperCause s b).cnt = s.cnt := by unfold State.keeperCause; (try dsimp only); (repeat' split) <;> first | rfl | simp
@[simp] theorem State.keeperCause_logs (s : State) (b : Nat) : (State.keeperCause s b).logs = s.logs := by unfold State.keeperCause; (try dsimp only); (repeat' split) <;> first | rfl | simp
@[simp] theorem State.keeperCause_ledger (s : State) (b : Nat) : (State.keeperCause s b).ledger = s.ledger := by unfold State.keeperCause; (try dsimp only); (repeat' split) <;> first | rfl | simp
@[simp] theorem State.keeperCause_galleries (s : State) (b : Nat) : (State.keeperCause s b).galleries = s.galleries := by unfold State.keeperCause; (try dsimp only); (repeat' split) <;> first | rfl | simp
@[simp] theorem State.keeperCause_reg (s : State) (b : Nat) : (State.keeperCause s b).reg = s.reg := by unfold State.keeperCause; (try dsimp only); (repeat' split) <;> first | rfl | simp
@[simp] theorem State.keeperCause_wings (s : State) (b : Nat) : (State.keeperCause s b).wings = s.wings := by unfold State.keeperCause; (try dsimp only); (repeat' split) <;> first | rfl | simp
@[simp] theorem State.keeperCause_path (s : State) (b : Nat) : (State.keeperCause s b).path = s.path := by unfold State.keeperCause; (try dsimp only); (repeat' split) <;> first | rfl | simp
@[simp] theorem State.keeperCause_cap (s : State) (b : Nat) : (State.keeperCause s b).cap = s.cap := by unfold State.keeperCause; (try dsimp only); (repeat' split) <;> first | rfl | simp
@[simp] theorem State.keeperCause_pair (s : State) (b : Nat) : (State.keeperCause s b).pair = s.pair := by unfold State.keeperCause; (try dsimp only); (repeat' split) <;> first | rfl | simp
@[simp] theorem State.keeperCause_maint (s : State) (b : Nat) : (State.keeperCause s b).maint = s.maint := by unfold State.keeperCause; (try dsimp only); (repeat' split) <;> first | rfl | simp
@[simp] theorem State.keeperCause_integ (s : State) (b : Nat) : (State.keeperCause s b).integ = s.integ := by unfold State.keeperCause; (try dsimp only); (repeat' split) <;> first | rfl | simp
@[simp] theorem State.keeperCause_sec (s : State) (b : Nat) : (State.keeperCause s b).sec = s.sec := by unfold State.keeperCause; (try dsimp only); (repeat' split) <;> first | rfl | simp
@[simp] theorem State.keeperCause_free (s : State) (b : Nat) : (State.keeperCause s b).free = s.free := by unfold State.keeperCause; (try dsimp only); (repeat' split) <;> first | rfl | simp
@[simp] theorem State.keeperCause_pending (s : State) (b : Nat) : (State.keeperCause s b).pending = s.pending := by unfold State.keeperCause; (try dsimp only); (repeat' split) <;> first | rfl | simp

@[simp] theorem State.traceDropped_kpr (s : State) (n : Nat) : (State.traceDropped s n).kpr = s.kpr := by unfold State.traceDropped; (try dsimp only); (repeat' split) <;> first | rfl | simp
@[simp] theorem State.traceDropped_power (s : State) (n : Nat) : (State.traceDropped s n).power = s.power := by unfold State.traceDropped; (try dsimp only); (repeat' split) <;> first | rfl | simp
@[simp] theorem State.traceDropped_rings (s : State) (n : Nat) : (State.traceDropped s n).rings = s.rings := by unfold State.traceDropped; (try dsimp only); (repeat' split) <;> first | rfl | simp
@[simp] theorem State.traceDropped_mem (s : State) (n : Nat) : (State.traceDropped s n).mem = s.mem := by unfold State.traceDropped; (try dsimp only); (repeat' split) <;> first | rfl | simp
@[simp] theorem State.traceDropped_mbx (s : State) (n : Nat) : (State.traceDropped s n).mbx = s.mbx := by unfold State.traceDropped; (try dsimp only); (repeat' split) <;> first | rfl | simp
@[simp] theorem State.traceDropped_logs (s : State) (n : Nat) : (State.traceDropped s n).logs = s.logs := by unfold State.traceDropped; (try dsimp only); (repeat' split) <;> first | rfl | simp
@[simp] theorem State.traceDropped_ledger (s : State) (n : Nat) : (State.traceDropped s n).ledger = s.ledger := by unfold State.traceDropped; (try dsimp only); (repeat' split) <;> first | rfl | simp
@[simp] theorem State.traceDropped_galleries (s : State) (n : Nat) : (State.traceDropped s n).galleries = s.galleries := by unfold State.traceDropped; (try dsimp only); (repeat' split) <;> first | rfl | simp
@[simp] theorem State.traceDropped_reg (s : State) (n : Nat) : (State.traceDropped s n).reg = s.reg := by unfold State.traceDropped; (try dsimp only); (repeat' split) <;> first | rfl | simp
@[simp] theorem State.traceDropped_wings (s : State) (n : Nat) : (State.traceDropped s n).wings = s.wings := by unfold State.traceDropped; (try dsimp only); (repeat' split) <;> first | rfl | simp
@[simp] theorem State.traceDropped_path (s : State) (n : Nat) : (State.traceDropped s n).path = s.path := by unfold State.traceDropped; (try dsimp only); (repeat' split) <;> first | rfl | simp
@[simp] theorem State.traceDropped_cap (s : State) (n : Nat) : (State.traceDropped s n).cap = s.cap := by unfold State.traceDropped; (try dsimp only); (repeat' split) <;> first | rfl | simp
@[simp] theorem State.traceDropped_pair (s : State) (n : Nat) : (State.traceDropped s n).pair = s.pair := by unfold State.traceDropped; (try dsimp only); (repeat' split) <;> first | rfl | simp
@[simp] theorem State.traceDropped_maint (s : State) (n : Nat) : (State.traceDropped s n).maint = s.maint := by unfold State.traceDropped; (try dsimp only); (repeat' split) <;> first | rfl | simp
@[simp] theorem State.traceDropped_integ (s : State) (n : Nat) : (State.traceDropped s n).integ = s.integ := by unfold State.traceDropped; (try dsimp only); (repeat' split) <;> first | rfl | simp
@[simp] theorem State.traceDropped_sec (s : State) (n : Nat) : (State.traceDropped s n).sec = s.sec := by unfold State.traceDropped; (try dsimp only); (repeat' split) <;> first | rfl | simp
@[simp] theorem State.traceDropped_outs (s : State) (n : Nat) : (State.traceDropped s n).outs = s.outs := by unfold State.traceDropped; (try dsimp only); (repeat' split) <;> first | rfl | simp
@[simp] theorem State.traceDropped_free (s : State) (n : Nat) : (State.traceDropped s n).free = s.free := by unfold State.traceDropped; (try dsimp only); (repeat' split) <;> first | rfl | simp
@[simp] theorem State.traceDropped_pending (s : State) (n : Nat) : (State.traceDropped s n).pending = s.pending := by unfold State.traceDropped; (try dsimp only); (repeat' split) <;> first | rfl | simp

@[simp] theorem State.tracePacket_kpr (s : State) (kind : Nat) (source : Nat) (words : List W32) : (State.tracePacket s kind source words).kpr = s.kpr := by unfold State.tracePacket; (try dsimp only); (repeat' split) <;> first | rfl | simp
@[simp] theorem State.tracePacket_power (s : State) (kind : Nat) (source : Nat) (words : List W32) : (State.tracePacket s kind source words).power = s.power := by unfold State.tracePacket; (try dsimp only); (repeat' split) <;> first | rfl | simp
@[simp] theorem State.tracePacket_rings (s : State) (kind : Nat) (source : Nat) (words : List W32) : (State.tracePacket s kind source words).rings = s.rings := by unfold State.tracePacket; (try dsimp only); (repeat' split) <;> first | rfl | simp
@[simp] theorem State.tracePacket_mem (s : State) (kind : Nat) (source : Nat) (words : List W32) : (State.tracePacket s kind source words).mem = s.mem := by unfold State.tracePacket; (try dsimp only); (repeat' split) <;> first | rfl | simp
@[simp] theorem State.tracePacket_mbx (s : State) (kind : Nat) (source : Nat) (words : List W32) : (State.tracePacket s kind source words).mbx = s.mbx := by unfold State.tracePacket; (try dsimp only); (repeat' split) <;> first | rfl | simp
@[simp] theorem State.tracePacket_logs (s : State) (kind : Nat) (source : Nat) (words : List W32) : (State.tracePacket s kind source words).logs = s.logs := by unfold State.tracePacket; (try dsimp only); (repeat' split) <;> first | rfl | simp
@[simp] theorem State.tracePacket_ledger (s : State) (kind : Nat) (source : Nat) (words : List W32) : (State.tracePacket s kind source words).ledger = s.ledger := by unfold State.tracePacket; (try dsimp only); (repeat' split) <;> first | rfl | simp
@[simp] theorem State.tracePacket_galleries (s : State) (kind : Nat) (source : Nat) (words : List W32) : (State.tracePacket s kind source words).galleries = s.galleries := by unfold State.tracePacket; (try dsimp only); (repeat' split) <;> first | rfl | simp
@[simp] theorem State.tracePacket_reg (s : State) (kind : Nat) (source : Nat) (words : List W32) : (State.tracePacket s kind source words).reg = s.reg := by unfold State.tracePacket; (try dsimp only); (repeat' split) <;> first | rfl | simp
@[simp] theorem State.tracePacket_wings (s : State) (kind : Nat) (source : Nat) (words : List W32) : (State.tracePacket s kind source words).wings = s.wings := by unfold State.tracePacket; (try dsimp only); (repeat' split) <;> first | rfl | simp
@[simp] theorem State.tracePacket_path (s : State) (kind : Nat) (source : Nat) (words : List W32) : (State.tracePacket s kind source words).path = s.path := by unfold State.tracePacket; (try dsimp only); (repeat' split) <;> first | rfl | simp
@[simp] theorem State.tracePacket_cap (s : State) (kind : Nat) (source : Nat) (words : List W32) : (State.tracePacket s kind source words).cap = s.cap := by unfold State.tracePacket; (try dsimp only); (repeat' split) <;> first | rfl | simp
@[simp] theorem State.tracePacket_pair (s : State) (kind : Nat) (source : Nat) (words : List W32) : (State.tracePacket s kind source words).pair = s.pair := by unfold State.tracePacket; (try dsimp only); (repeat' split) <;> first | rfl | simp
@[simp] theorem State.tracePacket_maint (s : State) (kind : Nat) (source : Nat) (words : List W32) : (State.tracePacket s kind source words).maint = s.maint := by unfold State.tracePacket; (try dsimp only); (repeat' split) <;> first | rfl | simp
@[simp] theorem State.tracePacket_integ (s : State) (kind : Nat) (source : Nat) (words : List W32) : (State.tracePacket s kind source words).integ = s.integ := by unfold State.tracePacket; (try dsimp only); (repeat' split) <;> first | rfl | simp
@[simp] theorem State.tracePacket_sec (s : State) (kind : Nat) (source : Nat) (words : List W32) : (State.tracePacket s kind source words).sec = s.sec := by unfold State.tracePacket; (try dsimp only); (repeat' split) <;> first | rfl | simp
@[simp] theorem State.tracePacket_outs (s : State) (kind : Nat) (source : Nat) (words : List W32) : (State.tracePacket s kind source words).outs = s.outs := by unfold State.tracePacket; (try dsimp only); (repeat' split) <;> first | rfl | simp
@[simp] theorem State.tracePacket_free (s : State) (kind : Nat) (source : Nat) (words : List W32) : (State.tracePacket s kind source words).free = s.free := by unfold State.tracePacket; (try dsimp only); (repeat' split) <;> first | rfl | simp
@[simp] theorem State.tracePacket_pending (s : State) (kind : Nat) (source : Nat) (words : List W32) : (State.tracePacket s kind source words).pending = s.pending := by unfold State.tracePacket; (try dsimp only); (repeat' split) <;> first | rfl | simp

@[simp] theorem State.traceSync_kpr (s : State) : (State.traceSync s).kpr = s.kpr := by unfold State.traceSync; (try dsimp only); (repeat' split) <;> first | rfl | simp
@[simp] theorem State.traceSync_power (s : State) : (State.traceSync s).power = s.power := by unfold State.traceSync; (try dsimp only); (repeat' split) <;> first | rfl | simp
@[simp] theorem State.traceSync_rings (s : State) : (State.traceSync s).rings = s.rings := by unfold State.traceSync; (try dsimp only); (repeat' split) <;> first | rfl | simp
@[simp] theorem State.traceSync_mem (s : State) : (State.traceSync s).mem = s.mem := by unfold State.traceSync; (try dsimp only); (repeat' split) <;> first | rfl | simp
@[simp] theorem State.traceSync_mbx (s : State) : (State.traceSync s).mbx = s.mbx := by unfold State.traceSync; (try dsimp only); (repeat' split) <;> first | rfl | simp
@[simp] theorem State.traceSync_logs (s : State) : (State.traceSync s).logs = s.logs := by unfold State.traceSync; (try dsimp only); (repeat' split) <;> first | rfl | simp
@[simp] theorem State.traceSync_ledger (s : State) : (State.traceSync s).ledger = s.ledger := by unfold State.traceSync; (try dsimp only); (repeat' split) <;> first | rfl | simp
@[simp] theorem State.traceSync_galleries (s : State) : (State.traceSync s).galleries = s.galleries := by unfold State.traceSync; (try dsimp only); (repeat' split) <;> first | rfl | simp
@[simp] theorem State.traceSync_reg (s : State) : (State.traceSync s).reg = s.reg := by unfold State.traceSync; (try dsimp only); (repeat' split) <;> first | rfl | simp
@[simp] theorem State.traceSync_wings (s : State) : (State.traceSync s).wings = s.wings := by unfold State.traceSync; (try dsimp only); (repeat' split) <;> first | rfl | simp
@[simp] theorem State.traceSync_path (s : State) : (State.traceSync s).path = s.path := by unfold State.traceSync; (try dsimp only); (repeat' split) <;> first | rfl | simp
@[simp] theorem State.traceSync_cap (s : State) : (State.traceSync s).cap = s.cap := by unfold State.traceSync; (try dsimp only); (repeat' split) <;> first | rfl | simp
@[simp] theorem State.traceSync_pair (s : State) : (State.traceSync s).pair = s.pair := by unfold State.traceSync; (try dsimp only); (repeat' split) <;> first | rfl | simp
@[simp] theorem State.traceSync_maint (s : State) : (State.traceSync s).maint = s.maint := by unfold State.traceSync; (try dsimp only); (repeat' split) <;> first | rfl | simp
@[simp] theorem State.traceSync_integ (s : State) : (State.traceSync s).integ = s.integ := by unfold State.traceSync; (try dsimp only); (repeat' split) <;> first | rfl | simp
@[simp] theorem State.traceSync_sec (s : State) : (State.traceSync s).sec = s.sec := by unfold State.traceSync; (try dsimp only); (repeat' split) <;> first | rfl | simp
@[simp] theorem State.traceSync_outs (s : State) : (State.traceSync s).outs = s.outs := by unfold State.traceSync; (try dsimp only); (repeat' split) <;> first | rfl | simp
@[simp] theorem State.traceSync_free (s : State) : (State.traceSync s).free = s.free := by unfold State.traceSync; (try dsimp only); (repeat' split) <;> first | rfl | simp
@[simp] theorem State.traceSync_pending (s : State) : (State.traceSync s).pending = s.pending := by unfold State.traceSync; (try dsimp only); (repeat' split) <;> first | rfl | simp

@[simp] theorem State.trace_kpr (s : State) (kind : Nat) (source : Nat) (words : List W32) : (State.trace s kind source words).kpr = s.kpr := by unfold State.trace; (try dsimp only); (repeat' split) <;> first | rfl | simp
@[simp] theorem State.trace_power (s : State) (kind : Nat) (source : Nat) (words : List W32) : (State.trace s kind source words).power = s.power := by unfold State.trace; (try dsimp only); (repeat' split) <;> first | rfl | simp
@[simp] theorem State.trace_rings (s : State) (kind : Nat) (source : Nat) (words : List W32) : (State.trace s kind source words).rings = s.rings := by unfold State.trace; (try dsimp only); (repeat' split) <;> first | rfl | simp
@[simp] theorem State.trace_mem (s : State) (kind : Nat) (source : Nat) (words : List W32) : (State.trace s kind source words).mem = s.mem := by unfold State.trace; (try dsimp only); (repeat' split) <;> first | rfl | simp
@[simp] theorem State.trace_mbx (s : State) (kind : Nat) (source : Nat) (words : List W32) : (State.trace s kind source words).mbx = s.mbx := by unfold State.trace; (try dsimp only); (repeat' split) <;> first | rfl | simp
@[simp] theorem State.trace_logs (s : State) (kind : Nat) (source : Nat) (words : List W32) : (State.trace s kind source words).logs = s.logs := by unfold State.trace; (try dsimp only); (repeat' split) <;> first | rfl | simp
@[simp] theorem State.trace_ledger (s : State) (kind : Nat) (source : Nat) (words : List W32) : (State.trace s kind source words).ledger = s.ledger := by unfold State.trace; (try dsimp only); (repeat' split) <;> first | rfl | simp
@[simp] theorem State.trace_galleries (s : State) (kind : Nat) (source : Nat) (words : List W32) : (State.trace s kind source words).galleries = s.galleries := by unfold State.trace; (try dsimp only); (repeat' split) <;> first | rfl | simp
@[simp] theorem State.trace_reg (s : State) (kind : Nat) (source : Nat) (words : List W32) : (State.trace s kind source words).reg = s.reg := by unfold State.trace; (try dsimp only); (repeat' split) <;> first | rfl | simp
@[simp] theorem State.trace_wings (s : State) (kind : Nat) (source : Nat) (words : List W32) : (State.trace s kind source words).wings = s.wings := by unfold State.trace; (try dsimp only); (repeat' split) <;> first | rfl | simp
@[simp] theorem State.trace_path (s : State) (kind : Nat) (source : Nat) (words : List W32) : (State.trace s kind source words).path = s.path := by unfold State.trace; (try dsimp only); (repeat' split) <;> first | rfl | simp
@[simp] theorem State.trace_cap (s : State) (kind : Nat) (source : Nat) (words : List W32) : (State.trace s kind source words).cap = s.cap := by unfold State.trace; (try dsimp only); (repeat' split) <;> first | rfl | simp
@[simp] theorem State.trace_pair (s : State) (kind : Nat) (source : Nat) (words : List W32) : (State.trace s kind source words).pair = s.pair := by unfold State.trace; (try dsimp only); (repeat' split) <;> first | rfl | simp
@[simp] theorem State.trace_maint (s : State) (kind : Nat) (source : Nat) (words : List W32) : (State.trace s kind source words).maint = s.maint := by unfold State.trace; (try dsimp only); (repeat' split) <;> first | rfl | simp
@[simp] theorem State.trace_integ (s : State) (kind : Nat) (source : Nat) (words : List W32) : (State.trace s kind source words).integ = s.integ := by unfold State.trace; (try dsimp only); (repeat' split) <;> first | rfl | simp
@[simp] theorem State.trace_sec (s : State) (kind : Nat) (source : Nat) (words : List W32) : (State.trace s kind source words).sec = s.sec := by unfold State.trace; (try dsimp only); (repeat' split) <;> first | rfl | simp
@[simp] theorem State.trace_outs (s : State) (kind : Nat) (source : Nat) (words : List W32) : (State.trace s kind source words).outs = s.outs := by unfold State.trace; (try dsimp only); (repeat' split) <;> first | rfl | simp
@[simp] theorem State.trace_free (s : State) (kind : Nat) (source : Nat) (words : List W32) : (State.trace s kind source words).free = s.free := by unfold State.trace; (try dsimp only); (repeat' split) <;> first | rfl | simp
@[simp] theorem State.trace_pending (s : State) (kind : Nat) (source : Nat) (words : List W32) : (State.trace s kind source words).pending = s.pending := by unfold State.trace; (try dsimp only); (repeat' split) <;> first | rfl | simp

@[simp] theorem State.writeEvent_kpr (s : State) (n : Nat) (bs : List Byte) : (State.writeEvent s n bs).kpr = s.kpr := by unfold State.writeEvent; (try dsimp only); (repeat' split) <;> first | rfl | simp
@[simp] theorem State.writeEvent_power (s : State) (n : Nat) (bs : List Byte) : (State.writeEvent s n bs).power = s.power := by unfold State.writeEvent; (try dsimp only); (repeat' split) <;> first | rfl | simp
@[simp] theorem State.writeEvent_rings (s : State) (n : Nat) (bs : List Byte) : (State.writeEvent s n bs).rings = s.rings := by unfold State.writeEvent; (try dsimp only); (repeat' split) <;> first | rfl | simp
@[simp] theorem State.writeEvent_mbx (s : State) (n : Nat) (bs : List Byte) : (State.writeEvent s n bs).mbx = s.mbx := by unfold State.writeEvent; (try dsimp only); (repeat' split) <;> first | rfl | simp
@[simp] theorem State.writeEvent_logs (s : State) (n : Nat) (bs : List Byte) : (State.writeEvent s n bs).logs = s.logs := by unfold State.writeEvent; (try dsimp only); (repeat' split) <;> first | rfl | simp
@[simp] theorem State.writeEvent_ledger (s : State) (n : Nat) (bs : List Byte) : (State.writeEvent s n bs).ledger = s.ledger := by unfold State.writeEvent; (try dsimp only); (repeat' split) <;> first | rfl | simp
@[simp] theorem State.writeEvent_galleries (s : State) (n : Nat) (bs : List Byte) : (State.writeEvent s n bs).galleries = s.galleries := by unfold State.writeEvent; (try dsimp only); (repeat' split) <;> first | rfl | simp
@[simp] theorem State.writeEvent_reg (s : State) (n : Nat) (bs : List Byte) : (State.writeEvent s n bs).reg = s.reg := by unfold State.writeEvent; (try dsimp only); (repeat' split) <;> first | rfl | simp
@[simp] theorem State.writeEvent_wings (s : State) (n : Nat) (bs : List Byte) : (State.writeEvent s n bs).wings = s.wings := by unfold State.writeEvent; (try dsimp only); (repeat' split) <;> first | rfl | simp
@[simp] theorem State.writeEvent_path (s : State) (n : Nat) (bs : List Byte) : (State.writeEvent s n bs).path = s.path := by unfold State.writeEvent; (try dsimp only); (repeat' split) <;> first | rfl | simp
@[simp] theorem State.writeEvent_cap (s : State) (n : Nat) (bs : List Byte) : (State.writeEvent s n bs).cap = s.cap := by unfold State.writeEvent; (try dsimp only); (repeat' split) <;> first | rfl | simp
@[simp] theorem State.writeEvent_pair (s : State) (n : Nat) (bs : List Byte) : (State.writeEvent s n bs).pair = s.pair := by unfold State.writeEvent; (try dsimp only); (repeat' split) <;> first | rfl | simp
@[simp] theorem State.writeEvent_maint (s : State) (n : Nat) (bs : List Byte) : (State.writeEvent s n bs).maint = s.maint := by unfold State.writeEvent; (try dsimp only); (repeat' split) <;> first | rfl | simp
@[simp] theorem State.writeEvent_integ (s : State) (n : Nat) (bs : List Byte) : (State.writeEvent s n bs).integ = s.integ := by unfold State.writeEvent; (try dsimp only); (repeat' split) <;> first | rfl | simp
@[simp] theorem State.writeEvent_outs (s : State) (n : Nat) (bs : List Byte) : (State.writeEvent s n bs).outs = s.outs := by unfold State.writeEvent; (try dsimp only); (repeat' split) <;> first | rfl | simp
@[simp] theorem State.writeEvent_free (s : State) (n : Nat) (bs : List Byte) : (State.writeEvent s n bs).free = s.free := by unfold State.writeEvent; (try dsimp only); (repeat' split) <;> first | rfl | simp
@[simp] theorem State.writeEvent_pending (s : State) (n : Nat) (bs : List Byte) : (State.writeEvent s n bs).pending = s.pending := by unfold State.writeEvent; (try dsimp only); (repeat' split) <;> first | rfl | simp

@[simp] theorem State.event_kpr (s : State) (n : Nat) (code : Nat) (wing : Nat) (arg0 : Nat) (arg1 : Nat) : (State.event s n code wing arg0 arg1).kpr = s.kpr := by unfold State.event; (try dsimp only); (repeat' split) <;> first | rfl | simp
@[simp] theorem State.event_power (s : State) (n : Nat) (code : Nat) (wing : Nat) (arg0 : Nat) (arg1 : Nat) : (State.event s n code wing arg0 arg1).power = s.power := by unfold State.event; (try dsimp only); (repeat' split) <;> first | rfl | simp
@[simp] theorem State.event_rings (s : State) (n : Nat) (code : Nat) (wing : Nat) (arg0 : Nat) (arg1 : Nat) : (State.event s n code wing arg0 arg1).rings = s.rings := by unfold State.event; (try dsimp only); (repeat' split) <;> first | rfl | simp
@[simp] theorem State.event_mbx (s : State) (n : Nat) (code : Nat) (wing : Nat) (arg0 : Nat) (arg1 : Nat) : (State.event s n code wing arg0 arg1).mbx = s.mbx := by unfold State.event; (try dsimp only); (repeat' split) <;> first | rfl | simp
@[simp] theorem State.event_logs (s : State) (n : Nat) (code : Nat) (wing : Nat) (arg0 : Nat) (arg1 : Nat) : (State.event s n code wing arg0 arg1).logs = s.logs := by unfold State.event; (try dsimp only); (repeat' split) <;> first | rfl | simp
@[simp] theorem State.event_ledger (s : State) (n : Nat) (code : Nat) (wing : Nat) (arg0 : Nat) (arg1 : Nat) : (State.event s n code wing arg0 arg1).ledger = s.ledger := by unfold State.event; (try dsimp only); (repeat' split) <;> first | rfl | simp
@[simp] theorem State.event_galleries (s : State) (n : Nat) (code : Nat) (wing : Nat) (arg0 : Nat) (arg1 : Nat) : (State.event s n code wing arg0 arg1).galleries = s.galleries := by unfold State.event; (try dsimp only); (repeat' split) <;> first | rfl | simp
@[simp] theorem State.event_reg (s : State) (n : Nat) (code : Nat) (wing : Nat) (arg0 : Nat) (arg1 : Nat) : (State.event s n code wing arg0 arg1).reg = s.reg := by unfold State.event; (try dsimp only); (repeat' split) <;> first | rfl | simp
@[simp] theorem State.event_wings (s : State) (n : Nat) (code : Nat) (wing : Nat) (arg0 : Nat) (arg1 : Nat) : (State.event s n code wing arg0 arg1).wings = s.wings := by unfold State.event; (try dsimp only); (repeat' split) <;> first | rfl | simp
@[simp] theorem State.event_path (s : State) (n : Nat) (code : Nat) (wing : Nat) (arg0 : Nat) (arg1 : Nat) : (State.event s n code wing arg0 arg1).path = s.path := by unfold State.event; (try dsimp only); (repeat' split) <;> first | rfl | simp
@[simp] theorem State.event_cap (s : State) (n : Nat) (code : Nat) (wing : Nat) (arg0 : Nat) (arg1 : Nat) : (State.event s n code wing arg0 arg1).cap = s.cap := by unfold State.event; (try dsimp only); (repeat' split) <;> first | rfl | simp
@[simp] theorem State.event_pair (s : State) (n : Nat) (code : Nat) (wing : Nat) (arg0 : Nat) (arg1 : Nat) : (State.event s n code wing arg0 arg1).pair = s.pair := by unfold State.event; (try dsimp only); (repeat' split) <;> first | rfl | simp
@[simp] theorem State.event_maint (s : State) (n : Nat) (code : Nat) (wing : Nat) (arg0 : Nat) (arg1 : Nat) : (State.event s n code wing arg0 arg1).maint = s.maint := by unfold State.event; (try dsimp only); (repeat' split) <;> first | rfl | simp
@[simp] theorem State.event_integ (s : State) (n : Nat) (code : Nat) (wing : Nat) (arg0 : Nat) (arg1 : Nat) : (State.event s n code wing arg0 arg1).integ = s.integ := by unfold State.event; (try dsimp only); (repeat' split) <;> first | rfl | simp
@[simp] theorem State.event_outs (s : State) (n : Nat) (code : Nat) (wing : Nat) (arg0 : Nat) (arg1 : Nat) : (State.event s n code wing arg0 arg1).outs = s.outs := by unfold State.event; (try dsimp only); (repeat' split) <;> first | rfl | simp
@[simp] theorem State.event_pending (s : State) (n : Nat) (code : Nat) (wing : Nat) (arg0 : Nat) (arg1 : Nat) : (State.event s n code wing arg0 arg1).pending = s.pending := by unfold State.event; (try dsimp only); (repeat' split) <;> first | rfl | simp

@[simp] theorem State.logRefused_kpr (s : State) (mid : Byte) (addr : Nat) : (State.logRefused s mid addr).kpr = s.kpr := by unfold State.logRefused; (try dsimp only); (repeat' split) <;> first | rfl | simp
@[simp] theorem State.logRefused_power (s : State) (mid : Byte) (addr : Nat) : (State.logRefused s mid addr).power = s.power := by unfold State.logRefused; (try dsimp only); (repeat' split) <;> first | rfl | simp
@[simp] theorem State.logRefused_rings (s : State) (mid : Byte) (addr : Nat) : (State.logRefused s mid addr).rings = s.rings := by unfold State.logRefused; (try dsimp only); (repeat' split) <;> first | rfl | simp
@[simp] theorem State.logRefused_mbx (s : State) (mid : Byte) (addr : Nat) : (State.logRefused s mid addr).mbx = s.mbx := by unfold State.logRefused; (try dsimp only); (repeat' split) <;> first | rfl | simp
@[simp] theorem State.logRefused_logs (s : State) (mid : Byte) (addr : Nat) : (State.logRefused s mid addr).logs = s.logs := by unfold State.logRefused; (try dsimp only); (repeat' split) <;> first | rfl | simp
@[simp] theorem State.logRefused_ledger (s : State) (mid : Byte) (addr : Nat) : (State.logRefused s mid addr).ledger = s.ledger := by unfold State.logRefused; (try dsimp only); (repeat' split) <;> first | rfl | simp
@[simp] theorem State.logRefused_galleries (s : State) (mid : Byte) (addr : Nat) : (State.logRefused s mid addr).galleries = s.galleries := by unfold State.logRefused; (try dsimp only); (repeat' split) <;> first | rfl | simp
@[simp] theorem State.logRefused_reg (s : State) (mid : Byte) (addr : Nat) : (State.logRefused s mid addr).reg = s.reg := by unfold State.logRefused; (try dsimp only); (repeat' split) <;> first | rfl | simp
@[simp] theorem State.logRefused_wings (s : State) (mid : Byte) (addr : Nat) : (State.logRefused s mid addr).wings = s.wings := by unfold State.logRefused; (try dsimp only); (repeat' split) <;> first | rfl | simp
@[simp] theorem State.logRefused_path (s : State) (mid : Byte) (addr : Nat) : (State.logRefused s mid addr).path = s.path := by unfold State.logRefused; (try dsimp only); (repeat' split) <;> first | rfl | simp
@[simp] theorem State.logRefused_cap (s : State) (mid : Byte) (addr : Nat) : (State.logRefused s mid addr).cap = s.cap := by unfold State.logRefused; (try dsimp only); (repeat' split) <;> first | rfl | simp
@[simp] theorem State.logRefused_pair (s : State) (mid : Byte) (addr : Nat) : (State.logRefused s mid addr).pair = s.pair := by unfold State.logRefused; (try dsimp only); (repeat' split) <;> first | rfl | simp
@[simp] theorem State.logRefused_maint (s : State) (mid : Byte) (addr : Nat) : (State.logRefused s mid addr).maint = s.maint := by unfold State.logRefused; (try dsimp only); (repeat' split) <;> first | rfl | simp
@[simp] theorem State.logRefused_integ (s : State) (mid : Byte) (addr : Nat) : (State.logRefused s mid addr).integ = s.integ := by unfold State.logRefused; (try dsimp only); (repeat' split) <;> first | rfl | simp
@[simp] theorem State.logRefused_outs (s : State) (mid : Byte) (addr : Nat) : (State.logRefused s mid addr).outs = s.outs := by unfold State.logRefused; (try dsimp only); (repeat' split) <;> first | rfl | simp
@[simp] theorem State.logRefused_pending (s : State) (mid : Byte) (addr : Nat) : (State.logRefused s mid addr).pending = s.pending := by unfold State.logRefused; (try dsimp only); (repeat' split) <;> first | rfl | simp

@[simp] theorem State.writeReply_power (s : State) (i : Nat) (op : Nat) (gallery : Nat) (tag : Nat) (status : Nat) (seq : W32) (ktime : W64) (data : List Byte) : (State.writeReply s i op gallery tag status seq ktime data).power = s.power := by unfold State.writeReply; (try dsimp only); (repeat' split) <;> first | rfl | simp
@[simp] theorem State.writeReply_mbx (s : State) (i : Nat) (op : Nat) (gallery : Nat) (tag : Nat) (status : Nat) (seq : W32) (ktime : W64) (data : List Byte) : (State.writeReply s i op gallery tag status seq ktime data).mbx = s.mbx := by unfold State.writeReply; (try dsimp only); (repeat' split) <;> first | rfl | simp
@[simp] theorem State.writeReply_logs (s : State) (i : Nat) (op : Nat) (gallery : Nat) (tag : Nat) (status : Nat) (seq : W32) (ktime : W64) (data : List Byte) : (State.writeReply s i op gallery tag status seq ktime data).logs = s.logs := by unfold State.writeReply; (try dsimp only); (repeat' split) <;> first | rfl | simp
@[simp] theorem State.writeReply_ledger (s : State) (i : Nat) (op : Nat) (gallery : Nat) (tag : Nat) (status : Nat) (seq : W32) (ktime : W64) (data : List Byte) : (State.writeReply s i op gallery tag status seq ktime data).ledger = s.ledger := by unfold State.writeReply; (try dsimp only); (repeat' split) <;> first | rfl | simp
@[simp] theorem State.writeReply_galleries (s : State) (i : Nat) (op : Nat) (gallery : Nat) (tag : Nat) (status : Nat) (seq : W32) (ktime : W64) (data : List Byte) : (State.writeReply s i op gallery tag status seq ktime data).galleries = s.galleries := by unfold State.writeReply; (try dsimp only); (repeat' split) <;> first | rfl | simp
@[simp] theorem State.writeReply_reg (s : State) (i : Nat) (op : Nat) (gallery : Nat) (tag : Nat) (status : Nat) (seq : W32) (ktime : W64) (data : List Byte) : (State.writeReply s i op gallery tag status seq ktime data).reg = s.reg := by unfold State.writeReply; (try dsimp only); (repeat' split) <;> first | rfl | simp
@[simp] theorem State.writeReply_wings (s : State) (i : Nat) (op : Nat) (gallery : Nat) (tag : Nat) (status : Nat) (seq : W32) (ktime : W64) (data : List Byte) : (State.writeReply s i op gallery tag status seq ktime data).wings = s.wings := by unfold State.writeReply; (try dsimp only); (repeat' split) <;> first | rfl | simp
@[simp] theorem State.writeReply_path (s : State) (i : Nat) (op : Nat) (gallery : Nat) (tag : Nat) (status : Nat) (seq : W32) (ktime : W64) (data : List Byte) : (State.writeReply s i op gallery tag status seq ktime data).path = s.path := by unfold State.writeReply; (try dsimp only); (repeat' split) <;> first | rfl | simp
@[simp] theorem State.writeReply_cap (s : State) (i : Nat) (op : Nat) (gallery : Nat) (tag : Nat) (status : Nat) (seq : W32) (ktime : W64) (data : List Byte) : (State.writeReply s i op gallery tag status seq ktime data).cap = s.cap := by unfold State.writeReply; (try dsimp only); (repeat' split) <;> first | rfl | simp
@[simp] theorem State.writeReply_pair (s : State) (i : Nat) (op : Nat) (gallery : Nat) (tag : Nat) (status : Nat) (seq : W32) (ktime : W64) (data : List Byte) : (State.writeReply s i op gallery tag status seq ktime data).pair = s.pair := by unfold State.writeReply; (try dsimp only); (repeat' split) <;> first | rfl | simp
@[simp] theorem State.writeReply_maint (s : State) (i : Nat) (op : Nat) (gallery : Nat) (tag : Nat) (status : Nat) (seq : W32) (ktime : W64) (data : List Byte) : (State.writeReply s i op gallery tag status seq ktime data).maint = s.maint := by unfold State.writeReply; (try dsimp only); (repeat' split) <;> first | rfl | simp
@[simp] theorem State.writeReply_integ (s : State) (i : Nat) (op : Nat) (gallery : Nat) (tag : Nat) (status : Nat) (seq : W32) (ktime : W64) (data : List Byte) : (State.writeReply s i op gallery tag status seq ktime data).integ = s.integ := by unfold State.writeReply; (try dsimp only); (repeat' split) <;> first | rfl | simp
@[simp] theorem State.writeReply_pending (s : State) (i : Nat) (op : Nat) (gallery : Nat) (tag : Nat) (status : Nat) (seq : W32) (ktime : W64) (data : List Byte) : (State.writeReply s i op gallery tag status seq ktime data).pending = s.pending := by unfold State.writeReply; (try dsimp only); (repeat' split) <;> first | rfl | simp

@[simp] theorem State.answer_power (s : State) (c : Cmd) (status : Nat) (data : List Byte) : (State.answer s c status data).power = s.power := by unfold State.answer; (try dsimp only); (repeat' split) <;> first | rfl | simp
@[simp] theorem State.answer_mbx (s : State) (c : Cmd) (status : Nat) (data : List Byte) : (State.answer s c status data).mbx = s.mbx := by unfold State.answer; (try dsimp only); (repeat' split) <;> first | rfl | simp
@[simp] theorem State.answer_logs (s : State) (c : Cmd) (status : Nat) (data : List Byte) : (State.answer s c status data).logs = s.logs := by unfold State.answer; (try dsimp only); (repeat' split) <;> first | rfl | simp
@[simp] theorem State.answer_ledger (s : State) (c : Cmd) (status : Nat) (data : List Byte) : (State.answer s c status data).ledger = s.ledger := by unfold State.answer; (try dsimp only); (repeat' split) <;> first | rfl | simp
@[simp] theorem State.answer_galleries (s : State) (c : Cmd) (status : Nat) (data : List Byte) : (State.answer s c status data).galleries = s.galleries := by unfold State.answer; (try dsimp only); (repeat' split) <;> first | rfl | simp
@[simp] theorem State.answer_reg (s : State) (c : Cmd) (status : Nat) (data : List Byte) : (State.answer s c status data).reg = s.reg := by unfold State.answer; (try dsimp only); (repeat' split) <;> first | rfl | simp
@[simp] theorem State.answer_wings (s : State) (c : Cmd) (status : Nat) (data : List Byte) : (State.answer s c status data).wings = s.wings := by unfold State.answer; (try dsimp only); (repeat' split) <;> first | rfl | simp
@[simp] theorem State.answer_path (s : State) (c : Cmd) (status : Nat) (data : List Byte) : (State.answer s c status data).path = s.path := by unfold State.answer; (try dsimp only); (repeat' split) <;> first | rfl | simp
@[simp] theorem State.answer_cap (s : State) (c : Cmd) (status : Nat) (data : List Byte) : (State.answer s c status data).cap = s.cap := by unfold State.answer; (try dsimp only); (repeat' split) <;> first | rfl | simp
@[simp] theorem State.answer_pair (s : State) (c : Cmd) (status : Nat) (data : List Byte) : (State.answer s c status data).pair = s.pair := by unfold State.answer; (try dsimp only); (repeat' split) <;> first | rfl | simp
@[simp] theorem State.answer_maint (s : State) (c : Cmd) (status : Nat) (data : List Byte) : (State.answer s c status data).maint = s.maint := by unfold State.answer; (try dsimp only); (repeat' split) <;> first | rfl | simp
@[simp] theorem State.answer_integ (s : State) (c : Cmd) (status : Nat) (data : List Byte) : (State.answer s c status data).integ = s.integ := by unfold State.answer; (try dsimp only); (repeat' split) <;> first | rfl | simp
@[simp] theorem State.answer_pending (s : State) (c : Cmd) (status : Nat) (data : List Byte) : (State.answer s c status data).pending = s.pending := by unfold State.answer; (try dsimp only); (repeat' split) <;> first | rfl | simp

@[simp] theorem State.halt_power (s : State) : (State.halt s).power = s.power := by unfold State.halt; (try dsimp only); (repeat' split) <;> first | rfl | simp
@[simp] theorem State.halt_rings (s : State) : (State.halt s).rings = s.rings := by unfold State.halt; (try dsimp only); (repeat' split) <;> first | rfl | simp
@[simp] theorem State.halt_mbx (s : State) : (State.halt s).mbx = s.mbx := by unfold State.halt; (try dsimp only); (repeat' split) <;> first | rfl | simp
@[simp] theorem State.halt_logs (s : State) : (State.halt s).logs = s.logs := by unfold State.halt; (try dsimp only); (repeat' split) <;> first | rfl | simp
@[simp] theorem State.halt_ledger (s : State) : (State.halt s).ledger = s.ledger := by unfold State.halt; (try dsimp only); (repeat' split) <;> first | rfl | simp
@[simp] theorem State.halt_galleries (s : State) : (State.halt s).galleries = s.galleries := by unfold State.halt; (try dsimp only); (repeat' split) <;> first | rfl | simp
@[simp] theorem State.halt_reg (s : State) : (State.halt s).reg = s.reg := by unfold State.halt; (try dsimp only); (repeat' split) <;> first | rfl | simp
@[simp] theorem State.halt_wings (s : State) : (State.halt s).wings = s.wings := by unfold State.halt; (try dsimp only); (repeat' split) <;> first | rfl | simp
@[simp] theorem State.halt_path (s : State) : (State.halt s).path = s.path := by unfold State.halt; (try dsimp only); (repeat' split) <;> first | rfl | simp
@[simp] theorem State.halt_cap (s : State) : (State.halt s).cap = s.cap := by unfold State.halt; (try dsimp only); (repeat' split) <;> first | rfl | simp
@[simp] theorem State.halt_pair (s : State) : (State.halt s).pair = s.pair := by unfold State.halt; (try dsimp only); (repeat' split) <;> first | rfl | simp
@[simp] theorem State.halt_maint (s : State) : (State.halt s).maint = s.maint := by unfold State.halt; (try dsimp only); (repeat' split) <;> first | rfl | simp
@[simp] theorem State.halt_integ (s : State) : (State.halt s).integ = s.integ := by unfold State.halt; (try dsimp only); (repeat' split) <;> first | rfl | simp
@[simp] theorem State.halt_outs (s : State) : (State.halt s).outs = s.outs := by unfold State.halt; (try dsimp only); (repeat' split) <;> first | rfl | simp
@[simp] theorem State.halt_pending (s : State) : (State.halt s).pending = s.pending := by unfold State.halt; (try dsimp only); (repeat' split) <;> first | rfl | simp

@[simp] theorem State.report_power (s : State) (code : Nat) (sev : Nat) (unit : Nat) (wing : Nat) (gal : Nat) (detail : List Nat) : (State.report s code sev unit wing gal detail).power = s.power := by unfold State.report; (try dsimp only); (repeat' split) <;> first | rfl | simp
@[simp] theorem State.report_rings (s : State) (code : Nat) (sev : Nat) (unit : Nat) (wing : Nat) (gal : Nat) (detail : List Nat) : (State.report s code sev unit wing gal detail).rings = s.rings := by unfold State.report; (try dsimp only); (repeat' split) <;> first | rfl | simp
@[simp] theorem State.report_mbx (s : State) (code : Nat) (sev : Nat) (unit : Nat) (wing : Nat) (gal : Nat) (detail : List Nat) : (State.report s code sev unit wing gal detail).mbx = s.mbx := by unfold State.report; (try dsimp only); (repeat' split) <;> first | rfl | simp
@[simp] theorem State.report_ledger (s : State) (code : Nat) (sev : Nat) (unit : Nat) (wing : Nat) (gal : Nat) (detail : List Nat) : (State.report s code sev unit wing gal detail).ledger = s.ledger := by unfold State.report; (try dsimp only); (repeat' split) <;> first | rfl | simp
@[simp] theorem State.report_galleries (s : State) (code : Nat) (sev : Nat) (unit : Nat) (wing : Nat) (gal : Nat) (detail : List Nat) : (State.report s code sev unit wing gal detail).galleries = s.galleries := by unfold State.report; (try dsimp only); (repeat' split) <;> first | rfl | simp
@[simp] theorem State.report_reg (s : State) (code : Nat) (sev : Nat) (unit : Nat) (wing : Nat) (gal : Nat) (detail : List Nat) : (State.report s code sev unit wing gal detail).reg = s.reg := by unfold State.report; (try dsimp only); (repeat' split) <;> first | rfl | simp
@[simp] theorem State.report_wings (s : State) (code : Nat) (sev : Nat) (unit : Nat) (wing : Nat) (gal : Nat) (detail : List Nat) : (State.report s code sev unit wing gal detail).wings = s.wings := by unfold State.report; (try dsimp only); (repeat' split) <;> first | rfl | simp
@[simp] theorem State.report_path (s : State) (code : Nat) (sev : Nat) (unit : Nat) (wing : Nat) (gal : Nat) (detail : List Nat) : (State.report s code sev unit wing gal detail).path = s.path := by unfold State.report; (try dsimp only); (repeat' split) <;> first | rfl | simp
@[simp] theorem State.report_cap (s : State) (code : Nat) (sev : Nat) (unit : Nat) (wing : Nat) (gal : Nat) (detail : List Nat) : (State.report s code sev unit wing gal detail).cap = s.cap := by unfold State.report; (try dsimp only); (repeat' split) <;> first | rfl | simp
@[simp] theorem State.report_pair (s : State) (code : Nat) (sev : Nat) (unit : Nat) (wing : Nat) (gal : Nat) (detail : List Nat) : (State.report s code sev unit wing gal detail).pair = s.pair := by unfold State.report; (try dsimp only); (repeat' split) <;> first | rfl | simp
@[simp] theorem State.report_maint (s : State) (code : Nat) (sev : Nat) (unit : Nat) (wing : Nat) (gal : Nat) (detail : List Nat) : (State.report s code sev unit wing gal detail).maint = s.maint := by unfold State.report; (try dsimp only); (repeat' split) <;> first | rfl | simp
@[simp] theorem State.report_integ (s : State) (code : Nat) (sev : Nat) (unit : Nat) (wing : Nat) (gal : Nat) (detail : List Nat) : (State.report s code sev unit wing gal detail).integ = s.integ := by unfold State.report; (try dsimp only); (repeat' split) <;> first | rfl | simp
@[simp] theorem State.report_pending (s : State) (code : Nat) (sev : Nat) (unit : Nat) (wing : Nat) (gal : Nat) (detail : List Nat) : (State.report s code sev unit wing gal detail).pending = s.pending := by unfold State.report; (try dsimp only); (repeat' split) <;> first | rfl | simp

/-! ## Tables after an update -/

@[simp] theorem State.pairAt_updPair (s : State) (i : Nat) (f : RingPair → RingPair) (j : Nat) :
    (s.updPair i f).pairAt j = if j = i then f (s.pairAt i) else s.pairAt j := SMap.getD_modify _ _ _ _ _

@[simp] theorem State.resAt_updRes (s : State) (i : Nat) (f : ResRing → ResRing) (j : Nat) :
    (s.updRes i f).resAt j = if j = i then f (s.resAt i) else s.resAt j := SMap.getD_modify _ _ _ _ _

@[simp] theorem State.chanAt_updChan (s : State) (i : Nat) (f : Chan → Chan) (j : Nat) :
    (s.updChan i f).chanAt j = if j = i then f (s.chanAt i) else s.chanAt j := SMap.getD_modify _ _ _ _ _

@[simp] theorem State.wingAt_updWing (s : State) (i : Nat) (f : Wing → Wing) (j : Nat) :
    (s.updWing i f).wingAt j = if j = i then f (s.wingAt i) else s.wingAt j := SMap.getD_modify _ _ _ _ _

@[simp] theorem State.galAt_updGal (s : State) (i : Nat) (f : Gallery → Gallery) (j : Nat) :
    (s.updGal i f).galAt j = if j = i then f (s.galAt i) else s.galAt j := SMap.getD_modify _ _ _ _ _

/-! ## The memory after an event and after a reply -/

/-- An entry that reaches its ring is written there and nowhere else (R405, R406). -/
theorem State.writeEvent_mem (s : State) (n : Nat) (bs : List Byte) :
    (s.writeEvent n bs).mem = Memory.writeBytes s.mem (evrBase n + ((SMap.getD s.cnt.evrCount n 0).toNat % 256) * 16) bs := by
  unfold State.writeEvent
  dsimp only
  split
  · rw [State.trace_mem]
  · rfl

/-- A Keeper event writes its 16 bytes to its own ring entry; one of another unit waits for its delay (R405, R406). -/
theorem State.event_mem (s : State) (n code wing arg0 arg1 : Nat) :
    (s.event n code wing arg0 arg1).mem = if n = 8 then Memory.writeBytes s.mem (evrBase 8 + ((SMap.getD s.cnt.evrCount 8 0).toNat % 256) * 16)
      (eventBytes s.now 0 code wing arg0 arg1 s.throttled) else s.mem := by
  unfold State.event
  by_cases h : n = 8
  · subst h
    simp only [if_true, State.writeEvent_mem]
  · simp only [if_neg h]
    rfl

theorem ofLe_length (n v : Nat) : (ofLe n v).length = n := by
  induction n generalizing v with
  | zero => rfl
  | succ n ih => simp [ofLe, ih]

/-- Every offset outside event ring n reads as before once an entry of 16 bytes has reached it. -/
theorem State.read_writeEvent_other {s : State} (h : Memory.wf s.mem = true) (n : Nat) (bs : List Byte) (hl : bs.length = 16) (a : Nat)
    (ha : a < evrBase n ∨ evrBase n + 0x1000 ≤ a) : Memory.read (s.writeEvent n bs).mem a = Memory.read s.mem a := by
  rw [State.writeEvent_mem, Memory.read_writeBytes_other h]
  have h2 : (SMap.getD s.cnt.evrCount n 0).toNat % 256 < 256 := Nat.mod_lt _ (by decide)
  omega

/-- Every offset outside the Keeper's event ring reads after an event as before it. -/
theorem State.read_event_other {s : State} (h : Memory.wf s.mem = true) (n code wing arg0 arg1 a : Nat)
    (ha : a < evrBase 8 ∨ evrBase 8 + 0x1000 ≤ a) : Memory.read (s.event n code wing arg0 arg1).mem a = Memory.read s.mem a := by
  rw [State.event_mem]
  split
  · rw [Memory.read_writeBytes_other h]
    have : (eventBytes s.now 0 code wing arg0 arg1 s.throttled).length = 16 := ofLe_length _ _
    have h2 : (SMap.getD s.cnt.evrCount 8 0).toNat % 256 < 256 := Nat.mod_lt _ (by decide)
    omega
  · rfl

/-- A reply leaves every offset outside its reply ring as it was; its COMMAND event reaches event ring 10 with its delay (R94, R405, R407). -/
theorem State.read_writeReply_other {s : State} (h : Memory.wf s.mem = true) (i op gallery tag status : Nat) (seq : W32) (ktime : W64)
    (data : List Byte) (a : Nat) (hr : a < 0x180000 + i * 0x10000 ∨ 0x180000 + i * 0x10000 + 0x10000 ≤ a) :
    Memory.read (s.writeReply i op gallery tag status seq ktime data).mem a = Memory.read s.mem a := by
  unfold State.writeReply
  dsimp only
  rw [State.event_mem, if_neg (by decide)]
  simp only [State.raiseVec_mem, State.updPair_mem]
  exact read_writeRpl_other h _ _ _ _ hr

end Sys2Proof.Machine
end

