-- ==== Sys2Proof/Laws/Packets.lean ====
section
/-! SUPPORT. What a command packet does once the checks of R100 and R105 are passed: the two lemmas by which a statement about one command is read off its body. -/

namespace Sys2Proof.Machine

open Sys2Proof.Safety Sys2Proof.Bytes

variable {op : Nat} {l : Layout} {ring : Fin 8} {s u : State} {c : Cmd}

theorem State.galAt_congr {t : State} (h : t.galleries = s.galleries) (g : Nat) : t.galAt g = s.galAt g := by
  unfold State.galAt
  rw [h]

/-- A packet that is taken leaves the galleries as they are. -/
theorem State.take_whole {i : Nat} {t : State} (h : s.take i = .whole c t) : t.galleries = s.galleries := by
  have hb : (s.breakChain i (s.headerAt i)).galleries = s.galleries := by
    unfold State.breakChain
    split
    · rfl
    · split
      · rfl
      · simp
  unfold State.take State.advance at h
  split at h
  · dsimp only at h
    split at h
    · cases h
    · split at h
      · cases h
      · split at h
        · cases h
        · split at h
          · cases h
          · cases h
            exact hb
  · cases h

theorem State.wakeSwitch_galleries (s : State) (d : Dom) : (s.wakeSwitch d).galleries = s.galleries := by
  unfold State.wakeSwitch
  dsimp only
  by_cases h : ((s.power.dom d).req || (s.power.dom d).waiting) = true
  · rw [if_pos h]
  · rw [if_neg h]
    unfold State.updDom
    dsimp only
    split <;> rfl

/-- A wake leaves the galleries as they are. -/
theorem State.wake_galleries (s : State) (ds : List Dom) : (s.wake ds).galleries = s.galleries := by
  have hf : ∀ (l : List Dom) (t : State), (l.foldl State.wakeSwitch t).galleries = t.galleries := by
    intro l
    induction l with
    | nil => exact fun _ => rfl
    | cons d l ih => exact fun t => (ih _).trans (State.wakeSwitch_galleries t d)
  unfold State.wake
  split
  · rfl
  · rw [hf, State.wakeSwitch_galleries]
    unfold State.requestFclk
    repeat' split
    all_goals first | rfl | (unfold State.raiseFclk; dsimp only; simp)

/-- A wake of the crypto engine leaves the galleries as they are. -/
theorem State.cryptoWake_galleries (s : State) (op g : Nat) : (s.cryptoWake op g).galleries = s.galleries := by
  unfold State.cryptoWake
  split
  · exact State.wake_galleries _ _
  · rfl

/-- A gallery's change told to the partner, in the words of the statements (R340). -/
theorem State.pairGallery_eq (s : State) (g : Nat) (a : GalleryAct) : s.pairGallery g a = partnerTold s g a := by
  have h : (s.sendFrame (.gallery g a)).fenceNow = s.pair.fseqNext := by
    unfold State.fenceNow State.sendFrame
    rw [State.count_pair]
    rfl
  unfold State.pairGallery partnerTold
  dsimp only
  rw [h]

/-- A clear command that passes its checks is its body, answered. -/
theorem clearCommand_clear {body : Cmd → State → Done} (h : Clear op l ring s c u) :
    clearCommand op l body ring s = answered c u (body c u) := by
  obtain ⟨ho, t, ht, hc, rfl⟩ := h
  have hg : ((t.cryptoWake c.op c.gallery).applied).galAt c.gallery = t.galAt c.gallery :=
    State.galAt_congr (State.cryptoWake_galleries t c.op c.gallery) _
  simp [clearCommand, ho, ht, hc, answered, hg]

/-- A sealed command that opens and whose counter is above the last is its body, answered. -/
theorem sealedCommand_sealed {env : List Byte → Envelope} {accepts : List Byte → Bool} {body : Cmd → Opened → State → Done} {o : Opened}
    (h : Sealed op l env accepts ring s c o u) :
    sealedCommand op l env accepts body ring s = answeredSealed s c u (body c o u) := by
  obtain ⟨ho, t, pt, ht, hc, hp, ha, hl, rfl, rfl⟩ := h
  have hg : { (((t.cryptoWake c.op c.gallery).acceptCtr c.gallery (field (env c.payload).nonce 4 8)).applied).galAt c.gallery with
      lastCtr := (s.galAt c.gallery).lastCtr } = t.galAt c.gallery := by
    have h1 : s.galAt c.gallery = t.galAt c.gallery := State.galAt_congr (State.take_whole ht).symm _
    have h2 : (t.cryptoWake c.op c.gallery).galAt c.gallery = t.galAt c.gallery :=
      State.galAt_congr (State.cryptoWake_galleries t c.op c.gallery) _
    have h3 : (((t.cryptoWake c.op c.gallery).acceptCtr c.gallery (field (env c.payload).nonce 4 8)).applied).galAt c.gallery
        = { t.galAt c.gallery with lastCtr := BitVec.ofNat 64 (field (env c.payload).nonce 4 8) } := by
      refine (State.galAt_congr (s := (t.cryptoWake c.op c.gallery).acceptCtr c.gallery (field (env c.payload).nonce 4 8)) rfl _).trans ?_
      unfold State.acceptCtr
      refine (State.galAt_updGal _ _ _ _).trans ?_
      rw [if_pos rfl, h2]
    rw [h1, h3]
  simp only [sealedCommand, ho, ht, hc, hp, ha, answeredSealed, ne_eq, not_true_eq_false, if_false, Bool.not_true]
  rw [if_neg (by simp), if_neg (by omega), hg]

/-- What a clear command that fails before its body does. -/
theorem clearCommand_fails {body : Cmd → State → Done} (ho : (s.headerAt ring.val).op = op) :
    (s.take ring.val = .nothing → clearCommand op l body ring s = s)
    ∧ (s.take ring.val = .badCrc c u → clearCommand op l body ring s = u.answer c stBadCrc [])
    ∧ (s.take ring.val = .tooLong c u → clearCommand op l body ring s = u.answer c stBadLength [])
    ∧ (s.take ring.val = .part u → clearCommand op l body ring s = u)
    ∧ ∀ st data, s.take ring.val = .whole c u → u.checks c l = some (st, data) → clearCommand op l body ring s = u.answer c st data := by
  refine ⟨fun h => ?_, fun h => ?_, fun h => ?_, fun h => ?_, fun st data h k => ?_⟩ <;> simp [clearCommand, *]

/-- What a sealed command that fails before its field is opened does. -/
theorem sealedCommand_fails {env : List Byte → Envelope} {accepts : List Byte → Bool} {body : Cmd → Opened → State → Done}
    (ho : (s.headerAt ring.val).op = op) :
    (s.take ring.val = .nothing → sealedCommand op l env accepts body ring s = s)
    ∧ (s.take ring.val = .badCrc c u → sealedCommand op l env accepts body ring s = u.answer c stBadCrc [])
    ∧ (s.take ring.val = .tooLong c u → sealedCommand op l env accepts body ring s = u.answer c stBadLength [])
    ∧ (s.take ring.val = .part u → sealedCommand op l env accepts body ring s = u)
    ∧ ∀ st data, s.take ring.val = .whole c u → u.checks c l = some (st, data) → sealedCommand op l env accepts body ring s = u.answer c st data := by
  refine ⟨fun h => ?_, fun h => ?_, fun h => ?_, fun h => ?_, fun st data h k => ?_⟩ <;> simp [sealedCommand, *]

end Sys2Proof.Machine
end

