-- ==== Sys2Proof/WellFormed.lean ====
section
/-! DEFINITION. Which commands are well formed: their operands fit the port, table or unit they come from. -/

namespace Sys2Proof

/-- The offset fits the port's address lines: 25 bits on HIF, 16 on MBX (03 ports, HIF and MBX signals). -/
def Port.offsetOk : Port → Nat → Bool
  | .hif, a => decide (a < 2 ^ 25)
  | .mbx, a => decide (a < 2 ^ 16)

/-- The data length is one of the port's access sizes: 4, 8 or 64 bytes on HIF, 4 on MBX. -/
def Port.sizeOk : Port → Nat → Bool
  | .hif, n => decide (n = 4) || decide (n = 8) || decide (n = 64)
  | .mbx, n => decide (n = 4)

/-- A command's operands are ones its row can carry. -/
def Instr.wf : Instr → Bool
  | .registerWrite p _ a d => p.offsetOk a && p.sizeOk d.length
  | .accessRefused p _ _ a d => p.offsetOk a && p.sizeOk d.length
  | .hifAccessWake _ _ a d => Port.hif.offsetOk a && Port.hif.sizeOk d.length
  | .readClear _ a => Port.hif.offsetOk a
  | .lowWordRead _ a => Port.hif.offsetOk a
  | .highWordRead _ a => Port.hif.offsetOk a
  | .windowOpen _ k => decide (k < 64)
  | .windowClose _ k => decide (k < 64)
  | .candidateBurst _ a _ _ d => decide (a < 2 ^ 18) && decide (d.length = 128)
  | .shardHeader _ p _ d => decide (p < 2 ^ 18) && decide (d.length = 32)
  | .rowAreaFree _ r => decide (r < 2048)
  | .rowCommit _ r => decide (r < 2048)
  | .treeTake t => decide (t < 32)
  | .mergeResult t => decide (t < 32)
  | .treeOverrun t => decide (t < 32)
  | .laneDispatch l => decide (l < 128)
  | .unitSampled l => decide (l < 128)
  | .laneOverrun l => decide (l < 128)
  | .smpResponse t st d => decide (t < 256) && decide (st < 8) && decide (d.length = 64)
  | .deadlineFired n => decide (n < 65536)
  | .grvGallery _ g _ => decide (g < 64)
  | .grvCounter _ g _ => decide (g < 64)
  | .galleryCloseComplete g => decide (g < 64)
  | .scrubCodeword r row c w => decide (r < 10) && decide (row < 2 ^ 16) && decide (c < 64) && (decide (w.length = 35) || decide (w.length = 64))
  | .copyCleared _ p => decide (p < 2 ^ 32)
  | _ => true

end Sys2Proof
end

