-- ==== Sys2Proof/Tests/Slice0.lean ====
section
/-! SUPPORT. The package's own tests: well-formedness, a few steps, and for every statement with hypotheses states and operands that meet them. -/

namespace Sys2Proof.Tests

set_option Elab.async false

open Sys2Proof.Machine Sys2Proof.Bytes Sys2Proof.Safety

/-! ## Well-formedness -/

/-- Terms that a check of `Instr.wf` refuses, one for each check, each with one that it takes. -/
theorem test_wf_refuses :
    (∀ i ∈ [Instr.registerWrite .mbx 0 0x10000 [0, 0, 0, 0], .registerWrite .hif 0 0x2000 [0, 0], .accessRefused .mbx 0 true 0x10000 [0, 0, 0, 0],
        .accessRefused .hif 0 true 0 [0], .hifAccessWake 0 true (2 ^ 25) [0, 0, 0, 0], .hifAccessWake 0 true 0 [0], .readClear 0 (2 ^ 25),
        .lowWordRead 0 (2 ^ 25), .highWordRead 0 (2 ^ 25), .windowOpen 0 64, .windowClose 0 64], i.wf = false)
    ∧ (∀ i ∈ [Instr.candidateBurst 0 (2 ^ 18) 1 0 (List.replicate 128 0), .candidateBurst 0 0 1 0 [], .shardHeader 0 (2 ^ 18) true (List.replicate 32 0),
        .shardHeader 0 0 true [], .rowAreaFree 0 2048, .rowCommit 0 2048, .treeTake 32, .mergeResult 32, .treeOverrun 32, .laneDispatch 128,
        .unitSampled 128, .laneOverrun 128], i.wf = false)
    ∧ (∀ i ∈ [Instr.smpResponse 256 0 (List.replicate 64 0), .smpResponse 0 8 (List.replicate 64 0), .smpResponse 0 0 [], .deadlineFired 65536,
        .grvGallery {} 64 .close, .grvCounter {} 64 0, .galleryCloseComplete 64, .scrubCodeword 10 0 0 (List.replicate 35 0),
        .scrubCodeword 0 (2 ^ 16) 0 (List.replicate 35 0), .scrubCodeword 0 0 64 (List.replicate 35 0), .scrubCodeword 0 0 0 [],
        .copyCleared 0 (2 ^ 32)], i.wf = false)
    ∧ ∀ i ∈ [Instr.registerWrite .mbx 0 0xFFFC [0, 0, 0, 0], .registerWrite .hif 0 (2 ^ 25 - 4) [0, 0, 0, 0], .windowOpen 0 63, .rowCommit 0 2047,
        .treeTake 31, .laneDispatch 127, .smpResponse 255 7 (List.replicate 64 0), .deadlineFired 65535, .galleryCloseComplete 63,
        .scrubCodeword 9 0xFFFF 63 (List.replicate 35 0), .nop 7], i.wf = true := by decide

/-- The table gives no row bits, so no word spells a command. -/
theorem test_no_word_decodes : decodeTableWord 0 0 = none ∧ decodeTableWord 32 5 = none := by decide

/-! ## States -/

/-- A domain that is on. -/
def on : DomSt := { req := true, ack := true, active := true }

/-- A capsule with the bindings that R118 requires. -/
def cap0 : Capsule := { limits := Config.built .L, bindings := [(0, 0x28, 0x48), (1, 0x28, 0x40), (2, 0x40, 0x28)] }

/-- Basam after start-up, 10 s after POR_N rose, every domain on. -/
def up : State :=
  { kpr := { porLow := false, ready := true, phase := 0x07, ktime := 1000000000, caps := Config.built .L, deviceKey := true
             capsule := some cap0, image := some {}, capValid := true, fwRun := true }
    power := { fclkReq := true, fclkAck := true, registrar := on, curator := on, intake := on, docent := on, control := on, linkUp := true }
    galleries := [(0, { state := 1 })] }

/-- A command packet (R96): opcode, flags, tag, gallery, and a payload of whole units. -/
def packet (op flags tag gallery : Nat) (pl : List Byte) : List Byte :=
  let head := ofLe 1 op ++ ofLe 1 flags ++ ofLe 2 (1 + pl.length / 16) ++ ofLe 4 tag ++ ofLe 1 gallery ++ ofLe 3 0
  head ++ ofLe 4 (crc32c (head ++ ofLe 4 0 ++ pl)) ++ pl

/-- The state with a packet in command ring 0, its doorbell rung. -/
def given (s : State) (p : List Byte) : State :=
  { s with
    mem := p.zipIdx.filterMap fun e => if e.1 = 0 then none else some (0x100000 + e.2, e.1)
    rings := { s.rings with pairs := [(0, { cmdPi := BitVec.ofNat 13 (p.length / 16) })] } }

/-- `n` zero bytes. -/
def z (n : Nat) : List Byte := List.replicate n 0

/-- Whether a clear command of ring 0 passes its checks in a state, and a test of the command and the state it acts on. -/
def clearHolds (op : Nat) (l : Layout) (s : State) (p : Cmd → State → Bool) : Bool :=
  match s.take 0 with
  | .whole c t => decide ((s.headerAt 0).op = op) && (t.checks c l).isNone && p c (t.cryptoWake c.op c.gallery).applied
  | _ => false

/-- The test gives the hypotheses of a statement about a clear command. -/
theorem clear_of {op : Nat} {l : Layout} {s : State} {p : Cmd → State → Bool} (h : clearHolds op l s p = true) :
    ∃ c u, Clear op l 0 s c u ∧ p c u = true := by
  unfold clearHolds at h
  split at h
  · rename_i c t ht
    simp only [Bool.and_eq_true, decide_eq_true_eq, Option.isNone_iff_eq_none] at h
    exact ⟨c, _, ⟨h.1.1, t, ht, h.1.2, rfl⟩, h.2⟩
  · cases h

/-- The same for a sealed command, where the gallery sends in clear. -/
def sealedHolds (op : Nat) (l : Layout) (env : List Byte → Envelope) (acc : List Byte → Bool) (s : State) (p : Cmd → Opened → State → Bool) : Bool :=
  match s.take 0 with
  | .whole c t =>
    let e := env c.payload
    match t.opened c.gallery e with
    | .ok pt => decide ((s.headerAt 0).op = op) && (t.checks c l).isNone && acc pt && decide ((t.galAt c.gallery).lastCtr.toNat < field e.nonce 4 8)
        && p c { ctr := field e.nonce 4 8, nonce := e.nonce, target := e.target, plain := pt }
          ((t.cryptoWake c.op c.gallery).acceptCtr c.gallery (field e.nonce 4 8)).applied
    | .error _ => false
  | _ => false

theorem sealed_of {op : Nat} {l : Layout} {env : List Byte → Envelope} {acc : List Byte → Bool} {s : State} {p : Cmd → Opened → State → Bool}
    (h : sealedHolds op l env acc s p = true) : ∃ c o u, Sealed op l env acc 0 s c o u ∧ p c o u = true := by
  unfold sealedHolds at h
  split at h
  · rename_i c t ht
    simp only at h
    split at h
    · rename_i pt hp
      simp only [Bool.and_eq_true, decide_eq_true_eq, Option.isNone_iff_eq_none] at h
      exact ⟨c, _, _, ⟨h.1.1.1.1, t, pt, ht, h.1.1.1.2, hp, h.1.1.2, h.1.2, rfl, rfl⟩, h.2⟩
    · cases h
  · cases h

/-- A clear command without further hypotheses. -/
theorem clear_plain {op : Nat} {l : Layout} {s : State} (h : clearHolds op l s (fun _ _ => true) = true) : ∃ c u, Clear op l 0 s c u :=
  (clear_of h).imp fun _ h => h.imp fun _ h => h.1

/-- A packet of an opcode with an empty payload, in gallery 0. -/
def bare (op : Nat) : List Byte := packet op 0 7 0 []

/-- Bytes padded to whole units. -/
def padded (bs : List Byte) : List Byte := slice bs 0 (16 * ceilDiv bs.length 16)

/-- A plaintext with its LENGTH (R329), padded. -/
def plainOf (bs : List Byte) : List Byte := padded (ofLe 4 (4 + bs.length) ++ bs)

/-- The payload of a sealed command in gallery 0: NONCE with counter 1, TARGET, the plaintext in clear, a zero tag. -/
def clearSeal (target : Nat) (pt : List Byte) : List Byte := ofLe 4 1 ++ ofLe 8 1 ++ ofLe 4 target ++ pt ++ z 16

/-! ## Steps, packets, replies -/

theorem witness_StepRunsTheFrontCommand : ({ up with pending := [.nop 0] } : State).pending = .nop 0 :: [] ∧ up.pending = [] := ⟨rfl, rfl⟩

/-- Whether an outcome is a next state that passes a test. -/
def nextIs (o : Host.Outcome State Fault Refusal) (p : State → Bool) : Bool :=
  match o with
  | .next t => p t
  | .fault _ => false
  | .refused _ => false

theorem next_of {o : Host.Outcome State Fault Refusal} {p : State → Bool} (h : nextIs o p = true) : ∃ t, o = .next t ∧ p t = true := by
  cases o with
  | next t => exact ⟨t, rfl, h⟩
  | fault e => cases h
  | refused e => cases h

theorem step_idle (s : State) (h : s.pending = []) : ∃ t, step s = .next t := by
  unfold step
  rw [h]
  exact ⟨_, rfl⟩

theorem step_nop (s : State) (h : s.pending = [.nop 0]) : ∃ t, step s = .next t := by
  unfold step
  rw [h]
  exact ⟨_, rfl⟩

theorem witness_RingMemoryStaysCanonical : (Memory.wf up.mem = true ∧ ∃ t, step up = .next t)
    ∧ Memory.wf (given up (bare 0)).mem = true ∧ ∃ t, step { given up (bare 0) with pending := [.nop 0] } = .next t :=
  ⟨⟨by decide +kernel, step_idle _ rfl⟩, by decide +kernel, step_nop _ rfl⟩

theorem witness_KtimeCountsTicksAndNothingElse : State.reset.kpr.porLow = true
    ∧ (∃ t, exec .farListScan up = .next t ∧ decide (Instr.farListScan ≠ .resetRelease .por) = true)
    ∧ ∃ t, exec (.resetRelease .por) up = .next t ∧ decide (up.kpr.porLow = false) = true :=
  ⟨rfl, next_of (p := fun _ => decide (Instr.farListScan ≠ .resetRelease .por)) (by decide +kernel),
   next_of (p := fun _ => decide (up.kpr.porLow = false)) (by decide +kernel)⟩

theorem witness_OnlyServiceUnlockUnlocks :
    (∃ t, exec (.nop 0) { up with sec := { unlocked := true } } = .next t ∧ t.sec.unlocked = true)
    ∧ ({ up with sec := { unlocked := true } } : State).tick.sec.unlocked = true :=
  ⟨next_of (by decide +kernel), by decide +kernel⟩

theorem witness_RepliesAreWrittenToTheirRing : ({ state := up } : Done).waits = none ∧ Memory.wf ({ state := up } : Done).state.mem = true := by
  decide

/-- Whether taking the packet of ring 0 ends in a given way. -/
def takes (s : State) (p : Taken → Bool) : Bool := p (s.take 0)

def isWhole (t : Taken) : Bool := match t with | .whole .. => true | _ => false
def isBadCrc (t : Taken) : Bool := match t with | .badCrc .. => true | _ => false
def isTooLong (t : Taken) : Bool := match t with | .tooLong .. => true | _ => false
def isPart (t : Taken) : Bool := match t with | .part .. => true | _ => false
def isNothing (t : Taken) : Bool := match t with | .nothing => true | _ => false

/-- Whether a whole command of ring 0 fails a check. -/
def isRefused (l : Layout) (t : Taken) : Bool := match t with | .whole c s => (s.checks c l).isSome | _ => false

theorem whole_of {s : State} (h : takes s isWhole = true) : ∃ c t, s.take 0 = .whole c t := by
  unfold takes isWhole at h
  split at h
  · exact ⟨_, _, ‹_›⟩
  · cases h

theorem badCrc_of {s : State} (h : takes s isBadCrc = true) : ∃ c t, s.take 0 = .badCrc c t := by
  unfold takes isBadCrc at h
  split at h
  · exact ⟨_, _, ‹_›⟩
  · cases h

theorem tooLong_of {s : State} (h : takes s isTooLong = true) : ∃ c t, s.take 0 = .tooLong c t := by
  unfold takes isTooLong at h
  split at h
  · exact ⟨_, _, ‹_›⟩
  · cases h

theorem part_of {s : State} (h : takes s isPart = true) : ∃ t, s.take 0 = .part t := by
  unfold takes isPart at h
  split at h
  · exact ⟨_, ‹_›⟩
  · cases h

theorem nothing_of {s : State} (h : takes s isNothing = true) : s.take 0 = .nothing := by
  unfold takes isNothing at h
  split at h
  · assumption
  · cases h

theorem refused_of {s : State} {l : Layout} (h : takes s (isRefused l) = true) :
    ∃ c t st data, s.take 0 = .whole c t ∧ t.checks c l = some (st, data) := by
  unfold takes isRefused at h
  split at h
  · obtain ⟨x, hx⟩ := Option.isSome_iff_exists.mp h
    exact ⟨_, _, x.1, x.2, ‹_›, hx⟩
  · cases h

/-- A state with a packet whose chain already holds 128 packets. -/
def long (op : Nat) : State :=
  let s := given up (bare op)
  s.updPair 0 fun p => { p with chain := some { op := op, tag := 7, packets := 128 } }

/-- LENGTH 0 and LENGTH 2,049, and an undefined opcode. -/
theorem witness_BadPacketsAreAnswered :
    (opcodes.contains ((given up (bare 0xFF)).headerAt 0).op = false ∧ ∃ c t, (given up (bare 0xFF)).take 0 = .whole c t)
    ∧ (∀ n ∈ [0, 2049], (given up ([0, 0] ++ ofLe 2 n ++ z 12)).nextRing = some 0
      ∧ ((given up ([0, 0] ++ ofLe 2 n ++ z 12)).headerAt 0).lengthOk = false) :=
  ⟨⟨by decide +kernel, whole_of (by decide +kernel)⟩, by decide +kernel⟩

theorem witness_PacketsAreCheckedFirst :
    (∀ op ∈ [0x00, 0x15], ((given up (bare op)).headerAt 0).op = op ∧ ({ given up (bare op) with power := {} } : State).take 0 = .nothing
      ∧ (∃ c t, (given up ((bare op).take 12 ++ z 4)).take 0 = .badCrc c t) ∧ (∃ c t, (long op).take 0 = .tooLong c t)
      ∧ (∃ t, (given up (packet op 1 7 0 [])).take 0 = .part t))
    ∧ (∃ c t st data, (given up (packet 0x00 4 7 0 [])).take 0 = .whole c t ∧ t.checks c noPayload = some (st, data))
    ∧ (∃ c t st data, (given up (packet 0x15 4 7 0 [])).take 0 = .whole c t ∧ t.checks c sealedLayout0 = some (st, data))
    ∧ (0x00, noPayload, Instr.nop 0) ∈ clearRows 0 none none ∧ (0x15, sealedLayout0, Instr.galleryReport 0) ∈ sealedRows 0 := by
  refine ⟨?_, refused_of (by decide +kernel), refused_of (by decide +kernel), by simp [clearRows], by simp [sealedRows]⟩
  intro op h
  simp only [List.mem_cons, List.not_mem_nil, or_false] at h
  rcases h with rfl | rfl <;>
    exact ⟨by decide +kernel, nothing_of (by decide +kernel), badCrc_of (by decide +kernel), tooLong_of (by decide +kernel),
      part_of (by decide +kernel)⟩

theorem witness_StatusAndReadCommandsReport :
    (∃ c u, Clear 0x00 noPayload 0 (given up (bare 0x00)) c u) ∧ (∃ c u, Clear 0x01 noPayload 0 (given up (bare 0x01)) c u)
    ∧ (∃ c u, Clear 0x16 noPayload 0 (given up (bare 0x16)) c u) ∧ (∃ c u, Clear 0x42 noPayload 0 (given up (bare 0x42)) c u)
    ∧ (∃ c u, Clear 0x50 noPayload 0 (given up (bare 0x50)) c u)
    ∧ (∃ c u, Clear 0x02 certificateLayout 0 (given up (packet 0x02 0 7 0 (ofLe 4 0 ++ ofLe 4 32704 ++ z 8))) c u)
    ∧ (∃ c u, Clear 0x03 { lenOk := fun pl => decide (pl.length = 48) } 0 (given up (packet 0x03 0 7 0 (z 48))) c u)
    ∧ (∃ c u, Clear 0x56 ledgerReadLayout 0 (given up (packet 0x56 0 7 0 (ofLe 4 0xFFFFF0 ++ ofLe 4 16 ++ z 8))) c u
      ∧ (decide (u.runs 6 none = false) && (u.ledger.readAt (field c.payload 0 4) (field c.payload 4 4)).isSome) = true) :=
  ⟨clear_plain (by decide +kernel), clear_plain (by decide +kernel), clear_plain (by decide +kernel), clear_plain (by decide +kernel),
   clear_plain (by decide +kernel), clear_plain (by decide +kernel), clear_plain (by decide +kernel), clear_of (by decide +kernel)⟩

/-! ## Galleries -/

/-- A part joined with its partner. -/
def joined : State := { up with
  kpr := { up.kpr with capsule := some { cap0 with partner := some { side := 1, records := 64 } } }
  pair := { state := .paired, session := true, lastFrame := some 999990000 } }

theorem witness_GalleryOpenOpens :
    (∃ c u, Clear 0x10 openLayout 0 (given up (packet 0x10 0 7 63 (z 176))) c u
      ∧ (decide (u.pairActRefusal c.gallery = none) && !u.runs 6 none && !u.pairActs) = true)
    ∧ ∃ c u, Clear 0x10 openLayout 0 (given joined (packet 0x10 0 7 63 (z 176))) c u
      ∧ (decide (u.pairActRefusal c.gallery = none) && !u.runs 6 none && u.pairActs) = true :=
  ⟨clear_of (by decide +kernel), clear_of (by decide +kernel)⟩

/-- A tenant gallery that is open, alone and with a partner, and the same closing. -/
def open1 : State := { up with galleries := [(0, { state := 1 }), (1, { state := 1 })] }
def joined1 : State := { joined with galleries := [(0, { state := 1 }), (1, { state := 1 })] }
def closing1 : State := { up with galleries := [(0, { state := 1 }), (1, { state := 2 })] }

theorem witness_GalleryCloseClosesInTwoActs :
    (∃ c u, Clear 0x11 noPayload 0 (given open1 (packet 0x11 0 7 1 [])) c u
      ∧ (decide (c.gallery ≠ 0) && decide (u.pairActRefusal c.gallery = none) && decide (u.conflict 10 c.gallery = none) && !u.pairActs) = true)
    ∧ (∃ c u, Clear 0x11 noPayload 0 (given joined1 (packet 0x11 0 7 1 [])) c u
      ∧ (decide (c.gallery ≠ 0) && decide (u.pairActRefusal c.gallery = none) && decide (u.conflict 10 c.gallery = none) && u.pairActs) = true)
    ∧ closing1.dead = false ∧ (closing1.galAt 1).state = 2 ∧ (closing1.galAt 1).erasing = [] ∧ ∀ r ∈ closing1.allReqs, r.gallery ≠ 1 :=
  ⟨clear_of (by decide +kernel), clear_of (by decide +kernel), by decide +kernel⟩

theorem witness_GalleryBudgetAndReport :
    (∃ c u, Clear 0x12 (layout 32 [(18, 6)] fun _ _ => none) 0 (given up (packet 0x12 0 7 0 (z 32))) c u
      ∧ (!u.budgetInfeasible c.gallery (parseBudget c.payload)) = true)
    ∧ ∃ c o u, Sealed 0x15 sealedLayout0 plainEnvelope (fun _ => true) 0 (given up (packet 0x15 0 7 0 (clearSeal 0 (plainOf [])))) c o u
      ∧ ((openBody o.plain).any fun b => decide (b.length = 4)) = true :=
  ⟨clear_of (by decide +kernel), sealed_of (by decide +kernel)⟩

theorem witness_GalleryRekeyChangesKeys :
    (∃ c t, ((given up (packet 0x13 0 7 0 (clearSeal 0 (plainOf (z 97))))).headerAt 0).op = 0x13
      ∧ (given up (packet 0x13 0 7 0 (clearSeal 0 (plainOf (z 97))))).take 0 = .whole c t ∧ t.checks c sealedLayout0 = none)
    ∧ openBody (plainOf (z 97)) = some (ofLe 4 101 ++ z 97) ∧ (ofLe 4 101 ++ z 97 : List Byte).length = 101
    ∧ open1.pairActRefusal 1 = none ∧ open1.conflict 7 1 = none ∧ open1.pairActs = false
    ∧ joined1.pairActRefusal 1 = none ∧ joined1.conflict 7 1 = none ∧ joined1.pairActs = true := by
  obtain ⟨c, u, ⟨ho, t, ht, hc, _⟩⟩ := clear_plain (op := 0x13) (l := sealedLayout0)
    (s := given up (packet 0x13 0 7 0 (clearSeal 0 (plainOf (z 97))))) (by decide +kernel)
  exact ⟨⟨c, t, ho, ht, hc⟩, by decide +kernel⟩

/-- Gallery 0 with an aid of one state, one mask and one transition as BEGIN leaves it, and one that only awaits FINAL; alone and with a partner. -/
def aids1 : State := { up with galleries := [(0, { state := 1, aids := [(1, { vocab := 8, states := 1, masks := 1, transitions := 1 }),
  (2, { vocab := 8, states := 1, stateItems := [(0, (false, 0))] })] })] }

def aids2 : State := { joined with galleries := aids1.galleries }

/-- Segments of AID_LOAD (R330): kind and target, then the body. -/
def segOf (seg target : Nat) (body : List Byte) : List Byte := packet 0x14 0 7 0 (clearSeal target (plainOf (ofLe 1 seg ++ z 3 ++ body)))

/-- The hypotheses about a segment. -/
def segTest (c : Cmd) (o : Opened) (u : State) : Bool :=
  decide (u.pairActRefusal c.gallery = none) && match u.segCheck c.gallery o.target o.plain with
    | .ok (n, a) =>
      let asks := u.pairActs && (decide (field o.plain 4 1 = 1) || decide (field o.plain 4 1 = 5))
      ((if asks then { u with free := u.free + 1 } else u).applySeg c.gallery n a none).isSome
    | .error _ => false

theorem witness_AidSegmentsBuildAnAid :
    (∃ c o u, Sealed 0x14 sealedLayout plainEnvelope (isSeg 1) 0 (given aids1 (segOf 1 0 (ofLe 4 8 ++ ofLe 4 1 ++ z 12))) c o u ∧ segTest c o u = true)
    ∧ (∃ c o u, Sealed 0x14 sealedLayout plainEnvelope (isSeg 2) 0 (given aids1 (segOf 2 1 (z 4 ++ ofLe 4 1 ++ z 4))) c o u ∧ segTest c o u = true)
    ∧ (∃ c o u, Sealed 0x14 sealedLayout plainEnvelope (isSeg 3) 0 (given aids1 (segOf 3 1 (ofLe 4 1 ++ ofLe 4 1 ++ [0xFF]))) c o u ∧ segTest c o u = true)
    ∧ (∃ c o u, Sealed 0x14 sealedLayout plainEnvelope (isSeg 4) 0 (given aids1 (segOf 4 1 (ofLe 4 1 ++ z 12))) c o u ∧ segTest c o u = true)
    ∧ (∃ c o u, Sealed 0x14 sealedLayout plainEnvelope (isSeg 5) 0 (given aids1 (segOf 5 2 [])) c o u ∧ segTest c o u = true)
    ∧ (∃ c o u, Sealed 0x14 sealedLayout plainEnvelope (isSeg 6) 0 (given aids1 (segOf 6 1 [])) c o u ∧ segTest c o u = true)
    ∧ (∃ c o u, Sealed 0x14 sealedLayout plainEnvelope (isSeg 2) 0 (given aids2 (segOf 2 1 (z 4 ++ ofLe 4 1 ++ z 4))) c o u
      ∧ (segTest c o u && u.pairActs) = true)
    ∧ (∃ c o u, Sealed 0x14 sealedLayout plainEnvelope (isSeg 5) 0 (given aids2 (segOf 5 2 [])) c o u ∧ (segTest c o u && u.pairActs) = true) :=
  ⟨sealed_of (by decide +kernel), sealed_of (by decide +kernel), sealed_of (by decide +kernel), sealed_of (by decide +kernel), sealed_of (by decide +kernel), sealed_of (by decide +kernel),
   sealed_of (by decide +kernel), sealed_of (by decide +kernel)⟩

/-! ## Requests and policy -/

/-- A catalogue entry for embedding requests. -/
def embedEntry : CatEntry := { cycles := 36000, energyUj := 1, rows := 8, chunkSlots := 1, chunkLen := 128, embed := true, rowInvariant := true }

/-- Basam with that entry committed on wing 0, and a budget and prompt room for gallery 0. -/
def cat1 : State := { up with
  kpr := { up.kpr with capsule := some { cap0 with wings := [{ promptBytes := 4096, pages := 64 }, {}, {}, {}] } }
  galleries := [(0, { state := 1, budget := { concurrency := 4, loanQuota := 64 } })]
  wings := [(0, { committed := [embedEntry] })] }

theorem witness_PolicyAndCapComeIntoForce :
    (∃ c u, Clear 0x34 (layout 16 [(6, 10)] fun _ _ => none) 0 (given up (packet 0x34 0 7 0 (z 16))) c u)
    ∧ (∃ c u, Clear 0x33 policyLayout 0 (given cat1 (packet 0x33 0 7 0 (z 16))) c u
      ∧ (u.hasCatalogue (field c.payload 0 1) && !(parsePolicy c.payload).fixed && !u.policyInfeasible (field c.payload 0 1) (parsePolicy c.payload)) = true)
    ∧ ∃ c u, Clear 0x33 policyLayout 0 (given { up with wings := [(3, { commitNext := some ([{ embedEntry with shapeId := 0xC00, fixedEligible := true }], 0) })] }
        (packet 0x33 0 7 0 ([3, 1] ++ ofLe 2 0xC00 ++ z 12))) c u
      ∧ (let w := field c.payload 0 1
         let p := parsePolicy c.payload
         p.fixed && (u.wingAt w).commitNext.isSome && (u.wingAt w).fixedOk w (u.wingAt w).composeSection p && !u.policyInfeasible w p) = true :=
  ⟨clear_plain (by decide +kernel), clear_of (by decide +kernel), clear_of (by decide +kernel)⟩

/-- The payload of a SUBMIT: kind, class, a prompt of one token, a sampling block. -/
def submitOf (kind cls maxTokens : Nat) (sampling : List Byte) : List Byte :=
  ofLe 4 1 ++ ofLe 8 1 ++ [BitVec.ofNat 8 kind, BitVec.ofNat 8 cls, 0, 0] ++ ofLe 4 1 ++ ofLe 4 maxTokens ++ z 12 ++ ofLe 4 160 ++ z 8
    ++ slice (ofLe 4 148 ++ z 44 ++ slice sampling 0 64 ++ ofLe 4 1 ++ z 28 ++ ofLe 4 5) 0 160 ++ z 16

/-- The request a SUBMIT describes, and what its tests ask. -/
def submitTest (p : State → Req → Ask → List Nat → Bool) (c : Cmd) (o : Opened) (u : State) : Bool :=
  let blk := slice c.payload 0 48
  match u.parseSubmit c.gallery blk o.plain with
  | none => false
  | some r => p u r { gallery := c.gallery, cls := r.cls, kind := r.kind, build := r.modelBuild, sampling := r.sampling, itl := r.itlUs
                      ttft := field blk 24 4, completion := field blk 32 4, maxTokens := r.maxTokens
                      bound := field blk 16 4, owed := prefillLength r.kind (field blk 16 4) } (u.wingSet c.gallery (field blk 14 1))

def admits (a : Admission) : Bool := match a with | .pass _ => true | .fail .. => false

theorem witness_SubmitAccessionsARequest :
    (∃ c o u, Sealed 0x20 submitLayout submitEnvelope (fun _ => true) 0
        (given { cat1 with kpr := { cat1.kpr with caps := { cat1.kpr.caps with methods := 0 } } }
          (packet 0x20 0 7 0 (submitOf 0 2 1 ([1] ++ z 7 ++ ofLe 4 65536)))) c o u
      ∧ submitTest (fun u r _ _ => !u.methodOk r.kind r.sampling r.speculative) c o u = true)
    ∧ (∃ c o u, Sealed 0x20 submitLayout submitEnvelope (fun _ => true) 0 (given up (packet 0x20 0 7 0 (submitOf 1 2 0 []))) c o u
      ∧ submitTest (fun u r a ws => u.methodOk r.kind r.sampling r.speculative && !admits (u.admission a admitOrder ws)) c o u = true)
    ∧ ∃ c o u, Sealed 0x20 submitLayout submitEnvelope (fun _ => true) 0 (given cat1 (packet 0x20 0 7 0 (submitOf 1 2 0 []))) c o u
      ∧ submitTest (fun u r a ws => u.methodOk r.kind r.sampling r.speculative && admits (u.admission a admitOrder ws) && u.freeSlotNo.isSome) c o u = true :=
  ⟨sealed_of (by decide +kernel), sealed_of (by decide +kernel), sealed_of (by decide +kernel)⟩

/-- A live speculative request of gallery 0 in slot 5. -/
def req5 : Req := { acc := 5, cls := 2, speculative := true, prompt := [1], bound := 1, maxTokens := 10, sampling := { method := 1, scale := 65536 } }
def live5 : State := { cat1 with reg := { reqs := [(5, req5)] } }

/-- The same with a row of the request in flight, and one that has ended. -/
def row5 : State := { live5 with wings := [(0, { committed := [embedEntry], running := some { rows := [{ acc := 5, type := 1 }] } })] }

theorem witness_CancelQueryAndDeaccession :
    (∀ op ∈ [0x21, 0x23], ∀ s ∈ [live5, up],
      ∃ c u, Clear op (layout 16 [(4, 12)] fun _ _ => none) 0 (given s (packet op 0 7 0 (ofLe 4 5 ++ z 12))) c u
        ∧ decide ((u.named c.gallery (field c.payload 0 4)).isSome = (s.req? 5).isSome) = true)
    ∧ (live5.req? 5 = some req5 ∧ live5.holdsRow req5 = false) ∧ row5.req? 5 = some req5 ∧ row5.holdsRow req5 = true := by
  refine ⟨?_, by decide +kernel⟩
  intro op h s hs
  simp only [List.mem_cons, List.not_mem_nil, or_false] at h hs
  rcases h with rfl | rfl <;> rcases hs with rfl | rfl <;>
    exact clear_of (p := fun c u => decide ((u.named c.gallery (field c.payload 0 4)).isSome = _)) (by decide +kernel)

/-- The hypotheses about an AMEND, and about a DRAFT. -/
def amendTest (c : Cmd) (o : Opened) (u : State) : Bool :=
  match u.named c.gallery o.target, openBody o.plain with
  | some r, some b => r.state != .deaccessioned && amendForm b && match u.amended r b with
    | none => false
    | some q => (!bit (field b 4 1) 3 || u.methodOk q.kind q.sampling q.speculative)
        && (decide (field b 4 1 % 8 = 0) || decide (u.admission (u.amendAsk q r.bound) [4, 5, 6, 7, 8, 9, 10, 11] [r.wing] = .pass [r.wing]))
  | _, _ => false

def draftTest (n : Nat) (c : Cmd) (o : Opened) (u : State) : Bool :=
  match u.named c.gallery o.target, openBody o.plain with
  | some r, some b => r.state != .deaccessioned && r.speculative && decide (field b 8 1 = n) && decide (b.length = 16 + 4 * n)
      && allZero (slice b 9 7) && (u.parseTokens b 16 n).isSome
  | _, _ => false

theorem witness_AmendAndDraftChangeTheRequest :
    (∃ c o u, Sealed 0x22 sealedLayout plainEnvelope (fun _ => true) 0 (given live5 (packet 0x22 0 7 0 (clearSeal 5 (plainOf (z 100))))) c o u
      ∧ amendTest c o u = true)
    ∧ (∃ c o u, Sealed 0x22 sealedLayout plainEnvelope (fun _ => true) 0
        (given live5 (packet 0x22 0 7 0 (clearSeal 5 (plainOf ([0x1D, 2] ++ z 14 ++ ofLe 4 3 ++ ([1] ++ z 7 ++ ofLe 4 65536 ++ z 52) ++ z 16))))) c o u
      ∧ amendTest c o u = true)
    ∧ (∃ c o u, Sealed 0x24 sealedLayout plainEnvelope (fun _ => true) 0
        (given live5 (packet 0x24 0 7 0 (clearSeal 5 (plainOf (ofLe 4 2 ++ ofLe 8 1 ++ ofLe 4 9))))) c o u ∧ draftTest 1 c o u = true)
    ∧ (∃ c o u, Sealed 0x22 sealedLayout plainEnvelope (fun _ => true) 0 (given live5 (packet 0x22 0 7 0 (clearSeal 6 (plainOf (z 100))))) c o u
      ∧ decide (u.named c.gallery o.target = none) = true)
    ∧ ∃ c o u, Sealed 0x24 sealedLayout plainEnvelope (fun _ => true) 0 (given live5 (packet 0x24 0 7 0 (clearSeal 6 (plainOf (z 100))))) c o u
      ∧ decide (u.named c.gallery o.target = none) = true :=
  ⟨sealed_of (by decide +kernel), sealed_of (by decide +kernel), sealed_of (by decide +kernel), sealed_of (by decide +kernel),
   sealed_of (by decide +kernel)⟩

/-! ## The catalogue -/

/-- The chain that the packet at the front of ring i belongs to. -/
def chainOf (s : State) (i : Nat) : Chain :=
  ((s.pairAt i).chain).getD { op := (s.headerAt i).op, tag := (s.headerAt i).tag, gallery := (s.headerAt i).gallery }

/-- What a packet that interrupts no chain leaves when it is taken, and the payload it completes. -/
theorem take_keeps {s t : State} {i : Nat} {c : Cmd} (h : s.take i = .whole c t)
    (hc : ∀ ch, (s.pairAt i).chain = some ch → ch.continues (s.headerAt i) = true) :
    t.wings = s.wings ∧ t.kpr = s.kpr ∧ t.maint = s.maint ∧ c.payload = (chainOf s i).payload ++ (s.packetBytes i).drop 16 := by
  have hb : s.breakChain i (s.headerAt i) = s := by
    unfold State.breakChain
    cases hk : (s.pairAt i).chain with
    | none => rfl
    | some ch => simp [hc ch hk]
  have ha : ((s.advance i (s.headerAt i).length).pairAt i).chain = (s.pairAt i).chain := by
    simp [State.advance, State.updPair, State.pairAt]
  unfold State.take at h
  split at h
  · simp only [hb, ha] at h
    split at h
    · cases h
    · split at h
      · cases h
      · split at h
        · cases h
        · split at h
          · cases h
          · cases h
            exact ⟨rfl, rfl, rfl, rfl⟩
  · cases h

theorem le_ofLe (n v : Nat) : le (ofLe n v) = v % 256 ^ n := by
  induction n generalizing v with
  | zero => simp [ofLe, le, Nat.mod_one]
  | succ n ih => simp [ofLe, le, ih, Nat.pow_succ', Nat.mod_mul]

theorem crc32Byte_lt (n c : Nat) (h : c < 2 ^ 32) : crc32Byte n c < 2 ^ 32 := by
  induction n generalizing c with
  | zero => exact h
  | succ n ih =>
    unfold crc32Byte
    split
    · exact ih _ (Nat.xor_lt_two_pow (by omega) (by decide))
    · exact ih _ (by omega)

theorem crc32Run_lt (c : Nat) (bs : List Byte) (h : c < 2 ^ 32) : crc32Run c bs < 2 ^ 32 := by
  induction bs generalizing c with
  | nil => exact h
  | cons b bs ih => exact ih _ (crc32Byte_lt _ _ (Nat.xor_lt_two_pow h (by omega)))

theorem crc32c_lt (bs : List Byte) : crc32c bs < 256 ^ 4 := by
  unfold crc32c
  exact Nat.xor_lt_two_pow (n := 32) (crc32Run_lt _ bs (by decide)) (by decide)

/-- The 2,044 bytes of an entry for embedding requests (R181), index 0 of wing 0, before its CRC. -/
def rawBody : List Byte :=
  z 16 ++ ofLe 8 36 ++ ofLe 4 1 ++ ofLe 4 0xFFFFFFFF ++ ofLe 2 0 ++ ofLe 2 1 ++ z 6 ++ ofLe 2 8 ++ z 12 ++ ofLe 2 1 ++ z 1986

/-- A CAT_STAGE of one entry: its last packet, behind a chain that holds the payload. -/
def staged (entry : List Byte) : State :=
  (given up (bare 0x30)).updPair 0 fun p => { p with chain := some { op := 0x30, tag := 7, packets := 2, payload := z 4 ++ ofLe 4 1 ++ z 8 ++ entry } }

theorem entry_valid : up.entryFails 0 0 (rawBody ++ ofLe 4 (crc32c rawBody)) = none := by
  have h1 : (rawBody ++ ofLe 4 (crc32c rawBody)).take 0x7FC = rawBody := by
    rw [show (0x7FC : Nat) = rawBody.length by decide +kernel, List.take_left]
  have h2 : field (rawBody ++ ofLe 4 (crc32c rawBody)) 0x7FC 4 = crc32c rawBody := by
    have : ∀ (body : List Byte) (v : Nat), slice (body ++ ofLe 4 v) body.length 4 = ofLe 4 v := by
      intro body v
      unfold slice
      rw [List.drop_left]
      simp [ofLe]
    have h := this rawBody (crc32c rawBody)
    rw [show rawBody.length = 0x7FC by decide +kernel] at h
    rw [field, h, le_ofLe]
    exact Nat.mod_eq_of_lt (crc32c_lt rawBody)
  unfold State.entryFails
  rw [h1, h2]
  simp only [ne_eq, not_true_eq_false, if_false]
  decide +kernel

theorem entry_empty : up.entryFails 0 0 (z 2048) ≠ none := by
  unfold State.entryFails
  split
  · simp
  · rw [if_pos (by decide +kernel)]
    simp

theorem staged_clear (entry : List Byte)
    (hp : ∃ c u, Clear 0x30 stageLayout 0 (staged entry) c u ∧ (!usesCrypto c.op c.gallery) = true)
    (hk : chainOf (staged entry) 0 = { op := 0x30, tag := 7, packets := 2, payload := z 4 ++ ofLe 4 1 ++ z 8 ++ entry })
    (hd : ((staged entry).packetBytes 0).drop 16 = [])
    (hc : ∀ ch, ((staged entry).pairAt 0).chain = some ch → ch.continues ((staged entry).headerAt 0) = true) :
    ∃ c u, Clear 0x30 stageLayout 0 (staged entry) c u ∧ c.payload = z 4 ++ ofLe 4 1 ++ z 8 ++ entry
      ∧ u.kpr = up.kpr ∧ u.maint = up.maint := by
  obtain ⟨c, u, ⟨ho, t, ht, hk', rfl⟩, hu⟩ := hp
  obtain ⟨_, h2, h3, h4⟩ := take_keeps ht hc
  simp only [Bool.not_eq_true'] at hu
  refine ⟨c, _, ⟨ho, t, ht, hk', rfl⟩, ?_, ?_, ?_⟩
  · rw [h4]
    change (chainOf (staged entry) 0).payload ++ List.drop 16 ((staged entry).packetBytes 0) = _
    rw [hk, hd]
    simp
  · simp [State.cryptoWake, hu, State.applied, h2, staged, given, State.updPair]
  · simp [State.cryptoWake, hu, State.applied, h3, staged, given, State.updPair]

theorem staged_chain (entry : List Byte) (ch : Chain) (h : ((staged entry).pairAt 0).chain = some ch) :
    ch = { op := 0x30, tag := 7, packets := 2, payload := z 4 ++ ofLe 4 1 ++ z 8 ++ entry } := by
  simp [staged] at h
  exact h.symm

theorem entryFails_kpr (s u : State) (h : u.kpr = s.kpr) (w i : Nat) (raw : List Byte) : u.entryFails w i raw = s.entryFails w i raw := by
  have hk : ∀ t : State, t.entryFails w i raw = ({ kpr := t.kpr } : State).entryFails w i raw := fun _ => rfl
  rw [hk u, hk s, h]

theorem stagedRaw_first (head e : List Byte) (hh : head.length = 16) (he : e.length = 2048) : stagedRaw (head ++ e) 0 = e := by
  have h : List.drop 16 (head ++ e) = e := by rw [← hh, List.drop_left]
  have k : List.take 2048 e = e := List.take_of_length_le (by omega)
  simp [stagedRaw, slice, h, he, k]
  
theorem staged_fails (u : State) (h : u.kpr = up.kpr) (e : List Byte) (he : e.length = 2048) :
    u.stageFails 0 0 1 (z 4 ++ ofLe 4 1 ++ z 8 ++ e) = (up.entryFails 0 0 e).map fun c => (0, c) := by
  have hr : stagedRaw (z 4 ++ ofLe 4 1 ++ z 8 ++ e) 0 = e := stagedRaw_first (z 4 ++ ofLe 4 1 ++ z 8) e rfl he
  generalize z 4 ++ ofLe 4 1 ++ z 8 ++ e = pl at hr
  simp only [State.stageFails, entryFails_kpr up u h, List.range_one, List.findSome?, hr]
  cases up.entryFails 0 0 e <;> rfl
theorem staged_fields (e : List Byte) : let p := z 4 ++ ofLe 4 1 ++ z 8 ++ e
   field p 0 1 = 0 ∧ field p 2 2 = 0 ∧ field p 4 2 = 1 := by
  simp [field, slice, z, ofLe, le, List.replicate]
/-- CAT_STAGE of an entry of zeros, which fails a condition, and of a valid one. -/
theorem staged_ok (e : List Byte) (he : e ∈ [z 2048, rawBody ++ ofLe 4 (crc32c rawBody)]) :
    ∃ c u, Clear 0x30 stageLayout 0 (staged e) c u ∧ c.payload = z 4 ++ ofLe 4 1 ++ z 8 ++ e ∧ u.kpr = up.kpr ∧ u.maint = up.maint := by
  have hcont : ((staged e).headerAt 0).op = 0x30 ∧ ((staged e).headerAt 0).tag = 7 ∧ ((staged e).headerAt 0).gallery = 0 := by
    simp only [List.mem_cons, List.not_mem_nil, or_false] at he
    rcases he with rfl | rfl <;> decide +kernel
  refine staged_clear e ?_ ?_ ?_ ?_
  · simp only [List.mem_cons, List.not_mem_nil, or_false] at he
    rcases he with rfl | rfl <;> exact clear_of (by decide +kernel)
  · have h : ((staged e).pairAt 0).chain = some { op := 0x30, tag := 7, packets := 2, payload := z 4 ++ ofLe 4 1 ++ z 8 ++ e } := by simp [staged]
    simp [chainOf, h]
  · simp only [List.mem_cons, List.not_mem_nil, or_false] at he
    rcases he with rfl | rfl <;> decide +kernel
  · intro ch h
    rw [staged_chain e ch h]
    simp [Chain.continues, hcont]

theorem witness_CatalogueCommands_stage :
    (∃ c u, Clear 0x30 stageLayout 0 (staged (z 2048)) c u
      ∧ ∃ cond, u.stageFails (field c.payload 0 1) (field c.payload 2 2) (field c.payload 4 2) c.payload = some (0, cond))
    ∧ ∃ c u, Clear 0x30 stageLayout 0 (staged (rawBody ++ ofLe 4 (crc32c rawBody))) c u
      ∧ u.stageFails (field c.payload 0 1) (field c.payload 2 2) (field c.payload 4 2) c.payload = none ∧ u.maint.running = [] := by
  refine ⟨?_, ?_⟩
  · obtain ⟨c, u, hc, hp, hk, _⟩ := staged_ok (z 2048) (by simp)
    obtain ⟨cond, hx⟩ := Option.ne_none_iff_exists'.mp entry_empty
    obtain ⟨f1, f2, f3⟩ := staged_fields (z 2048)
    refine ⟨c, u, hc, cond, ?_⟩
    rw [hp, f1, f2, f3, staged_fails u hk _ (by decide +kernel), hx]
    rfl
  · obtain ⟨c, u, hc, hp, hk, hm⟩ := staged_ok (rawBody ++ ofLe 4 (crc32c rawBody)) (by simp)
    obtain ⟨f1, f2, f3⟩ := staged_fields (rawBody ++ ofLe 4 (crc32c rawBody))
    refine ⟨c, u, hc, ?_, by rw [hm]; rfl⟩
    rw [hp, f1, f2, f3, staged_fails u hk _ (by decide +kernel), entry_valid]
    rfl

theorem witness_CatalogueCommands :
    (∃ c u, Clear 0x31 commitLayout 0 (given { up with wings := [(3, { staging := [(0, embedEntry)], stagingFresh := true })] }
        (packet 0x31 0 7 0 ([3, 0, 0, 0] ++ ofLe 4 1 ++ z 104))) c u
      ∧ (let w := field c.payload 0 1
         decide ((u.wingAt w).paired = false ∧ field c.payload 4 4 ≠ 0 ∧ field c.payload 4 4 ≤ u.sectionSize ∧ u.conflict 4 w = none)
         && match (u.wingAt w).stagedEntries (field c.payload 4 4) with
            | some es => oneGeometry es && !u.commitInfeasible w es
            | none => false) = true)
    ∧ (∃ c u, Clear 0x32 (layout 16 [(1, 15)] fun _ _ => none) 0 (given cat1 (packet 0x32 0 7 0 ([1] ++ z 15))) c u
      ∧ (((List.range 8).all fun w => !bit (field c.payload 0 1) w || u.hasCatalogue w) && !u.runs 2 none && !u.runs 6 none) = true)
    ∧ ({ up with maint := { arcJob := some (1, {}) } } : State).dead = false :=
  ⟨clear_of (by decide +kernel), clear_of (by decide +kernel), by decide +kernel⟩

/-- A state whose only shape, of wing 0, is disabled. -/
def disabled1 : State := { cat1 with wings := [(0, { committed := [embedEntry], shapes := [(shapeKey embedEntry, { disabled := true })] })] }

/-- A SHAPE_STATE packet for shape 0 with an ACTION. -/
def shapeOf (act : Nat) : List Byte := packet 0x35 0 7 0 ([0, 0, BitVec.ofNat 8 act] ++ z 13)

theorem disabled1_chain : ((given disabled1 (shapeOf 1)).pairAt (0 : Fin 8).val).chain = none := by decide +kernel

theorem witness_ShapeStateRows :
    (∃ c u, Clear 0x35 shapeLayout 0 (given cat1 (shapeOf 0)) c u
      ∧ decide (u.shapeNamed (field c.payload 0 2) = some embedEntry) = true)
    ∧ (∃ c u, Clear 0x35 shapeLayout 0 (given disabled1 (shapeOf 1)) c u ∧ field c.payload 0 2 = 0
      ∧ u.shapeNamed 0 = some embedEntry ∧ ((u.wingAt 0).shapeSt embedEntry).code ≠ 0 ∧ u.dcUs 0 = none)
    ∧ (∃ c u, Clear 0x35 shapeLayout 0 (given cat1 (shapeOf 2)) c u
      ∧ decide (u.shapeNamed (field c.payload 0 2) = some embedEntry ∧ u.holdCause (shapeWing (field c.payload 0 2)) embedEntry = 0) = true)
    ∧ ∀ act ∈ [0, 1, 2], field ((given cat1 (shapeOf act)).cmdBytes 0 16 16) 2 1 = act := by
  refine ⟨clear_of (by decide +kernel), ?_, clear_of (by decide +kernel), by decide +kernel⟩
  obtain ⟨c, u, ⟨ho, t, ht, hc, rfl⟩, hp⟩ := clear_of (op := 0x35) (l := shapeLayout) (s := given disabled1 (shapeOf 1))
    (p := fun c u => decide (field c.payload 0 2 = 0 ∧ usesCrypto c.op c.gallery = false ∧ u.dcUs 0 = none)) (by decide +kernel)
  simp only [decide_eq_true_eq] at hp
  have hw : ((t.cryptoWake c.op c.gallery).applied).wings = disabled1.wings := by
    simp only [State.cryptoWake, hp.2.1, State.applied]
    exact (take_keeps ht (fun ch h => nomatch disabled1_chain.symm.trans h)).1.trans rfl
  refine ⟨c, _, ⟨ho, t, ht, hc, rfl⟩, hp.1, ?_, ?_, hp.2.2⟩
  · simp only [State.shapeNamed, State.wingAt, hw]
    decide +kernel
  · simp only [Wing.shapeSt, State.wingAt, hw]
    simp [disabled1, SMap.getD, SMap.find, ShapeSt.code]

/-! ## Pair, maintenance and service commands -/

/-- Basam with a partner in its capsule, in a pair state. -/
def pairIn (p : PairState) : State :=
  { up with kpr := { up.kpr with capsule := some { cap0 with partner := some { side := 1, records := 64 } } }
            pair := { state := p, lastFrame := some 999990000 } }

theorem witness_PairCommands :
    (up.partner? = none ∧ ∀ op ∈ [0x40, 0x41, 0x43, 0x44], ∃ c u, Clear op noPayload 0 (given up (bare op)) c u ∧ u.partner?.isNone = true)
    ∧ (∀ p ∈ [PairState.alone, .yielded, .survivor, .degraded], ∀ op ∈ [0x40, 0x43], ∃ c u, Clear op noPayload 0 (given (pairIn p) (bare op)) c u
      ∧ (u.partner?.isSome && u.mayJoin && !u.silent && decide (u.conflict 9 255 = none)) = true)
    ∧ ∀ p ∈ [PairState.paired, .joining], ∀ op ∈ [0x41, 0x44], ∃ c u, Clear op noPayload 0 (given (pairIn p) (bare op)) c u
      ∧ (u.partner?.isSome && u.together && !u.kpr.fenceReq) = true := by
  refine ⟨⟨by decide +kernel, ?_⟩, ?_, ?_⟩
  · intro op h
    simp only [List.mem_cons, List.not_mem_nil, or_false] at h
    rcases h with rfl | rfl | rfl | rfl <;> exact clear_of (by decide +kernel)
  · intro p hp op h
    simp only [List.mem_cons, List.not_mem_nil, or_false] at h hp
    rcases hp with rfl | rfl | rfl | rfl <;> rcases h with rfl | rfl <;>
      exact clear_of (p := fun _ u => u.partner?.isSome && u.mayJoin && !u.silent && decide (u.conflict 9 255 = none)) (by decide +kernel)
  · intro p hp op h
    simp only [List.mem_cons, List.not_mem_nil, or_false] at h hp
    rcases hp with rfl | rfl <;> rcases h with rfl | rfl <;>
      exact clear_of (p := fun _ u => u.partner?.isSome && u.together && !u.kpr.fenceReq) (by decide +kernel)

/-- Basam with an activity running. -/
def running (code : Nat) : State := { up with maint := { running := [{ code := code }] } }

theorem witness_MaintenanceActivities :
    (∃ c u, Clear 0x51 noPayload 0 (given up (bare 0x51)) c u)
    ∧ (∃ c u, Clear 0x52 noPayload 0 (given up (bare 0x52)) c u ∧ decide (u.conflict 2 255 = none) = true)
    ∧ (∃ c u, Clear 0x52 noPayload 0 (given (running 6) (bare 0x52)) c u ∧ decide (u.conflict 2 255 = some 6) = true)
    ∧ ∃ c u, Clear 0x55 retireLayout 0 (given up (packet 0x55 0 7 0 (ofLe 4 9 ++ z 12))) c u
      ∧ decide (u.conflict 8 (field c.payload 0 2) = none) = true :=
  ⟨clear_plain (by decide +kernel), clear_of (by decide +kernel), clear_of (by decide +kernel), clear_of (by decide +kernel)⟩

theorem witness_FirmwareAndCapsule :
    (∃ c u, Clear 0x53 fwStageLayout 0 (given up (packet 0x53 0 7 0 (ofLe 4 0xEFFFF0 ++ ofLe 4 16 ++ z 24))) c u
      ∧ decide (u.conflict 5 255 = none ∧ u.maint.capStage = []) = true)
    ∧ (∃ c u, Clear 0x54 noPayload 0 (given { up with maint := { fwStage := [(0, 1)] } } (bare 0x54)) c u
      ∧ (decide (u.conflict 6 255 = none) && !u.maint.fwStage.isEmpty && !u.together) = true)
    ∧ ∀ n ∈ [16, 17], ∃ c u, Clear 0x73 capsuleLayout 0 (given up (packet 0x73 0 7 0 (z 4 ++ ofLe 4 16 ++ z 8 ++ ofLe 4 n ++ z 12))) c u
      ∧ decide (u.maint.fwStage = [] ∧ u.capsuleBlocks = none ∧ (field c.payload 4 4 < field c.payload 16 4 ↔ n = 17)) = true := by
  refine ⟨clear_of (by decide +kernel), clear_of (by decide +kernel), ?_⟩
  intro n h
  simp only [List.mem_cons, List.not_mem_nil, or_false] at h
  rcases h with rfl | rfl <;>
    exact clear_of (p := fun c u => decide (u.maint.fwStage = [] ∧ u.capsuleBlocks = none ∧ (field c.payload 4 4 < field c.payload 16 4 ↔ _ = 17)))
      (by decide +kernel)

theorem witness_ObservationCommands :
    (∃ c u, Clear 0x60 (layout 16 [(8, 8)] fun _ _ => none) 0 (given up (packet 0x60 0 7 0 (z 16))) c u)
    ∧ (∃ c u, Clear 0x61 counterResetLayout 0 (given up (packet 0x61 0 7 0 ([0xFF, 0xFF] ++ z 14))) c u)
    ∧ (∃ c u, Clear 0x62 daybookLayout 0 (given up (packet 0x62 0 7 0 ([0xF, 1] ++ z 14))) c u)
    ∧ (∃ c u, Clear 0x63 freezeLayout 0 (given up (packet 0x63 0 7 0 ([0xF] ++ z 15))) c u)
    ∧ ∃ c u, Clear 0x64 noPayload 0 (given up (bare 0x64)) c u :=
  ⟨clear_plain (by decide +kernel), clear_plain (by decide +kernel), clear_plain (by decide +kernel), clear_plain (by decide +kernel),
   clear_plain (by decide +kernel)⟩

/-- Basam with a challenge outstanding since a tick. -/
def challenged (t : W64) : State := { up with sec := { challenge := some (0, t) } }

theorem witness_ServiceCommands :
    (∃ c u, Clear 0x70 noPayload 0 (given up (bare 0x70)) c u)
    ∧ (∃ c u, Clear 0x71 (layout 96 [] fun _ _ => none) 0 (given up (packet 0x71 0 7 0 (z 96))) c u ∧ decide (u.sec.challenge = none) = true)
    ∧ (∃ c u, Clear 0x71 (layout 96 [] fun _ _ => none) 0 (given { open1 with sec := { challenge := some (0, 0) } } (packet 0x71 0 7 0 (z 96))) c u
      ∧ u.tenantsOpen = true)
    ∧ (∃ c u, Clear 0x71 (layout 96 [] fun _ _ => none) 0 (given (challenged 0) (packet 0x71 0 7 0 (z 96))) c u
      ∧ (decide (u.sec.challenge = some (0, 0)) && !u.tenantsOpen) = true)
    ∧ (∃ c u, Clear 0x72 noPayload 0 (given up (bare 0x72)) c u)
    ∧ ({ challenged 0 with kpr := { up.kpr with ktime := BitVec.ofNat 64 challengeTicks } } : State).dead = false
    ∧ challengeTicks ≤ ({ challenged 0 with kpr := { up.kpr with ktime := BitVec.ofNat 64 challengeTicks } } : State).now :=
  ⟨clear_plain (by decide +kernel), clear_of (by decide +kernel), clear_of (by decide +kernel), clear_of (by decide +kernel),
   clear_plain (by decide +kernel), by decide +kernel, by decide +kernel⟩

/-! ## Accesses, registers, rings -/

/-- Whether an access is carried out at once. -/
def reaches (s : State) (port : Port) (mid : Byte) (a n : Nat) : Bool :=
  !s.resetLow && midOk port mid && !s.winShut (portOffset port a) && accessFits (portOffset port a) n && !s.holds mid (portOffset port a)

theorem reaches_of {s : State} {port : Port} {mid : Byte} {a n : Nat} (h : reaches s port mid a n = true) : Reaches s port mid a n := by
  simp only [reaches, Bool.and_eq_true, Bool.not_eq_true'] at h
  exact ⟨h.1.1.1.1, h.1.1.1.2, h.1.1.2, h.1.2, h.2⟩

/-- Basam with the Control domain off. -/
def asleep : State := { up with power := { up.power with control := {} } }

theorem witness_AccessesReachTheirRegister :
    (∀ n ∈ [4, 8, 64], Reaches up .hif 1 0x100000 n) ∧ Reaches up .mbx 0x30 0xF0FC 4 ∧ up.resetLow = false
    ∧ midOk .hif 0 = false ∧ midOk .hif 0x20 = false ∧ midOk .mbx 1 = false ∧ midOk .hif 0x1F = true
    ∧ ({ up with kpr := { up.kpr with phase := 5 } } : State).winShut 0x2000 = true ∧ accessFits 0x2000 8 = false ∧ (∀ a ∈ [0, 0x200000, 0x700000], accessFits a 16 = false)
    ∧ (asleep.resetLow = false ∧ asleep.winShut 0x610004 = false ∧ accessFits 0x610004 4 = true ∧ ∃ d ∈ asleep.homes 0x610004, asleep.active d = false)
    ∧ State.reset.resetLow = true := by
  refine ⟨?_, reaches_of (by decide +kernel), by decide +kernel⟩
  intro n h
  simp only [List.mem_cons, List.not_mem_nil, or_false] at h
  rcases h with rfl | rfl | rfl <;> exact reaches_of (by decide +kernel)

theorem witness_IndicesAreTakenOrFlagged :
    Reaches up .hif 1 (0x2000 + (7 : Fin 8).val * 0x20) 4 ∧ Reaches up .hif 1 (0x2014 + (7 : Fin 8).val * 0x20) 4
    ∧ Reaches up .hif 1 (0x2204 + (7 : Fin 8).val * 0x10) 4 ∧ Reaches up .hif 1 0x610004 4 ∧ Reaches up .hif 1 0x5C0004 4
    ∧ (up.pairAt 7).resetBusy = false ∧ (up.resAt 7).resetBusy = false
    ∧ occupancy (4096 : BitVec 13) (up.pairAt 7).cmdCi ≤ 4096 ∧ ¬ occupancy (4097 : BitVec 13) (up.pairAt 7).cmdCi ≤ 4096
    ∧ ciAccepted (4096 : BitVec 13) 0 4096 = true ∧ ciAccepted (4096 : BitVec 13) 0 4097 = false :=
  ⟨reaches_of (by decide +kernel), reaches_of (by decide +kernel), reaches_of (by decide +kernel), reaches_of (by decide +kernel),
   reaches_of (by decide +kernel), by decide +kernel⟩

/-- Basam with ring pair 0 and result ring 0 being reset. -/
def resetting : State := { up with rings := { pairs := [(0, { resetBusy := true })], results := [(0, { resetBusy := true })] } }

theorem witness_RingResetsClearTheRing :
    Reaches up .hif 1 (0x2008 + (7 : Fin 8).val * 0x20) 4 ∧ Reaches up .hif 1 (0x2208 + (7 : Fin 8).val * 0x10) 4
    ∧ resetting.dead = false ∧ (resetting.pairAt 0).resetBusy = true ∧ (∀ r ∈ resetting.rings.replies, r.ring ≠ 0)
    ∧ (resetting.resAt 0).resetBusy = true ∧ Memory.wf resetting.mem = true :=
  ⟨reaches_of (by decide +kernel), reaches_of (by decide +kernel), by decide +kernel⟩

/-- Basam in a tick that has lost entries of the Daybook and of the condition ring. -/
def losing : State := { up with kpr := { up.kpr with fresh := { tick := 1000000000, dbk := some (3, 70000), cns := some (3, 1) } } }

theorem witness_ReadsWithAnEffect :
    (∀ a ∈ [0x1000, 0x1008, 0x400000, 0x409FF8, 0x4F0010], Reaches up .hif 0x1F a 4 ∧ pairLow a = true)
    ∧ (Reaches up .hif 0x1F (0x1000 + 4) 4 ∧ SMap.find ([(0x1F, (0x1000, 7))] : SMap (Nat × W32)) 0x1F = some (0x1000, 7))
    ∧ (Reaches up .hif 1 (0x1000 + 4) 4 ∧ pairLow 0x1000 = true ∧ pairLow (0x1000 + 4) = false ∧ ∀ high, SMap.find up.mbx.latches 1 ≠ some (0x1000, high))
    ∧ (Reaches up .hif 1 0x5C0008 4 ∧ Reaches up .hif 1 0x610008 4 ∧ up.freshNow.dbk = none ∧ up.freshNow.cns = none)
    ∧ Reaches losing .hif 1 0x5C0008 4 ∧ Reaches losing .hif 1 0x610008 4 ∧ losing.freshNow.dbk = some (3, 70000) ∧ losing.freshNow.cns = some (3, 1) := by
  refine ⟨?_, ⟨reaches_of (by decide +kernel), by decide⟩, ⟨reaches_of (by decide +kernel), by decide, by decide, nofun⟩,
    ⟨reaches_of (by decide +kernel), reaches_of (by decide +kernel), by decide +kernel⟩, reaches_of (by decide +kernel), reaches_of (by decide +kernel),
    by decide +kernel⟩
  intro a h
  simp only [List.mem_cons, List.not_mem_nil, or_false] at h
  rcases h with rfl | rfl | rfl | rfl | rfl <;> exact ⟨reaches_of (by decide +kernel), by decide⟩

theorem witness_KeeperRegisters :
    Reaches up .hif 1 0x1020 4 ∧ Reaches up .hif 1 0x1030 4 ∧ Reaches up .hif 1 0x1044 4 ∧ up.kpr.irqSent = none
    ∧ ({ up with kpr := { up.kpr with irqSent := some 3 } } : State).kpr.irqWait = 0
    ∧ (∀ k ∈ [0, 15], let s := { up with kpr := { up.kpr with irqMask := 0xFFFF, irqPending := 0xFFFF } }
       s.kpr.irqMask.getLsbD k = true ∧ (0 : W32).getLsbD k = false ∧ s.kpr.irqPending.getLsbD k = true)
    ∧ (∀ k ∈ [0, 15], (BitVec.ofNat 16 (2 ^ k)).getLsbD k = true ∧ ∀ j, j < k → (BitVec.ofNat 16 (2 ^ k)).getLsbD j = false) :=
  ⟨reaches_of (by decide +kernel), reaches_of (by decide +kernel), reaches_of (by decide +kernel), by decide +kernel⟩

/-- Channel 31 bound from wing 0's Zamarut to the host. -/
def mail31 : State := { up with mbx := { chans := [(31, { bound := true, sender := 0x20, receiver := 1, full := true })] } }

theorem witness_MailboxesPostAndAcknowledge :
    (Reaches mail31 .mbx 0x20 (mbxOffset .mbx ((31 : Fin 32).val * 0x40 + 0x1C)) 4 ∧ (mail31.chanAt 31).sentBy 0x20 = true
      ∧ (mail31.chanAt 31).receivedBy 0x48 = false ∧ ∀ p, (mail31.chanAt 31).prior = some p → p.tick ≠ mail31.kpr.ktime)
    ∧ (Reaches mail31 .hif 1 (mbxOffset .hif ((31 : Fin 32).val * 0x40 + 0x1C)) 4 ∧ (mail31.chanAt 31).sentBy 1 = false)
    ∧ (Reaches mail31 .hif 0x1F (mbxOffset .hif ((31 : Fin 32).val * 0x40 + 0x24)) 4 ∧ (mail31.chanAt 31).receivedBy 0x1F = true)
    ∧ (Reaches mail31 .mbx 0x20 (mbxOffset .mbx ((31 : Fin 32).val * 0x40 + 0x24)) 4 ∧ (mail31.chanAt 31).receivedBy 0x20 = false)
    ∧ (Reaches mail31 .mbx 0x30 (mbxOffset .mbx (0x810 + 4 * (6 : Fin 7).val)) 4 ∧ epochIndex 0x30 = some 6)
    ∧ (Reaches mail31 .hif 1 (mbxOffset .hif (0x810 + 4 * (6 : Fin 7).val)) 4 ∧ epochIndex 1 ≠ some 6) :=
  ⟨⟨reaches_of (by decide +kernel), by decide +kernel, by decide +kernel, nofun⟩, ⟨reaches_of (by decide +kernel), by decide +kernel⟩,
   ⟨reaches_of (by decide +kernel), by decide +kernel⟩, ⟨reaches_of (by decide +kernel), by decide +kernel⟩,
   ⟨reaches_of (by decide +kernel), by decide +kernel⟩, ⟨reaches_of (by decide +kernel), by decide +kernel⟩⟩

/-- Basam with lock 63 held by a MID. -/
def locked (mid : Byte) : State := { up with mbx := { locks := [(63, mid)] } }

/-- Lock 63 held by the host, read since by two other masters in the same tick; and taken in this tick by MID 0x20. -/
def contended : State := { up with mbx := { locks := [(63, 1)], lockReads := [(63, { tick := 1000000000, readers := [(0x30, 0), (0x20, 1)] })] } }
def justTaken : State := { up with mbx := { locks := [(63, 0x20)], lockReads := [(63, { tick := 1000000000, fresh := true, readers := [(0x20, 0)] })] } }

theorem witness_LockWritesRelease :
    (∀ o ∈ [(1 : Byte), 0x20], Reaches (locked o) .hif 1 (lockOffset .hif (63 : Fin 64).val) 4 ∧ SMap.wf (locked o).mbx.locks = true)
    ∧ SMap.find (locked 1).mbx.locks 63 = some (1 : Byte) ∧ SMap.find (locked 0x20).mbx.locks 63 ≠ some (1 : Byte)
    ∧ (∀ r ∈ ((locked 1).readsNow 63).readers, r.1 = 1)
    ∧ (Reaches contended .hif 1 (lockOffset .hif (63 : Fin 64).val) 4 ∧ SMap.wf contended.mbx.locks = true
      ∧ SMap.find contended.mbx.locks 63 = some (1 : Byte) ∧ (contended.readsNow 63).fresh = false
      ∧ ((0x20 : Byte), 1) ∈ (contended.readsNow 63).readers ∧ ∀ r ∈ (contended.readsNow 63).readers, r.1 ≠ 1 → (0x20 : Byte).toNat ≤ r.1.toNat) := by
  refine ⟨?_, by decide, by decide, by decide +kernel, reaches_of (by decide +kernel), by decide, by decide +kernel⟩
  intro o h
  simp only [List.mem_cons, List.not_mem_nil, or_false] at h
  rcases h with rfl | rfl <;> exact ⟨reaches_of (by decide +kernel), by decide⟩

theorem witness_LockReadsAcquire :
    (Reaches up .mbx 0x23 (lockOffset .mbx (63 : Fin 64).val) 4 ∧ SMap.find up.mbx.locks 63 = none)
    ∧ (Reaches justTaken .hif 1 (lockOffset .hif (63 : Fin 64).val) 4 ∧ SMap.find justTaken.mbx.locks 63 = some (0x20 : Byte)
      ∧ (justTaken.readsNow 63).fresh = true ∧ (1 : Byte).toNat < (0x20 : Byte).toNat)
    ∧ ∀ o ∈ [(1 : Byte), 0x20], Reaches (locked o) .hif 1 (lockOffset .hif (63 : Fin 64).val) 4 ∧ SMap.find (locked o).mbx.locks 63 = some o
      ∧ ((locked o).readsNow 63).fresh = false := by
  refine ⟨⟨reaches_of (by decide +kernel), by decide⟩, ⟨reaches_of (by decide +kernel), by decide +kernel⟩, ?_⟩
  intro o h
  simp only [List.mem_cons, List.not_mem_nil, or_false] at h
  rcases h with rfl | rfl <;> exact ⟨reaches_of (by decide +kernel), by decide, by decide +kernel⟩

/-! ## Mailbox messages to Basam -/

/-- A channel that holds a message of a type and words (R121). -/
def mailOf (ty : Nat) (ws : List Nat) : Chan :=
  let body := slice (ofLe 1 ty ++ z 3 ++ ws.flatMap (ofLe 4)) 0 30
  { full := true, bound := true, slot := words32 (body ++ ofLe 2 (crc16 body)) }

def mailed (s : State) (n ty : Nat) (ws : List Nat) : State := { s with mbx := { chans := [(n, mailOf ty ws)] } }

/-- Basam in recovery, the configuration capsule missing. -/
def recovering : State := { up with kpr := { up.kpr with recovery := true, phase := 4, ready := false } }

theorem witness_MessagesToBasam :
    (mailed up 0 1 [48000, 1, 2, 0x10000]).mail 0 telemetryMails = .message 1 [48000, 1, 2, 0x10000]
    ∧ (∀ w ∈ [0, 1], (mailed up 1 0x10 [w]).mail 1 fenceMails = .message 0x10 [w] ∧ (mailed up 1 0x11 [w]).mail 1 fenceMails = .message 0x11 [w])
    ∧ up.active .control = true ∧ up.kpr.halted = false ∧ up.pair.journalAsked = none
    ∧ (∀ k ∈ [0, 1], ∀ n ∈ [1, 65536], (mailed recovering 31 0x40 [2, k, n, 65537]).mail 31 [(0x40, 4, 0)] = .message 0x40 [2, k, n, 65537])
    ∧ recovering.missingItem = 2 ∧ recovering.kpr.recovery = true ∧ recovering.resetLow = false ∧ recovering.active .control = true
    ∧ recovering.maint.recoverProgram = false ∧ recovering.pair.recChunks = 0 ∧ recovering.pair.recBytes + 65536 < 65537 := by decide +kernel

/-! ## Resets and start-up -/

/-- A phase of start-up, domains on. -/
def booting (p : Byte) : State := { up with kpr := { up.kpr with phase := p, ready := false, deviceKey := false } }

theorem witness_ResetsLeaveWhatTheyMust :
    up.kpr.porLow = false ∧ up.resetLow = false ∧ up.kpr.fenceLow = false ∧ up.kpr.blkLow = false
    ∧ (State.reset.kpr.pinLow .por = true ∧ ({ State.reset with kpr := State.reset.kpr.release .por } : State).resetLow = false
      ∧ State.reset.kpr.halted = false ∧ State.reset.power.fclkAck = false ∧ State.reset.power.control = {})
    ∧ (∀ p ∈ [ResetPin.fence, .blk], ({ up with kpr := { up.kpr with fenceLow := true, blkLow := true } } : State).kpr.pinLow p = true
      ∧ ({ up with kpr := ({ up.kpr with fenceLow := true, blkLow := true } : Kpr).release p } : State).resetLow = true)
    ∧ ({ up with maint := { fwProgram := true } } : State).imageProgramming = true := by decide +kernel

theorem witness_StartUpPhases :
    (∀ p ∈ [(1 : Byte), 2], ((booting p).boots 1 = true ∨ (booting p).boots 2 = true) ∧ (booting p).active .registrar = true
      ∧ (booting p).active .control = true ∧ (booting p).kpr.deviceKey = false)
    ∧ (booting 3).boots 3 = true ∧ (booting 4).boots 4 = true ∧ capsuleAccepted cap0 = true
    ∧ (∀ arc ∈ [some { mbit := 512, fourByte := true }, some { mbit := 511, fourByte := true }, some { mbit := 512 }, none],
        (Option.filter arcUsable arc).isSome = decide (arc = some { mbit := 512, fourByte := true }))
    ∧ (booting 2).sec.pufLocked = false ∧ ({ booting 2 with kpr := { (booting 2).kpr with deviceKey := true } } : State).kpr.deviceKey = true
    ∧ (∀ ok ∈ [false, true], (if ({} : HelperCopy).crcOk then {} else { crcOk := true, keyOk := ok } : HelperCopy).crcOk = true)
    ∧ found (booting 3).maint.flash.image (some {}) = some {} ∧ found (booting 3).maint.flash.image none = none
    ∧ bootCopy (booting 4).maint.flash none (some cap0) = some cap0 ∧ bootCopy (booting 4).maint.flash none none = none
    ∧ (booting 4).maint.flash.capsule0 = .delivered ∧ (booting 4).maint.flash.capsule1 = .delivered
    ∧ ({ booting 5 with kpr := { (booting 5).kpr with journalResumed := true } } : State).kpr.journalResumed = true
    ∧ (booting 5).boots 5 = true ∧ (booting 5).pair.journalAsked = none ∧ (booting 5).kpr.journalResumed = false ∧ (booting 6).boots 6 = true := by
  decide +kernel

/-- Basam in recovery, its image missing; linked, or not. -/
def imageless (link : Bool) : State :=
  { up with kpr := { up.kpr with recovery := true, phase := 3, ready := false }, power := { up.power with linkUp := link } }

theorem witness_RecoveryAndJournal :
    (let s := { up with maint := { recoverProgram := true }, pair := { recDone := some (.capsule cap0) } }
     s.maint.recoverProgram = true ∧ s.pair.recDone = some (.capsule cap0))
    ∧ ((imageless true).wantsImage = true ∧ (imageless true).power.linkUp = true ∧ (imageless true).resetLow = false
      ∧ (imageless true).pair.imgChunks = 0 ∧ (imageless true).pair.recAskedAt.toNat + 10000000 ≤ (imageless true).now)
    ∧ up.power.linkUp = true
    ∧ ((imageless false).power.linkUp = false ∧ (imageless false).wantsImage = true ∧ (imageless false).resetLow = false)
    ∧ ({ up with pair := { journalAsked := some 999500000 } } : State).pair.journalAsked = some 999500000 ∧ (999500000 : W64).toNat + 500000 ≤ up.now
    ∧ up.now < (999500001 : W64).toNat + 500000 := by decide +kernel

/-! ## Clock and power -/

/-- Power with a request and its acknowledgement. -/
def powered (req ack : Bool) : State := { up with power := { fclkReq := req, fclkAck := ack, registrar := { req := req, ack := ack } } }

/-- Wing 3 with its wakes armed, in a tick or at tick 0. -/
def armedAt3 (t at_ : W64) : State := { up with wings := [(3, { preWake := some t, composeWake := some t, armedAt := at_ })] }
def armed3 (t : W64) : State := armedAt3 t 0

theorem witness_ClockAndPowerFollow :
    ((powered true false).power.fclkReq = true ∧ (powered true false).power.fclkAck = false ∧ (powered true false).resetLow = false
      ∧ ((powered true false).power.dom .registrar).req = true ∧ ((powered true false).power.dom .registrar).ack = false)
    ∧ ((powered false true).power.fclkReq = false ∧ (powered false true).power.fclkAck = true
      ∧ ((powered false true).power.dom .registrar).req = false ∧ ((powered false true).power.dom .registrar).ack = true)
    ∧ (∀ d ∈ [Dom.curator, .docent, .intake], (up.power.dom d).req = true ∧ (up.power.dom d).active = true ∧ up.hasWork d = false)
    ∧ up.dead = false
    ∧ ((armed3 1000000000).wingAt 3).preWake = some 1000000000 ∧ ((armed3 1000000000).wingAt 3).composeWake = some 1000000000
    ∧ (1000000000 : W64).toNat ≤ (armed3 1000000000).now + (armed3 1000000000).wakeLead (1000000000 : W64).toNat 600 600 4000
    ∧ (1000000000 : W64).toNat ≤ (armed3 1000000000).now + (armed3 1000000000).wakeLead (1000000000 : W64).toNat 210 320 3700
    ∧ (armed3 2000000000).now + (armed3 2000000000).wakeLead (2000000000 : W64).toNat 600 600 4000 < (2000000000 : W64).toNat
    ∧ (armed3 2000000000).now + (armed3 2000000000).wakeLead (2000000000 : W64).toNat 210 320 3700 < (2000000000 : W64).toNat
    ∧ ((armed3 1000000000).wingAt 3).armedAt.toNat < (armed3 1000000000).now
    ∧ (armedAt3 1000000000 1000000000).now ≤ ((armedAt3 1000000000 1000000000).wingAt 3).armedAt.toNat := by decide +kernel

/-! ## Composition and steps -/

/-- A shape of token rows: one row, one window of one shard, a feed point. -/
def tokenEntry : CatEntry :=
  { cycles := 3600000, energyUj := 1000, rows := 1, feedOffset := 10, windows := [{ openAt := 5000, closeAt := 90000, rowCount := 1, shards := 1, candBursts := 1 }]
    rowInvariant := true, kPartial := [1, 0, 0, 0] }

/-- A step of that shape with a tag, started at a tick. -/
def stepAt (tag : W16) (t : W64) : Step :=
  { tag := tag, shape := tokenEntry, rows := [{ row := 0, acc := 5, type := 2, sampling := { method := 0, scale := 65536 } }], started := some t }

/-- Wing 3 of Basam. -/
def wing3 (x : Wing) : State := { up with wings := [(3, x)] }

/-- A step that runs since 50 ms, with a compose point that is due, and the same discarded. -/
def composing (d : Nat) : State :=
  wing3 { committed := [tokenEntry], running := some { stepAt 1 995000000 with discarded := d }, composeAt := some 1000000000 }

/-- Wing 3 idle and fixed to a shape it holds. -/
def idleFixed : State :=
  wing3 { committed := [{ tokenEntry with shapeId := 0xC00, fixedEligible := true }], policy := { fixed := true, fixedShape := 0xC00 } }

theorem witness_WingsComposeAndIssue :
    (∀ d ∈ [0, 1], (composing d).dead = false ∧ ((composing d).wingAt 3).composeAt = some 1000000000 ∧ ((composing d).wingAt 3).running.isSome = true
      ∧ (composing d).mayCompose 3 = true)
    ∧ (1000000000 : W64).toNat ≤ (composing 0).now ∧ ((composing 0).wingAt 3).armedAt.toNat < (composing 0).now
    ∧ (idleFixed.dead = false ∧ (idleFixed.wingAt 3).running = none ∧ (idleFixed.wingAt 3).pending = none ∧ (idleFixed.wingAt 3).composed = none
      ∧ idleFixed.kpr.ready = true ∧ idleFixed.served 3 = true ∧ idleFixed.frozen 3 = false ∧ (idleFixed.wingAt 3).stopped = false
      ∧ (idleFixed.wingAt 3).fixedEntry ≠ none ∧ idleFixed.rings.appliedAt ≠ some idleFixed.kpr.ktime)
    ∧ (∀ s ∈ [wing3 { composed := some (stepAt 1 0) }, wing3 { replayOf := some (stepAt 1 0) }], s.dead = false ∧ s.kpr.halted = false
      ∧ (s.wingAt 3).stopped = false ∧ (s.wingAt 3).pending = none ∧ s.writesDone 3 (stepAt 1 0) = true ∧ s.keysDone 3 = true ∧ s.resetLow = false
      ∧ s.kpr.ready = true ∧ s.active .curator = true)
    ∧ ((wing3 { composed := some (stepAt 1 0) }).wingAt 3).composed = some (stepAt 1 0) ∧ (stepAt 1 0).gap = 0
    ∧ ((wing3 { replayOf := some (stepAt 1 0) }).wingAt 3).replayOf = some (stepAt 1 0)
    ∧ ((wing3 { replayOf := some (stepAt 1 0) }).wingAt 3).composed = none
    ∧ (wing3 { replayOf := some (stepAt 1 0) }).powerOk 3 tokenEntry = true := by decide +kernel

theorem witness_StepsStartAndEnd :
    up.dead = false ∧ up.throttled = false
    ∧ (((wing3 { pending := some (stepAt 0xFFFF 0) }).wingAt 3).pending = some (stepAt 0xFFFF 0)
      ∧ ((wing3 { pending := some (stepAt 0xFFFF 0) }).wingAt 3).running = none ∧ (stepAt 0xFFFF 0).tag = 0xFFFF ∧ (stepAt 0xFFFF 0).tag ≠ 0)
    ∧ (((wing3 { running := some (stepAt 1 0), past := [stepAt 0 0] }).wingAt 3).running = some (stepAt 1 0) ∧ (stepAt 1 0).tag ≠ 0
      ∧ ((wing3 { running := some (stepAt 1 0), past := [stepAt 0 0] }).wingAt 3).begun 0 ≠ none
      ∧ ((wing3 { running := some (stepAt 1 0), past := [stepAt 0 0] }).wingAt 3).begun 2 = none) := by decide +kernel

/-- A step that runs for 10 µs beyond its period, and one whose last window closed 40 µs ago with an unfed step behind it. -/
def late3 : State := wing3 { running := some { stepAt 1 999899000 with lastClose := some 999996000 }, pending := some (stepAt 2 0) }

theorem witness_StepEventsAndLateSteps :
    up.dead = false ∧ ((wing3 {}).wingAt 3).begun 1 = none ∧ ((wing3 { running := some (stepAt 1 0) }).wingAt 3).begun 1 = some (stepAt 1 0)
    ∧ eventTypes.contains (bits (0 : W64).toNat 63 56) = false ∧ eventTypes.contains (bits (0xFF00000000000000 : W64).toNat 63 56) = false
    ∧ (late3.wingAt 3).running = some { stepAt 1 999899000 with lastClose := some 999996000 }
    ∧ (stepAt 1 999899000).free late3 = true ∧ (stepAt 1 999899000).startAt + shapeTicks tokenEntry + 1000 ≤ late3.now
    ∧ ((late3.wingAt 3).nextFed { stepAt 1 999899000 with lastClose := some 999996000 }) = some (stepAt 2 0)
    ∧ (stepAt 2 0).fedAt = none ∧ (stepAt 1 0).discarded = 0 ∧ (999996000 : W64).toNat + 4000 ≤ late3.now := by decide +kernel

/-! ## Intake, merge, sampling, commit -/

def win0 : Window := { openAt := 5000, closeAt := 90000, rowCount := 1, shards := 1, candBursts := 1 }

/-- A row released whose units are all read. -/
def areaDone : Step := { stepAt 1 0 with released := [0], read := [unitKey 0 0] }

theorem witness_WindowsTakeCandidates :
    (let s := wing3 { running := some (stepAt 1 999995000) }
     s.dead = false ∧ (s.wingAt 3).running = some (stepAt 1 999995000) ∧ (stepAt 1 999995000).shape.windows[0]? = some win0 ∧ s.active .intake = true
      ∧ (stepAt 1 999995000).openWindows.contains 0 = false ∧ (stepAt 1 999995000).closedWindows.contains 0 = false
      ∧ (stepAt 1 999995000).startAt + win0.openAt ≤ s.now ∧ s.cipReady = true ∧ (stepAt 1 999995000).windowOpen s = false)
    ∧ ((stepAt 1 999910000).startAt + win0.closeAt = up.now ∧ (stepAt 1 999909999).startAt + win0.closeAt < up.now
      ∧ (stepAt 1 999910000).closedWindows.contains 0 = false ∧ (stepAt 1 999910000).closing.contains 0 = false)
    ∧ ((wing3 { running := some { stepAt 1 0 with closing := [0] } }).wingAt 3).running = some { stepAt 1 0 with closing := [0] }
    ∧ (let t : Step := { stepAt 1 999995000 with openWindows := [0] }
       let s := wing3 { running := some t }
       let q : Place := { win := win0, row := 0, slot := 0, shard := 0, burst := 0 }
       (s.wingAt 3).running = some t ∧ t.windowOpen s = true ∧ t.discarded = 0
        ∧ (t.freeAreas (intakeBursts s.kpr.size)).place (intakeBursts s.kpr.size) 0 = some q
        ∧ t.released.contains q.row = false ∧ q.burst ≠ q.win.candBursts ∧ SMap.find t.headers (headerKey q.row q.slot q.shard) = none)
    ∧ ((wing3 { tails := [areaDone] }).wingAt 3).tails.find? (fun t => t.released.contains 0 && !t.freed.contains 0
      && (List.range (t.shape.specWidth + 1)).all fun d => t.read.contains (unitKey 0 d)) = some areaDone := by decide +kernel

/-- A unit of wing 3's row 0 with no records, its merge result, and the states before and after each unit of the path. -/
def unit0 : MUnit := { wing := 3, tag := 1 }
def res0 : MergeRes := { wing := 3, tag := 1, acc := 5, km := 1, n := 1, entries := [{ index := 7, value := 1 }] }
def merging : State := { wing3 { running := some (stepAt 1 0) } with path := { mergeQueue := [unit0] } }
def merged : State := { wing3 { running := some (stepAt 1 0) } with path := { trees := [(31, { unit := unit0, result := res0 })] } }
def dispatching : State := { wing3 { running := some (stepAt 1 0) } with path := { dispatch := [res0] } }
def sampling : State := { wing3 { running := some (stepAt 1 0) } with path := { lanes := [(127, { result := res0 })] } }

/-- Wing 3 with a step ended whose row 0 is sampled, with its request live of a kind, or gone. -/
def sampled3 (k : Nat) (live : Bool) : State :=
  { wing3 { tails := [{ stepAt 1 0 with units := [(unitKey 0 0, .token 7 false false [])] }] } with
    reg := { reqs := if live then [(5, { req5 with kind := k })] else [] } }

theorem witness_UnitsMergeSampleAndCommit :
    (merging.dead = false ∧ merging.path.mergeQueue = [unit0] ∧ 31 < merging.kpr.caps.trees ∧ SMap.find merging.path.trees 31 = none
      ∧ merging.path.buffered merging.now 31 < 2 ∧ merging.cipReady = true ∧ merging.unitStep 3 1 = some (stepAt 1 0) ∧ windowOf tokenEntry 0 = some win0
      ∧ (merging.mergeUnit (stepAt 1 0) 31 unit0 win0).dup = false)
    ∧ (SMap.find merged.path.trees 31 = some { unit := unit0, result := res0 } ∧ merged.unitStep 3 1 = some (stepAt 1 0)
      ∧ (stepAt 1 0).discarded = 0 ∧ res0.dup = false ∧ res0.tiesCut = 0)
    ∧ (dispatching.path.dispatch = [res0] ∧ 0 < dispatching.kpr.caps.lanes ∧ SMap.find dispatching.path.lanes 0 = none
      ∧ (∀ l, l < 0 → SMap.find dispatching.path.lanes l ≠ none)
      ∧ dispatching.active .docent = true ∧ dispatching.kpr.halted = false)
    ∧ (SMap.find sampling.path.lanes 127 = some { result := res0 } ∧ sampling.unitStep 3 1 = some (stepAt 1 0)
      ∧ noiseMismatch (nth (stepAt 1 0).rows 0 {}).sampling res0 = false
      ∧ sampleUnit (nth (stepAt 1 0).rows 0 {}).sampling 0 1 res0 ≠ .noCandidate)
    ∧ ((sampled3 0 false).dead = false ∧ ((sampled3 0 false).commitRow? 3 0).isSome = true ∧ (sampled3 0 false).req? 5 = none)
    ∧ (∀ k ∈ [0, 1, 2], ((sampled3 k true).commitRow? 3 0).isSome = true ∧ (sampled3 k true).req? 5 = some { req5 with kind := k }) := by decide +kernel

/-- An SMP request outstanding, and KYB operations of wing 3 on either bank. -/
def asked (q : SmpReq) : State := { up with path := { smp := [q] } }
def keying (o : KybOp) : State := { up with path := { kyb := [o] } }

theorem witness_SideBandResponses :
    up.dead = false ∧ up.path.smp.find? (fun q => decide (q.tag = 255)) = none
    ∧ (asked { tag := 255 }).path.smp.find? (fun q => decide (q.tag = 255)) = some { tag := 255 }
    ∧ takeFirst (fun (o : KybOp) => decide (o.wing = 3) && (o.noise == true)) up.path.kyb = none
    ∧ takeFirst (fun (o : KybOp) => decide (o.wing = 3) && (o.noise == true)) (keying { wing := 3, noise := true }).path.kyb
      = some ({ wing := 3, noise := true }, [])
    ∧ (∀ op ∈ [0, 1], takeFirst (fun (o : KybOp) => decide (o.wing = 3) && (o.noise == false)) (keying { wing := 3, op := op, slot := 63 }).path.kyb
      = some ({ wing := 3, op := op, slot := 63 }, [])) := by decide +kernel

/-! ## Records, deadlines -/

/-- A record of request 5 that waits, made at tick 0; a result to be read; a fixed step whose release tick has passed. -/
def recorded : State := { live5 with path := { records := [{ acc := 5 }] } }
def resulting (n : Option Nat) : State := { live5 with path := { results := [(5, { acc := 5, length := n })] } }
def turns3 : State := wing3 { running := some { stepAt 1 999905000 with fixed := true } }

/-- Wing 3 with a step whose one row carries no token, so that its words need no request. -/
def quietStep : Step := { stepAt 1 0 with rows := [{ row := 0, acc := 5, type := 3 }] }
def feeding : State := wing3 { running := some quietStep }

theorem witness_RecordsAndFeedStreams :
    (recorded.dead = false ∧ (recorded.path.records.filter fun o => decide (o.acc = (5 : W32).toNat) && !o.sealed && decide (o.madeAt.toNat < recorded.now))
      = [{ acc := 5 }])
    ∧ turns3.releaseDue 3 = some { stepAt 1 999905000 with fixed := true }
    ∧ (∀ n ∈ [none, some 0, some 1, some 4033], (resulting n).dead = false
      ∧ SMap.find (resulting n).path.results (5 : W32).toNat = some { acc := 5, length := n } ∧ (resulting n).req? (5 : W32).toNat = some req5
      ∧ (∀ o ∈ (resulting n).path.records, o.acc ≠ (5 : W32).toNat) ∧ ({ acc := 5, length := n } : ResultJob).reading = false
      ∧ (resulting n).ringRoom req5.gallery (1 + ceilDiv ({ acc := 5, length := n } : ResultJob).groupLength 64) = true)
    ∧ (feeding.wingAt 3).feedStep = some quietStep
    ∧ (let u := quietStep.rows.foldl (fun u a => u.prepareRow 3 1 a) feeding
       ((u.wingAt 3).feedStep.any fun t => t.fedWhole) = true ∧ (u.wingAt 3).feedGate = none ∧ u.kpr.halted = false)
    ∧ (let s := wing3 { running := some quietStep, feedGate := some 9 }
       let u := quietStep.rows.foldl (fun u a => u.prepareRow 3 1 a) s
       (u.wingAt 3).feedGate = some 9 ∧ (9 : W16) ≠ quietStep.tag ∧ (u.wingAt 3).feedStep.isSome = true ∧ u.kpr.halted = false) := by decide +kernel

/-- Request 5 with a completion deadline, and a wheel entry that has passed. -/
def due5 (completion : Option Nat) : State :=
  { cat1 with reg := { reqs := [(5, { req5 with completion := completion })], wheel := [(5, { deadline := 10000000 })] } }

theorem witness_DeadlinesAndPeriodsEnd :
    (∀ d ∈ [none, some 10000001, some 10000000], SMap.find (due5 d).reg.wheel 5 = some { deadline := 10000000 }
      ∧ (due5 d).ownSlot 5 = some { req5 with completion := d } ∧ passed (due5 d).nowUs 10000000 = true
      ∧ (due5 d).nextFired = some 5)
    ∧ (let s := { live5 with reg := { reqs := [(5, req5), (6, { req5 with acc := 6 })], wheel := [(5, { deadline := 9999999 }), (6, { deadline := 9999998 })] } }
       SMap.find s.reg.wheel 5 = some { deadline := 9999999 } ∧ s.ownSlot 5 = some req5 ∧ passed s.nowUs 9999999 = true ∧ s.nextFired = some 6)
    ∧ passed up.nowUs 10000001 = false
    ∧ up.reg.farScan + 4096 ≤ up.nowUs ∧ ({ up with reg := { farScan := 9995905 } } : State).nowUs < 9995905 + 4096
    ∧ ({ up with cap := { inPeriod := true } } : State).cap.inPeriod = true := by decide +kernel

/-! ## Heartbeats and the pair -/

theorem witness_HeartbeatsAreExchanged :
    (let s := { pairIn .paired with pair := { state := .paired, sentAt := some (0xFFF, 999990000), ownEcho := some (100, 1000000000) } }
     s.beats = true ∧ s.now % 10000 = 0 ∧ (∀ h t, s.pair.sentAt = some (h, t) → t ≠ s.kpr.ktime)
      ∧ (∀ type ∈ [1, 2, 3, 4], s.heard (beatFrame type 0xFFF 0xFFFF) type = true)
      ∧ s.pair.sentAt = some (0xFFF, 999990000) ∧ s.pair.ownEcho = some (100, 1000000000)
      ∧ (0xFFF : BitVec 12).toNat = beatSeq (beatFrame 2 0xFFF 0xFFFF)
      ∧ (let left := (1000000000 : W64).toNat - (beatValue (beatFrame 2 0xFFF 19900) + 100) % 2 ^ 16 / 2
         (999990000 : W64).toNat ≤ left + 10000 ∧ left ≤ (999990000 : W64).toNat + 10000)
      ∧ (let left := (1000000000 : W64).toNat - (beatValue (beatFrame 2 0xFFF 60000) + 100) % 2 ^ 16 / 2
         left + 10000 < (999990000 : W64).toNat))
    ∧ (∀ p ∈ [PairState.alone, .paired, .joining, .fencing, .yielded], (pairIn p).heard (beatFrame 4 0 0) 4 = true ∧ (pairIn p).pair.state = p) := by
  refine ⟨?_, by decide +kernel⟩
  intro s
  refine ⟨by decide +kernel, by decide +kernel, ?_, by decide +kernel⟩
  intro h t ht
  cases ht
  decide +kernel

theorem witness_PairTimeouts :
    (pairIn .paired).pair.lastFrame = some 999990000 ∧ (pairIn .paired).pair.state = .paired ∧ (pairIn .joining).pair.state = .joining
    ∧ (pairIn .alone).pair.state ≠ .paired ∧ (pairIn .alone).pair.state ≠ .joining ∧ (pairIn .fencing).pair.state = .fencing
    ∧ (let s := { pairIn .fencing with pair := { state := .fencing, expireDue := true } }
       s.pair.withdrawDue = false ∧ s.pair.expireDue = true ∧ s.pair.state = .fencing)
    ∧ (∀ p ∈ [PairState.fencing, .degraded],
       let s := { up with kpr := { up.kpr with fenceReq := true }, pair := { state := p, withdrawDue := true } }
       s.pair.withdrawDue = true ∧ s.kpr.fenceReq = true)
    ∧ (let s := { pairIn .joining with pair := { state := .joining, helloSent := some 990000000 } }
       s.dead = false ∧ s.pair.helloSent = some 990000000 ∧ s.pair.state = .joining ∧ s.pair.session = false) := by decide +kernel

/-- Basam in a session, its Registrar on or off. -/
def inSession (on_ : Bool) : State :=
  { pairIn .paired with pair := { state := .paired, session := true, applied := 4 }, power := { up.power with registrar := if on_ then on else {} } }

/-- Every frame of the partner has a header with which it is intact. -/
theorem intact_of (s : State) (p : FrameOut) (fseq acked : Nat) :
    ∃ hdr : FrameHdr, hdr.fseq = fseq ∧ s.intact hdr p = true ∧ s.intact { hdr with crc := hdr.crc + 1 } p = false := by
  refine ⟨{ fseq := fseq, acked := acked
            tag := frameTag (s.directionKey (1 - s.side)) (1 - s.side) p fseq acked
            crc := frameCrc (s.directionKey (1 - s.side)) (1 - s.side) p fseq acked
              (frameTag (s.directionKey (1 - s.side)) (1 - s.side) p fseq acked) }, rfl, ?_, ?_⟩
  · simp [State.intact]
  · simp only [State.intact, Bool.and_eq_false_iff, decide_eq_false_iff_not]
    exact Or.inl (by simp)

/-- Basam with a recovery session up to a point, and frames kept in it. -/
def recoverySession (r : RecSession) : State := { up with pair := { recov := r } }

theorem witness_FramesAreKeptAndTakenInOrder :
    ((inSession true).dead = false ∧ (inSession true).pair.session = true ∧ (inSession true).pair.ackSent < (inSession true).ackValue
      ∧ (inSession true).pair.recov.applied ≤ (inSession true).pair.recov.ackSent ∧ (inSession true).pair.ackSentAt.toNat + 500 ≤ (inSession true).now)
    ∧ (let s := recoverySession { applied := 1 }
       s.dead = false ∧ s.pair.session = false ∧ s.power.linkUp = true ∧ s.pair.recov.ackSent < s.pair.recov.applied
        ∧ s.pair.recov.ackSentAt.toNat + 500 ≤ s.now)
    ∧ (({ up with pair := { kept := [{ fseq := 1 }] } } : State).pair.kept = { fseq := 1 } :: [] ∧ up.pair.recov.kept = []
      ∧ ({ up with pair := { kept := [{ fseq := 1 }] } } : State).pair.ackMovedAt.toNat + 2000 ≤ up.now)
    ∧ (let s := recoverySession { kept := [{ fseq := 1 }] }
       s.pair.kept = [] ∧ s.pair.recov.kept ≠ [] ∧ s.pair.recov.ackMovedAt.toNat + 2000 ≤ s.now)
    ∧ (inSession true).active .registrar = true ∧ up.pair.session = false ∧ (inSession false).active .registrar = false
    ∧ (∃ hdr : FrameHdr, hdr.fseq = (inSession true).pair.applied + 1 ∧ (inSession true).intact hdr .ack = true)
    ∧ ∃ hdr : FrameHdr, (inSession true).intact hdr .ack = false := by
  refine ⟨by decide +kernel, by decide +kernel, by decide +kernel, by decide +kernel, by decide +kernel, by decide +kernel, by decide +kernel, ?_, ?_⟩
  · obtain ⟨hdr, h1, h2, _⟩ := intact_of (inSession true) .ack 5 0
    exact ⟨hdr, h1, h2⟩
  · obtain ⟨hdr, _, _, h3⟩ := intact_of (inSession true) .ack 5 0
    exact ⟨_, h3⟩

theorem witness_HelloAndImageFrames :
    ((pairIn .joining).dead = false ∧ (pairIn .joining).partner? ≠ none ∧ (pairIn .joining).active .registrar = true)
    ∧ ((pairIn .alone).resetLow = false ∧ (pairIn .alone).kpr.halted = false ∧ (pairIn .alone).power.linkUp = true ∧ (pairIn .alone).partner? ≠ none
      ∧ (pairIn .alone).kpr.image = some {})
    ∧ ((imageless true).wantsImage = true ∧ (imageless true).resetLow = false ∧ (imageless true).kpr.halted = false ∧ (imageless true).power.linkUp = true
      ∧ (imageless true).pair.imgChunks = 0 ∧ (imageless true).pair.recov.applied = 0)
    ∧ (imageless false).power.linkUp = false
    ∧ (recoverySession { fseqNext := 3, acked := 1 }).pair.recov.acked < 2 ∧ 2 < (recoverySession { fseqNext := 3, acked := 1 }).pair.recov.fseqNext
    ∧ (∃ hdr : FrameHdr, hdr.fseq = 1 ∧ (pairIn .alone).intact hdr (.image .request) = true)
    ∧ (∃ hdr : FrameHdr, hdr.fseq = 1 ∧ (imageless true).intact hdr (.image (.chunk 0 65537 (z 65536) none)) = true)
    ∧ ∃ hdr : FrameHdr, hdr.fseq = 1 ∧ (pairIn .alone).intact hdr (.image .ack) = true := by
  refine ⟨by decide +kernel, by decide +kernel, by decide +kernel, by decide +kernel, by decide +kernel, by decide +kernel, ?_, ?_, ?_⟩
  all_goals
    obtain ⟨hdr, h1, h2, _⟩ := intact_of _ _ 1 0
    exact ⟨hdr, h1, h2⟩

/-- A sealed record of a paired wing that its mirror has not covered, sealed 1 ms ago. -/
def uncovered : State :=
  { pairIn .paired with
    wings := [(0, { paired := true })], reg := { reqs := [(5, req5)] }
    path := { records := [{ acc := 5, seq := 1, sealed := true, stamp := 999900000, fseq := 1 }] } }

theorem witness_AdoptionAndMirror :
    ((pairIn .takeover).dead = false ∧ (pairIn .takeover).pair.state = .takeover ∧ (pairIn .alone).pair.state ≠ .takeover)
    ∧ (uncovered.dead = false ∧ uncovered.pair.state = .paired
      ∧ uncovered.path.records.find? (fun o => decide (o.acc = (5 : W32).toNat) && decide (o.seq = 1))
        = some { acc := 5, seq := 1, sealed := true, stamp := 999900000, fseq := 1 }
      ∧ uncovered.req? 5 = some req5 ∧ uncovered.awaitsAck req5 = true ∧ uncovered.pair.acked < 1 ∧ (999900000 : W64).toNat + 100000 ≤ uncovered.now)
    ∧ 3 * 2 ^ 32 + 7 ∈ ({ up with pair := { copying := [3 * 2 ^ 32 + 7] } } : State).pair.copying := by decide +kernel

/-! ## Integrity, maintenance, observation -/

/-- Basam with region 9 in byte mode. -/
def byteMode9 : State := { up with kpr := { up.kpr with capsule := some { cap0 with byteMode := [9] } } }

theorem witness_ScrubbingGoesThroughItsLap :
    (up.kpr.ready = true ∧ up.dead = false ∧ (∀ region ∈ [0, 7, 9], up.scrubs (regionDomain region) = true ∧ 0 < Config.regionRows up.kpr.size region)
      ∧ (z 35).length = (if up.byteMode 9 then 64 else 35) ∧ (z 64).length = (if byteMode9.byteMode 9 then 64 else 35)
      ∧ up.lapPlace 0 0 0 = SMap.getD up.integ.lapDone (regionDomain 0) 0 ∧ up.lapPlace 9 0 63 ≠ SMap.getD up.integ.lapDone (regionDomain 9) 0)
    ∧ (up.domainWords (scrubIndex .registrar) ≠ 0 ∧ up.integ.scrubWake.contains (scrubIndex .registrar) = false
      ∧ up.lapStart (scrubIndex .registrar) + up.lapLimit * 7 / 8 ≤ up.now)
    ∧ (let s := { up with integ := { scrubWake := [scrubIndex .registrar + 8] }, maint := { running := [{ code := 1 }] } }
       s.integ.scrubWake.contains (scrubIndex .registrar + 8) = true ∧ s.runs 1 none = true) := by decide +kernel

theorem witness_MaintenanceCompletes :
    up.dead = false ∧ up.kpr.ready = true ∧ ({ up with ledger := { running := some (255, {}) } } : State).ledger.running = some (255, {})
    ∧ ({ up with maint := { retire := some (9, 0, 0) } } : State).maint.retire = some (9, 0, 0)
    ∧ ({ up with maint := { capNext := some cap0 } } : State).maint.capNext = some cap0
    ∧ ({ up with maint := { fwImage := some {}, fwProgram := true } } : State).maint.fwImage = some {}
    ∧ ({ up with maint := { fwImage := some {}, fwProgram := true } } : State).maint.fwProgram = true ∧ up.pair.state ≠ .yielded
    ∧ (pairIn .yielded).yieldDone = true := by decide +kernel

theorem witness_SnapshotsAreTaken :
    (({ up with cnt := { armed := some { tick := 1000000000 } } } : State).cnt.armed = some { tick := 1000000000 }
      ∧ (1000000000 : W64).toNat ≤ up.now ∧ up.now < (1000000001 : W64).toNat)
    ∧ (({ up with cnt := { taking := some { tick := 999999993 } } } : State).cnt.taking = some { tick := 999999993 }
      ∧ (999999993 : W64).toNat + 7 ≤ up.now ∧ Memory.wf up.mem = true)
    ∧ ({ up with cnt := { snapDue := true } } : State).cnt.snapDue = true
    ∧ (let s := { up with cnt := { holding := 0xF, freezeDue := true } }
       s.dead = false ∧ s.cnt.freezeDue = true ∧ ∀ w, w < 4 → s.frozen w = true → s.wingQuiet w = true) := by decide +kernel

theorem witness_OwnResets :
    (up.active .control = true ∧ up.dead = false ∧ up.integ.lockstepAt = none
      ∧ ({ up with integ := { lockstepAt := some 900000000 } } : State).integ.lockstepAt = some 900000000 ∧ up.now - (900000000 : W64).toNat ≤ 100000000
      ∧ 100000000 < up.now - (899999999 : W64).toNat)
    ∧ ((composing 0).active .curator = true ∧ ((composing 0).wingAt 3).composed = none ∧ ((composing 0).wingAt 3).composeAt = some 1000000000
      ∧ (composing 0).composeDue 3 = true)
    ∧ (let s := { wing3 { composed := some (stepAt 1 0) } with path := { kyb := [{ wing := 3, noise := true }] } }
       s.keysDone 3 = false ∧ s.active .curator = true ∧ s.dead = false ∧ (s.wingAt 3).composed = some (stepAt 1 0) ∧ (stepAt 1 0).replay = false)
    ∧ (pairIn .paired).partner? ≠ none ∧ (pairIn .paired).kpr.ready = true
    ∧ merged.active .intake = true ∧ sampling.active .docent = true := by decide +kernel

theorem witness_WrapperInstructions : up.kpr.wrapper = 0 ∧ State.reset.kpr.wrapper = 0
    ∧ ∀ k ∈ [1, 2, 3], ({ up with kpr := { up.kpr with wrapper := k } } : State).kpr.wrapper = k := by decide

theorem witness_NoticesTouchOnlyTheirRings : Memory.wf up.mem = true ∧ (z 16).length = 16 := by decide

theorem witness_QuietCommandsStoreNothing : ∀ i ∈ [Instr.fclkAckRise, .throttleEnd, .pswAckRise .registrar, .preWake 3, .laneDispatch 127,
    .mergeResult 31, .rowAreaFree 3 2047], ∃ t, exec i up = .next t ∧ true = true := by
  intro i h
  simp only [List.mem_cons, List.not_mem_nil, or_false] at h
  rcases h with rfl | rfl | rfl | rfl | rfl | rfl | rfl <;> exact next_of (p := fun _ => true) (by decide +kernel)

/-! ## Values the spec gives -/

/-- The ASCII bytes "123456789". -/
def nine : List Byte := [0x31, 0x32, 0x33, 0x34, 0x35, 0x36, 0x37, 0x38, 0x39]

/-- The check values of R97 and R121. -/
theorem test_crc_check_values : crc32c nine = 0xE3069283 ∧ crc16 nine = 0x29B1 := by decide +kernel

/-- The known answers of R297. -/
theorem test_philox_known_answers :
    philox 0 0 (0, 0, 0, 0) = (0x6627E8D5, 0xE169C58D, 0xBC57AC4C, 0x9B00DBD8)
    ∧ philox 0xFFFFFFFF 0xFFFFFFFF (0xFFFFFFFF, 0xFFFFFFFF, 0xFFFFFFFF, 0xFFFFFFFF) = (0x408F276D, 0x41C83B0E, 0xA20BC7C6, 0x6D5451FD)
    ∧ philox 0xA4093822 0x299F31D0 (0x243F6A88, 0x85A308D3, 0x13198A2E, 0x03707344) = (0xD16CFE09, 0x94FDCCEB, 0x5001E420, 0x24126EA1) := by
  decide +kernel

/-- The transform reference values of R297. -/
theorem test_transform_reference_values :
    gumbel 0x7FFFFFFF = 0x875D4 ∧ gumbel 0x80000000 = 0x875D5 ∧ lg 1 40 = 0 ∧ lg (2 ^ 33) 40 = 33 * 2 ^ 40 := by decide +kernel

/-- The header of the worked GALLERY_OPEN of chapter 5, and that of its reply on the ring's first lap. -/
theorem test_worked_gallery_open :
    parseHeader ([0x10, 0x00, 0x0C, 0x00, 0x01, 0x0A, 0x00, 0x00, 0x0C] ++ z 7) = { op := 0x10, length := 12, tag := 0xA01, gallery := 12 }
    ∧ (replyBytes 0x10 12 0xA01 0 true 1 0 (z 288)).take 12 = [0x10, 0x80, 0x14, 0x00, 0x01, 0x0A, 0x00, 0x00, 0x0C, 0x00, 0x00, 0x00]
    ∧ (replyBytes 0x10 12 0xA01 0 true 1 0 (z 288)).length = 320 := by decide +kernel

/-- The first packet of the worked SUBMIT of chapter 5 in ring 2, whose index stands at 0x0A40, lies at HIF offset 0x0012_A400. -/
theorem test_worked_submit_offset : cmdAddr 2 (0x0A40 * 16) = 0x12A400 := by decide

/-- A NOP in ring 0: its packet is taken, its reply is two units, and one apply sequence value is given (R91, R94, R101). -/
theorem test_nop_is_answered : ∃ t, exec (.nop 0) (given up (bare 0)) = .next t
    ∧ decide ((t.pairAt 0).rplPi = 2 ∧ (t.pairAt 0).cmdCi = 1 ∧ t.rings.applySeq = 1) = true := next_of (by decide +kernel)

/-- A doorbell of more than 4,096 units sets PI_ERR and leaves CMD_PI (R90). -/
theorem test_doorbell_beyond_the_ring : ∃ t, exec (.doorbell 1 0 4097) up = .next t
    ∧ decide ((t.pairAt 0).piErr = true ∧ (t.pairAt 0).cmdPi = 0) = true := next_of (by decide +kernel)

/-- From power-on the rise of POR_N begins start-up at phase 1 and asks for the fast clock (R69, R80). -/
theorem test_por_release_begins_start_up : ∃ t, exec (.resetRelease .por) State.reset = .next t
    ∧ decide (t.kpr.phase = 1 ∧ t.power.fclkReq = true ∧ t.kpr.ktime = 0) = true := next_of (by decide +kernel)

end Sys2Proof.Tests
end

section
/-! SUPPORT. An access that nothing holds back, by the window it reaches, and the two families of rows that are settled from it: the control registers of the rings with their resets (R95, R308), and the reads that have an effect (R5, R6, R430). -/

namespace Sys2Proof.Machine

open Sys2Proof.Safety Sys2Proof.Bytes

/-! ## Accesses that are carried out at once -/

/-- A number that fits n bytes is read back from them. -/
theorem le_ofLe_of_lt {n v : Nat} (h : v < 256 ^ n) : le (ofLe n v) = v := by
  induction n generalizing v with
  | zero => simp_all [ofLe, le]
  | succ n ih =>
    rw [Nat.pow_succ] at h
    have hq : le (ofLe n (v / 256)) = v / 256 := ih (by omega)
    simp only [ofLe, le, hq, BitVec.toNat_ofNat]
    omega

/-- An access that reaches its register is performed (R34, R43, R44, R68). -/
theorem State.access_of_reaches {s : State} {port : Port} {mid : Byte} {a : Nat} {data : List Byte} (write : Bool)
    (h : Reaches s port mid a data.length) : s.access port mid write a data = s.perform mid write (portOffset port a) data := by
  obtain ⟨hlow, hmid, hshut, hfits, hheld⟩ := h
  simp [State.access, State.hifAccess, hlow, hmid, hshut, hfits, hheld]

/-- The window holds registers and not ring memory (R428). -/
def HifWin.isRegister : HifWin → Bool
  | .cmd | .reply | .res | .unmapped => false
  | _ => true

/-- Four bytes written to a register window are a word written. -/
theorem State.writeAt_register {a : Nat} {data : List Byte} (s : State) (mid : Byte) (h : (hifWin a).isRegister = true) (hl : data.length = 4) :
    s.writeAt mid a data = s.writeWord mid a (le data) := by
  unfold State.writeAt
  split <;> simp_all [HifWin.isRegister]

/-- Four bytes read from a register window are a word read. -/
theorem State.readAt_register {a : Nat} (s : State) (mid : Byte) (h : (hifWin a).isRegister = true) :
    s.readAt mid a 4 = ((s.readWord mid a).1, ofLe 4 (s.readWord mid a).2.1, (s.readWord mid a).2.2) := by
  unfold State.readAt
  split <;> simp_all [HifWin.isRegister]

/-- A 4-byte write that reaches a register answers with what the register's write gives. -/
theorem State.write4_of_reaches {s : State} {port : Port} {mid : Byte} {a : Nat} (v : W32) (h : Reaches s port mid a 4)
    (hw : (hifWin (portOffset port a)).isRegister = true) :
    s.write4 port mid a v =
      (s.writeWord mid (portOffset port a) v.toNat).2.respond mid (s.writeWord mid (portOffset port a) v.toNat).1 [] := by
  have hv : le (ofLe 4 v.toNat) = v.toNat := le_ofLe_of_lt v.isLt
  have hl : (ofLe 4 v.toNat).length = 4 := ofLe_length 4 _
  rw [State.write4, State.access_of_reaches true (hl.symm ▸ h), State.perform, if_pos rfl, State.writeAt_register s mid hw hl, hv]

/-- A 4-byte read that reaches a register answers with what the register's read gives. -/
theorem State.read4_of_reaches {s : State} {port : Port} {mid : Byte} {a : Nat} (h : Reaches s port mid a 4)
    (hw : (hifWin (portOffset port a)).isRegister = true) :
    s.read4 port mid a = (s.readWord mid (portOffset port a)).2.2.respond mid (s.readWord mid (portOffset port a)).1
      (ofLe 4 (s.readWord mid (portOffset port a)).2.1) := by
  rw [State.read4, State.access_of_reaches false (List.length_replicate .. ▸ h), State.perform, if_neg Bool.false_ne_true,
    List.length_replicate, State.readAt_register s mid hw]

/-! ## Control registers of the rings (R95, R308) -/

theorem hifWin_dbl {a : Nat} (hlo : 0x2000 ≤ a) (hhi : a < 0x3000) : hifWin a = .dbl := by
  unfold hifWin
  rw [if_neg (by omega), if_neg (by omega), if_pos hhi]

/-- A 4-byte write that reaches a register of the doorbell window. -/
theorem State.write4_dbl {s : State} {mid : Byte} {a : Nat} (v : W32) (h : Reaches s .hif mid a 4) (hlo : 0x2000 ≤ a) (hhi : a < 0x3000) :
    s.write4 .hif mid a v = (s.writeDbl a v.toNat).respond mid true [] := by
  have hd : hifWin a = .dbl := hifWin_dbl hlo hhi
  have hw : s.writeWord mid a v.toNat = (true, s.writeDbl a v.toNat) := by simp only [State.writeWord, hd]
  rw [State.write4_of_reaches v h (by rw [portOffset, hd]; rfl), portOffset, hw]

/-- DBL_CMD_CTRL of pair i stands at 0x08 of the pair's registers. -/
theorem State.writeDbl_cmdCtrl (s : State) (i : Fin 8) (v : Nat) : s.writeDbl (0x2008 + i.val * 0x20) v = s.writeCmdCtrl i.val v := by
  have hi : (0x2008 + i.val * 0x20 - 0x2000) / 0x20 = i.val := by omega
  have hoff : (0x2008 + i.val * 0x20) % 0x20 = 0x08 := by omega
  simp only [State.writeDbl, if_pos (show 0x2008 + i.val * 0x20 < 0x2100 by omega), hi, hoff]

/-- DBL_RES_CTRL of ring i stands at 0x08 of the ring's registers. -/
theorem State.writeDbl_resCtrl (s : State) (i : Fin 8) (v : Nat) : s.writeDbl (0x2208 + i.val * 0x10) v = s.writeResCtrl i.val v := by
  have hi : (0x2208 + i.val * 0x10 - 0x2200) / 0x10 = i.val := by omega
  have hoff : (0x2208 + i.val * 0x10) % 0x10 = 0x08 := by omega
  simp only [State.writeDbl, if_neg (show ¬ 0x2208 + i.val * 0x10 < 0x2100 by omega),
    if_pos (show 0x2200 ≤ 0x2208 + i.val * 0x10 ∧ 0x2208 + i.val * 0x10 < 0x2280 by omega), hi, hoff]

theorem exec_ringPairReset {s : State} {mid : Byte} {i : Fin 8} (v : W32) (h : Reaches s .hif mid (0x2008 + i.val * 0x20) 4) :
    exec (.ringPairReset mid i v) s = .next ((s.writeCmdCtrl i.val v.toNat).respond mid true []) := by
  change Host.Outcome.next (s.write4 .hif mid (0x2008 + i.val * 0x20) v) = _
  rw [State.write4_dbl v h (by omega) (by omega), State.writeDbl_cmdCtrl]

theorem exec_ringReset {s : State} {mid : Byte} {i : Fin 8} (v : W32) (h : Reaches s .hif mid (0x2208 + i.val * 0x10) 4) :
    exec (.ringReset mid i v) s = .next ((s.writeResCtrl i.val v.toNat).respond mid true []) := by
  change Host.Outcome.next (s.write4 .hif mid (0x2208 + i.val * 0x10) v) = _
  rw [State.write4_dbl v h (by omega) (by omega), State.writeDbl_resCtrl]

/-! ## Ring resets that complete (R95, R308) -/

/-- The state with ring pair i as at reset and its reply ring cleared. -/
def State.pairCleared (s : State) (i : Nat) : State :=
  { s with mem := Memory.clear s.mem (rplAddr i 0) (rplAddr i 0 + 0x10000) }.updPair i fun _ => {}

theorem State.pairAt_pairCleared (s : State) (i j : Nat) : (s.pairCleared i).pairAt j = if j = i then {} else s.pairAt j :=
  State.pairAt_updPair _ _ _ _

theorem State.pairCleared_mem (s : State) (i : Nat) :
    (s.pairCleared i).mem = Memory.clear s.mem (0x180000 + i * 0x10000) (0x180000 + i * 0x10000 + 0x10000) := rfl

theorem exec_ringPairResetComplete {s : State} {i : Fin 8} (hd : s.dead = false) (hb : (s.pairAt i.val).resetBusy = true)
    (hr : ∀ r ∈ s.rings.replies, r.ring ≠ i.val) : exec (.ringPairResetComplete i) s = .next (s.pairCleared i.val) := by
  have hnone : (s.rings.replies.any fun r => decide (r.ring = i.val)) = false := by simpa using hr
  change execRingPairResetComplete i s = _
  simp [execRingPairResetComplete, hd, hb, hnone, State.pairCleared]

/-- The state with result ring i as at reset and its memory cleared. -/
def State.resCleared (s : State) (i : Nat) : State :=
  { s with mem := Memory.clear s.mem (0x200000 + i * 0x40000) (0x200000 + i * 0x40000 + 0x40000) }.updRes i fun _ => {}

theorem State.resAt_resCleared (s : State) (i j : Nat) : (s.resCleared i).resAt j = if j = i then {} else s.resAt j :=
  State.resAt_updRes _ _ _ _

theorem State.resCleared_mem (s : State) (i : Nat) :
    (s.resCleared i).mem = Memory.clear s.mem (0x200000 + i * 0x40000) (0x200000 + i * 0x40000 + 0x40000) := rfl

theorem exec_ringResetComplete {s : State} {i : Fin 8} (hd : s.dead = false) (hb : (s.resAt i.val).resetBusy = true) :
    exec (.ringResetComplete i) s =
      .next ((s.resCleared i.val).event 7 0x48 noWing i.val (occupancy (s.resAt i.val).pi (s.resAt i.val).ci)) := by
  change execRingResetComplete i s = _
  simp [execRingResetComplete, hd, hb, State.resCleared]

/-- An event leaves the result rings. -/
theorem State.resAt_event (s : State) (n code wing arg0 arg1 j : Nat) : (s.event n code wing arg0 arg1).resAt j = s.resAt j := by
  simp [State.resAt]

/-- An event of a unit other than the Keeper joins the queue of the bank with its ring's delay (R402, R405). -/
theorem State.event_queue (s : State) {n : Nat} (hn : n ≠ 8) (code wing arg0 arg1 : Nat) :
    (s.event n code wing arg0 arg1).cnt.queue = s.cnt.queue ++ [{
      event := s.now, due := s.now + eventDelay n code
      op := .event n (eventBytes s.now (Config.eventCycle s.free % 36) code wing arg0 arg1 s.throttled) }] := by
  simp only [State.event, if_neg hn]
  rfl

/-- Settles O29: the writes by what the control registers do with a word, the completions by the cleared ring's state. -/
theorem ringResetsClearTheRing : Obligations.RingResetsClearTheRing := by
  unfold Obligations.RingResetsClearTheRing
  refine ⟨fun mid i v s h => exec_ringPairReset v h, fun mid i v s h => exec_ringReset v h, fun i s hd hb hr => ?_, fun i s hd hb => ?_⟩
  · refine ⟨_, exec_ringPairResetComplete hd hb hr, ?_, fun j hj => ?_, fun a hlo hhi => ?_, fun a ha => ?_⟩
    · rw [State.pairAt_pairCleared, if_pos rfl]
    · rw [State.pairAt_pairCleared, if_neg hj]
    · rw [State.pairCleared_mem, Memory.read_clear, if_pos ⟨hlo, hhi⟩]
    · rw [State.pairCleared_mem, Memory.read_clear, if_neg (by omega)]
  · refine ⟨_, exec_ringResetComplete hd hb, ?_, fun j hj => ?_, fun a hlo hhi => ?_, fun a ha => ?_, State.event_queue _ (by decide) _ _ _ _⟩
    · rw [State.resAt_event, State.resAt_resCleared, if_pos rfl]
    · rw [State.resAt_event, State.resAt_resCleared, if_neg hj]
    · rw [State.event_mem, if_neg (by decide), State.resCleared_mem, Memory.read_clear, if_pos ⟨hlo, hhi⟩]
    · rw [State.event_mem, if_neg (by decide), State.resCleared_mem, Memory.read_clear, if_neg (by omega)]

/-! ## Reads of a pair of words (R7, R430) -/

/-- A pair's low word lies in the Keeper's or the counters' window, at a multiple of 8. -/
theorem pairLow_bounds {a : Nat} (h : pairLow a = true) :
    (0x1000 ≤ a ∧ a + 4 < 0x2000 ∨ 0x400000 ≤ a ∧ a + 4 < 0x500000) ∧ a % 8 = 0 := by
  simp only [pairLow, Bool.or_eq_true, Bool.and_eq_true, decide_eq_true_eq] at h
  omega

/-- The word behind a pair's low word is the low word of no pair. -/
theorem pairLow_add_four {a : Nat} (h : pairLow a = true) : pairLow (a + 4) = false := by
  have ha : a % 8 = 0 := (pairLow_bounds h).2
  refine Bool.eq_false_iff.mpr fun hc => ?_
  have hc : (a + 4) % 8 = 0 := (pairLow_bounds hc).2
  omega

theorem hifWin_kpr {a : Nat} (hlo : 0x1000 ≤ a) (hhi : a < 0x2000) : hifWin a = .kpr := by
  unfold hifWin
  rw [if_neg (by omega), if_pos hhi]

theorem hifWin_cnt {a : Nat} (hlo : 0x400000 ≤ a) (hhi : a < 0x500000) : hifWin a = .cnt := by
  unfold hifWin
  iterate 10 rw [if_neg (by omega)]
  rw [if_pos hhi]

/-- Both words of a pair are registers. -/
theorem pairLow_isRegister {a b : Nat} (h : pairLow a = true) (hb : b = a ∨ b = a + 4) : (hifWin b).isRegister = true := by
  rcases (pairLow_bounds h).1 with ⟨hlo, hhi⟩ | ⟨hlo, hhi⟩
  · rw [hifWin_kpr (by omega) (by omega)]; rfl
  · rw [hifWin_cnt (by omega) (by omega)]; rfl

/-- A read of either word of a pair is a read of the pair. -/
theorem State.readWord_pair {a b : Nat} (s : State) (mid : Byte) (h : pairLow a = true) (hb : b = a ∨ b = a + 4) :
    s.readWord mid b = s.readPair mid b := by
  rcases hb with rfl | rfl <;> simp [State.readWord, h]

/-- A 4-byte read that reaches a word of a pair. -/
theorem State.read4_pair {s : State} {mid : Byte} {a b : Nat} (h : Reaches s .hif mid b 4) (hp : pairLow a = true) (hb : b = a ∨ b = a + 4) :
    s.read4 .hif mid b = (s.readPair mid b).2.2.respond mid (s.readPair mid b).1 (ofLe 4 (s.readPair mid b).2.1) := by
  rw [State.read4_of_reaches h (pairLow_isRegister hp hb), portOffset, State.readWord_pair s mid hp hb]

theorem State.readPair_low {a : Nat} (s : State) (mid : Byte) (h : pairLow a = true) :
    s.readPair mid a = (true, s.pairValue a % 2 ^ 32,
      { s with mbx := { s.mbx with latches := SMap.put s.mbx.latches mid.toNat (a, BitVec.ofNat 32 (s.pairValue a / 2 ^ 32)) } }) := by
  simp [State.readPair, h]

theorem State.readPair_latched {a : Nat} {s : State} {mid : Byte} {high : W32} (h : pairLow (a + 4) = false)
    (hl : SMap.find s.mbx.latches mid.toNat = some (a, high)) :
    s.readPair mid (a + 4) = (true, high.toNat, { s with mbx := { s.mbx with latches := SMap.drop s.mbx.latches mid.toNat } }) := by
  simp [State.readPair, h, hl]

theorem State.readPair_unlatched {a : Nat} {s : State} {mid : Byte} (h : pairLow (a + 4) = false)
    (hl : ∀ high, SMap.find s.mbx.latches mid.toNat ≠ some (a, high)) :
    s.readPair mid (a + 4) = (true, s.pairValue a / 2 ^ 32, s) := by
  simp only [State.readPair, h, Bool.false_eq_true, if_false, Nat.add_sub_cancel]
  split
  case h_1 low high hf =>
    have hne : ¬ low + 4 = a + 4 := fun he => hl high (by rw [hf, Nat.add_right_cancel he])
    rw [if_neg hne]
  case h_2 => rfl

theorem exec_lowWordRead (mid : Byte) (a : Nat) (s : State) : exec (.lowWordRead mid a) s = .next (s.read4 .hif mid a) := rfl

theorem exec_highWordRead (mid : Byte) (a : Nat) (s : State) : exec (.highWordRead mid a) s = .next (s.read4 .hif mid a) := rfl

/-! ## Reads that clear a count of losses (R5, R6, R395, R408) -/

/-- The count shown and the count left by a read of DBK_STATUS; rings and memory stay. -/
theorem State.readDbkStatus_spec (s : State) :
    s.readDbkStatus.2.1 = s.logs.dbkWings.toNat * 2 ^ 20 + b2n s.logs.dbkSelect * 2 ^ 19 + b2n s.logs.dbkErr * 2 ^ 18
        + (readLost s.logs.dbkLost s.freshNow.dbk).1.toNat
      ∧ s.readDbkStatus.2.2.logs = { s.logs with dbkLost := (readLost s.logs.dbkLost s.freshNow.dbk).2.1 }
      ∧ s.readDbkStatus.2.2.rings = s.rings ∧ s.readDbkStatus.2.2.mem = s.mem := by
  refine ⟨?_, rfl, rfl, rfl⟩
  simp [State.readDbkStatus, State.dbkWord]

/-- The count shown and the count left by a read of CNS_STATUS; rings and memory stay. -/
theorem State.readCnsStatus_spec (s : State) :
    s.readCnsStatus.2.1 = b2n s.logs.cnsLostModule * 2 ^ 17 + b2n s.logs.cnsErr * 2 ^ 16 + (readLost s.logs.cnsLost s.freshNow.cns).1.toNat
      ∧ s.readCnsStatus.2.2.logs = { s.logs with cnsLost := (readLost s.logs.cnsLost s.freshNow.cns).2.1 }
      ∧ s.readCnsStatus.2.2.rings = s.rings ∧ s.readCnsStatus.2.2.mem = s.mem := by
  refine ⟨?_, rfl, rfl, rfl⟩
  simp [State.readCnsStatus, State.cnsWord]

theorem exec_readClear_dbkStatus {s : State} {mid : Byte} (h : Reaches s .hif mid 0x5C0008 4) :
    exec (.readClear mid 0x5C0008) s = .next (s.readDbkStatus.2.2.respond mid true (ofLe 4 s.readDbkStatus.2.1)) :=
  congrArg Host.Outcome.next (State.read4_of_reaches h rfl)

theorem exec_readClear_cnsStatus {s : State} {mid : Byte} (h : Reaches s .hif mid 0x610008 4) :
    exec (.readClear mid 0x610008) s = .next (s.readCnsStatus.2.2.respond mid true (ofLe 4 s.readCnsStatus.2.1)) :=
  congrArg Host.Outcome.next (State.read4_of_reaches h rfl)

/-- A response leaves the rings as they are but for the answer itself. -/
theorem State.respond_rings_congr {s t : State} (h : t.rings = s.rings) (mid : Byte) (ok : Bool) (data : List Byte) :
    (t.respond mid ok data).rings = (s.respond mid ok data).rings := by
  simp only [State.respond, h]

/-- READ_CLEAR of DBK_STATUS, whatever the tick has lost. -/
theorem readClear_dbkStatus {s : State} {mid : Byte} (h : Reaches s .hif mid 0x5C0008 4) :
    ∃ t, exec (.readClear mid 0x5C0008) s = .next t
      ∧ t.logs = { s.logs with dbkLost := (readLost s.logs.dbkLost s.freshNow.dbk).2.1 }
      ∧ t.rings = (s.respond mid true (ofLe 4 (s.logs.dbkWings.toNat * 2 ^ 20 + b2n s.logs.dbkSelect * 2 ^ 19 + b2n s.logs.dbkErr * 2 ^ 18
          + (readLost s.logs.dbkLost s.freshNow.dbk).1.toNat))).rings
      ∧ t.mem = s.mem := by
  obtain ⟨hword, hlogs, hrings, hmem⟩ := s.readDbkStatus_spec
  rw [← hword]
  exact ⟨_, exec_readClear_dbkStatus h, hlogs, State.respond_rings_congr hrings .., hmem⟩

/-- READ_CLEAR of CNS_STATUS, whatever the tick has lost. -/
theorem readClear_cnsStatus {s : State} {mid : Byte} (h : Reaches s .hif mid 0x610008 4) :
    ∃ t, exec (.readClear mid 0x610008) s = .next t
      ∧ t.logs = { s.logs with cnsLost := (readLost s.logs.cnsLost s.freshNow.cns).2.1 }
      ∧ t.rings = (s.respond mid true (ofLe 4 (b2n s.logs.cnsLostModule * 2 ^ 17 + b2n s.logs.cnsErr * 2 ^ 16
          + (readLost s.logs.cnsLost s.freshNow.cns).1.toNat))).rings
      ∧ t.mem = s.mem := by
  obtain ⟨hword, hlogs, hrings, hmem⟩ := s.readCnsStatus_spec
  rw [← hword]
  exact ⟨_, exec_readClear_cnsStatus h, hlogs, State.respond_rings_congr hrings .., hmem⟩

/-- Settles O30: the reads of a pair by the reader's latch, the clearing reads by what the tick has lost. -/
theorem readsWithAnEffect : Obligations.ReadsWithAnEffect := by
  unfold Obligations.ReadsWithAnEffect
  refine ⟨fun mid a s h hp => ?_, fun mid a high s h hp hl => ?_, fun mid a s h hp hn hl => ?_, fun mid s h => ⟨fun hf => ?_, fun b n hf => ?_⟩,
    fun mid s h => ⟨fun hf => ?_, fun b n hf => ?_⟩⟩
  · rw [exec_lowWordRead, State.read4_pair h hp (.inl rfl), State.readPair_low s mid hp]
  · rw [exec_highWordRead, State.read4_pair h hp (.inr rfl), State.readPair_latched (pairLow_add_four hp) hl]
  · rw [exec_highWordRead, State.read4_pair h hp (.inr rfl), State.readPair_unlatched hn hl]
  · simpa only [hf, readLost] using readClear_dbkStatus h
  · simpa only [hf, readLost] using readClear_dbkStatus h
  · simpa only [hf, readLost] using readClear_cnsStatus h
  · simpa only [hf, readLost] using readClear_cnsStatus h

end Sys2Proof.Machine
end

section
/-! SUPPORT. The rows of the operating model (01_operating_model.md) that a command begins: POWER_CAP, WING_POLICY, SUBMIT, CANCEL, QUERY. -/

namespace Sys2Proof.Machine

open Sys2Proof.Safety Sys2Proof.Bytes

/-! ## The policy and the cap (R9, R154, R172) -/

theorem exec_powerCap (ring : Fin 8) (s : State) : exec (.powerCap ring) s = execPowerCap ring s := rfl

theorem exec_wingPolicy (ring : Fin 8) (s : State) : exec (.wingPolicy ring) s = execWingPolicy ring s := rfl

/-- The test for a catalogue that is committed, waits or is staged, as WING_POLICY makes it. -/
theorem not_noCatalogue {u : State} {w : Nat} (h : u.hasCatalogue w = true ∨ (u.wingAt w).commitNext ≠ none ∨ (u.wingAt w).staging ≠ []) :
    (!u.hasCatalogue w && (u.wingAt w).commitNext.isNone && (u.wingAt w).staging.isEmpty) = false := by
  rcases h with h | h | h <;> simp [h]

/-- Settles O16: both commands pass their checks, so each is its body; WING_POLICY's three tests pass by hypothesis. -/
theorem policyAndCapComeIntoForce : Obligations.PolicyAndCapComeIntoForce := by
  unfold Obligations.PolicyAndCapComeIntoForce
  constructor
  · intro ring s u c h cap pkg
    rw [exec_powerCap, execPowerCap, clearCommand_clear h]
    simp only [Bool.not_eq_true']
    rfl
  · intro ring s u c h w p hcat hfix hinf
    have hshape : (p.fixed && !(u.wingAt w).fixedOk w (u.wingAt w).composeSection p) = false := by simpa using hfix
    rw [exec_wingPolicy, execWingPolicy, clearCommand_clear h]
    simp only [w, p] at hcat hshape hinf ⊢
    rw [not_noCatalogue hcat, hshape, hinf]
    rfl

/-! ## SUBMIT (R15, R39, R161, R169) -/

section
variable {ring : Fin 8} {s u : State} {c : Cmd} {o : Opened} {r : Req}

/-- A SUBMIT that opens is its body, answered, with the counter told to the partner. -/
theorem exec_submit_of_sealed (h : Sealed 0x20 submitLayout submitEnvelope (fun _ => true) ring s c o u) :
    exec (.submit ring) s = .next ((answeredSealed s c u (submitBody c o u)).tellCounter s (s.headerAt ring.val).gallery) := by
  change execSubmit ring s = _
  rw [execSubmit, sealedCommand_sealed h]

/-- What the admission tests ask for a request read from a SUBMIT. -/
def submitAsk (c : Cmd) (r : Req) : Ask :=
  let blk := slice c.payload 0 48
  { gallery := c.gallery, cls := r.cls, kind := r.kind, build := r.modelBuild, sampling := r.sampling, itl := r.itlUs
    ttft := field blk 24 4, completion := field blk 32 4, maxTokens := r.maxTokens
    bound := field blk 16 4, owed := prefillLength r.kind (field blk 16 4) }

/-- The outcome of the admission tests of a SUBMIT (R161). -/
def State.submitAdmission (u : State) (c : Cmd) (r : Req) : Admission :=
  u.admission (submitAsk c r) admitOrder (u.wingSet c.gallery (field (slice c.payload 0 48) 14 1))

/-- The request of a SUBMIT accessioned into a slot of a wing (R15, R16). -/
def State.submitAccession (u : State) (c : Cmd) (o : Opened) (r : Req) (slot w : Nat) : State × Nat :=
  u.accession r slot w (field (slice c.payload 0 48) 24 4) (field (slice c.payload 0 48) 32 4) o.ctr (slice o.plain 16 32) (u.askNeed w (submitAsk c r))

variable (hr : u.parseSubmit c.gallery (slice c.payload 0 48) o.plain = some r)
include hr

theorem submitBody_of_method_unserved (hm : u.methodOk r.kind r.sampling r.speculative = false) :
    submitBody c o u = u.submitRefused c.gallery stMethodUnsupported 0 [] := by
  simp [submitBody, hr, hm]

theorem submitBody_of_admission_fail {n w us : Nat} (hm : u.methodOk r.kind r.sampling r.speculative = true)
    (ha : u.submitAdmission c r = .fail n w us) :
    submitBody c o u = u.submitRefused c.gallery (admitStatus n).1 (admitStatus n).2 (u.diagnostic (submitAsk c r) (admitStatus n).2 w us) := by
  unfold State.submitAdmission submitAsk at ha
  simp [submitBody, submitAsk, hr, hm, ha]

theorem submitBody_of_admission_pass {ws : List Nat} {slot : Nat} (hm : u.methodOk r.kind r.sampling r.speculative = true)
    (ha : u.submitAdmission c r = .pass ws) (hs : u.freeSlotNo = some slot) :
    submitBody c o u =
      let w := u.chooseWing (submitAsk c r) ws
      let p := u.submitAccession c o r slot w
      { state := p.1, data := ofLe 4 p.2 ++ ofLe 1 0 ++ ofLe 1 w ++ ofLe 10 0, waits := p.1.submitWaits p.2 w } := by
  unfold State.submitAdmission submitAsk at ha
  simp [submitBody, State.submitAccession, submitAsk, hr, hm, ha, hs]

end

/-- Settles O17: the body of SUBMIT by the outcome of its method test and of its admission tests. -/
theorem submitAccessionsARequest : Obligations.SubmitAccessionsARequest := by
  unfold Obligations.SubmitAccessionsARequest
  intro ring s u c o r h blk hr a ans
  have hx : exec (.submit ring) s = .next (ans (submitBody c o u)) := exec_submit_of_sealed h
  refine ⟨fun hm => ?_, fun hm n w us ha => ?_, fun hm ws slot ha hs => ?_⟩
  · rw [hx, submitBody_of_method_unserved hr hm]
  · rw [hx, submitBody_of_admission_fail hr hm ha]
    rfl
  · refine ⟨(u.submitAccession c o r slot (u.chooseWing a ws)).1, ?_, rfl⟩
    rw [hx, submitBody_of_admission_pass hr hm ha hs]
    rfl

/-! ## A deaccession asked for while a row is in flight (R22, R23) -/

/-- The request keeps the reason, and from the first reason on the tick in which it was asked for. -/
theorem State.askDeaccession_of_holdsRow {s : State} {acc : Nat} {r : Req} (reason : Nat) (hr : s.req? acc = some r)
    (hlive : r.state ≠ .deaccessioned) (hrow : s.holdsRow r = true) :
    s.askDeaccession acc reason = s.updReq acc fun x => { x with
      pendingReason := firstReason x.pendingReason reason, pendingAt := if x.pendingReason = 0 then s.kpr.ktime else x.pendingAt } := by
  simp [State.askDeaccession, hr, hlive, hrow]

/-- The tick in which the deaccession that is kept for a request was asked for. -/
def State.askedAt (s : State) (acc : Nat) : Option W64 := (s.req? acc).map fun r => r.pendingAt

/-- Request 5 in slot 5 of wing 0, for which no deaccession has been asked. -/
def inFlightReq : Req := { acc := 5 }

/-- Tick 1, with a row of request 5 in wing 0's running step. -/
def inFlight : State :=
  { kpr := { ktime := 1 }
    reg := { reqs := [(5, inFlightReq)] }
    wings := [(0, { running := some { rows := [{ acc := 5, type := 1 }] } })] }

/-- Refutes O18: the request also keeps the tick in which the deaccession was first asked for (`pendingAt`), which the third clause leaves as it was.
A CANCEL in tick 1 of a request with a row in flight sets it to 1, and the statement's state has 0. -/
theorem not_cancelQueryAndDeaccession : ¬ Obligations.CancelQueryAndDeaccession := by
  unfold Obligations.CancelQueryAndDeaccession
  rintro ⟨-, hask⟩
  have hreq : inFlight.req? 5 = some inFlightReq := by decide +kernel
  have hlive : inFlightReq.state ≠ .deaccessioned := by decide
  have hrow : inFlight.holdsRow inFlightReq = true := by decide +kernel
  have heq := congrArg (State.askedAt · 5) ((hask inFlight 5 4 inFlightReq hreq hlive).1 hrow)
  rw [State.askDeaccession_of_holdsRow 4 hreq hlive hrow] at heq
  exact absurd heq (by decide +kernel)

end Sys2Proof.Machine
end

section
/-! SUPPORT. The rows by which a wing composes, issues, begins and ends a step, each as one equation of a living machine or one per case. -/

namespace Sys2Proof.Machine

open Sys2Proof.Bytes

/-! ## Compose points (R8, R13, R208) -/

section
variable {w : Fin 4} {s : State}

theorem exec_composePoint (hd : s.dead = false) :
    exec (.composePoint w) s =
      .next (if s.composeDue w.val then (s.updWing w.val fun y => { y with composeAt := none }).compose w.val else s) := by
  change execComposePoint w s = _
  simp [execComposePoint, hd]

/-- A compose point that is reached on a wing that may compose is due unless the running step is discarded. -/
theorem State.composeDue_of_reached {i : Nat} {t : W64} {run : Step} (ht : (s.wingAt i).composeAt = some t) (hr : (s.wingAt i).running = some run)
    (hreached : t.toNat ≤ s.now) (harmed : (s.wingAt i).armedAt.toNat < s.now) (hmay : s.mayCompose i = true) :
    s.composeDue i = decide (run.discarded = 0) := by
  simp [State.composeDue, Wing.fires, ht, hr, hreached, harmed, hmay]

/-- An idle wing with work composes if it may; if it may not, it wakes a Curator that sleeps (R13, R205). -/
theorem exec_idleCompose (hd : s.dead = false) (hrun : (s.wingAt w.val).running = none) (hpend : (s.wingAt w.val).pending = none)
    (hcomp : (s.wingAt w.val).composed = none) (hready : s.kpr.ready = true) (hserved : s.served w.val = true) (hfrozen : s.frozen w.val = false)
    (hstop : (s.wingAt w.val).stopped = false) (happlied : s.rings.appliedAt ≠ some s.kpr.ktime)
    (hwork : (s.wingAt w.val).fixedEntry ≠ none ∨ s.readyWork w.val ≠ []) :
    exec (.idleCompose w) s = .next (if s.mayCompose w.val then s.compose w.val else if s.active .curator then s else s.wake [.curator]) := by
  have hwork : ((s.wingAt w.val).fixedEntry.isSome || !(s.readyWork w.val).isEmpty) = true := by
    simpa [Option.ne_none_iff_isSome] using hwork
  change execIdleCompose w s = _
  simp [execIdleCompose, hd, hrun, hpend, hcomp, hready, hserved, hfrozen, hstop, happlied, hwork]

/-! ## Issue and replay (R158, R173, R224, R225, R378) -/

/-- Bit 31 of the event's argument marks a replay. -/
theorem b2n_mul (b : Bool) (n : Nat) : b2n b * n = if b then n else 0 := by
  cases b <;> simp [b2n]

theorem exec_descriptor {t : Step} (hd : s.dead = false) (hhalt : s.kpr.halted = false) (hstop : (s.wingAt w.val).stopped = false)
    (hpend : (s.wingAt w.val).pending = none) (ht : (s.wingAt w.val).composed = some t) (hlow : s.resetLow = false)
    (hgap : t.gap = 0 ∨ t.planned ≤ s.now + 1) (hwrites : s.writesDone w.val t = true) (hkeys : s.keysDone w.val = true) :
    exec (.descriptor w) s = .next ((((s.updWing w.val fun y => { y with composed := none, pending := some t }).emit
      (.descriptor w.val (s.descriptorBeats w.val t))).event 3 0x20 w.val t.tag.toNat (t.shape.shapeId + b2n t.replay * 2 ^ 31))) := by
  have hdue : (decide (t.gap = 0) || decide (t.planned ≤ s.now + 1)) = true := by simpa using hgap
  change execDescriptor w s = _
  simp [execDescriptor, hd, hhalt, hstop, hpend, ht, hlow, hdue, hwrites, hkeys]

/-- The step that replays a discarded one: its rows and chunks under the wing's next tag (R378). -/
def State.replayStep (s : State) (i : Nat) (d : Step) : Step :=
  { tag := (s.wingAt i).nextTag, shape := d.shape, index := d.index, composeKtime := d.composeKtime, rows := d.rows
    chunks := d.chunks, replay := true, replayTag := some d.tag, fixed := d.fixed, gap := s.gapTo i d.shape
    planned := s.plannedStart i d.shape, replays := d.replays + 1, throttled := s.throttled }

/-- The wing with the replay composed and its noise keys asked for (R224, R378). -/
def State.replayComposed (s : State) (i : Nat) (d : Step) : State :=
  (s.noiseKeys i (s.wingAt i).lastRows d.rows).updWing i fun y => { y with
    replayOf := none, composed := some (s.replayStep i d), nextTag := y.nextTag + 1, lastRows := rowHolders d.rows }

theorem exec_replay {d : Step} (hd : s.dead = false) (hhalt : s.kpr.halted = false) (hstop : (s.wingAt w.val).stopped = false)
    (hpend : (s.wingAt w.val).pending = none) (hof : (s.wingAt w.val).replayOf = some d) (hready : s.kpr.ready = true)
    (hcur : s.active .curator = true) (hcomp : (s.wingAt w.val).composed = none) (hpower : d.fixed = true ∨ s.powerOk w.val d.shape = true) :
    exec (.replay w) s = .next ((((s.replayComposed w.val d).enterStep w.val (s.replayStep w.val d) false false [] []).count
      (1 + w.val) 2 1).ledgerAdd (ledgerWing w.val 2) 1) := by
  change execReplay w s = _
  simp [execReplay, hd, hhalt, hstop, hpend, hof, hready, hcur, hcomp, hpower, State.replayComposed, State.replayStep]

end

/-- Settles O40: each row fires by its conditions; a compose point that is reached turns on the running step's discard alone. -/
theorem wingsComposeAndIssue : Obligations.WingsComposeAndIssue := by
  unfold Obligations.WingsComposeAndIssue
  refine ⟨fun w s hd => ⟨fun t run ht hr hreached harmed hmay => ?_, exec_idleCompose hd⟩,
    fun w s hd hhalt hstop hpend => ⟨fun t ht hlow hgap hwrites hkeys => ?_, fun d hof hready hcur hcomp hpower => ?_⟩⟩
  · rw [exec_composePoint hd, State.composeDue_of_reached ht hr hreached harmed hmay]
    simp only [decide_eq_true_eq]
  · rw [exec_descriptor hd hhalt hstop hpend ht hlow hgap hwrites hkeys, b2n_mul]
  · exact exec_replay hd hhalt hstop hpend hof hready hcur hcomp hpower

/-! ## A step begins and ends (R48, R49, R71, R188) -/

section
variable {w : Fin 4} {s : State}

/-- The wing with its pending step running from this tick on and its timers armed (R71). -/
def State.stepBegun (s : State) (i : Nat) (t : Step) : State :=
  s.updWing i fun y =>
    ({ y with pending := none, running := some { t with started := some s.kpr.ktime } }).armTimers { t with started := some s.kpr.ktime } s.now

theorem exec_stepStart_of_pending {tag : W16} {t : Step} (hd : s.dead = false) (hpend : (s.wingAt w.val).pending = some t)
    (hrun : (s.wingAt w.val).running = none) (htag : t.tag = tag) (hthr : s.throttled = false) :
    exec (.stepStart w tag) s = .next ((((if t.sectionNew then (s.stepBegun w.val t).flip w.val else s.stepBegun w.val t).updWing w.val
      fun y => y.takePolicy t).event 3 0x21 w.val tag.toNat t.shape.shapeId).count (1 + w.val) 1 1) := by
  change execStepStart w tag s = _
  simp [execStepStart, hd, hpend, hrun, htag, hthr, State.stepBegun]

/-- A STEP_START that begins no step is a reserved event (R50). -/
theorem exec_stepStart_of_not_pending {tag : W16} (hd : s.dead = false)
    (h : ∀ t, (s.wingAt w.val).pending = some t → (s.wingAt w.val).running = none → t.tag ≠ tag) :
    exec (.stepStart w tag) s = .next (s.event 3 0x25 w.val tag.toNat (eventHigh 1 tag)) := by
  change execStepStart w tag s = _
  unfold execStepStart
  rw [if_neg (Bool.eq_false_iff.mp hd)]
  dsimp only
  split
  case h_1 t hpend hrun => rw [if_pos (h t hpend hrun)]; rfl
  case h_2 => rfl

theorem exec_stepEnd_of_running {tag : W16} {t : Step} (hd : s.dead = false) (hrun : (s.wingAt w.val).running = some t) (htag : t.tag = tag) :
    exec (.stepEnd w tag) s = .next (s.endStep w.val t) := by
  change execStepEnd w tag s = _
  simp [execStepEnd, hd, hrun, htag]

/-- A STEP_END with another tag than the running step's turns on whether a step of the tag has begun (R49, R50). -/
theorem exec_stepEnd_of_not_running {tag : W16} (hd : s.dead = false) (h : ∀ t, (s.wingAt w.val).running = some t → t.tag ≠ tag) :
    exec (.stepEnd w tag) s =
      .next (if ((s.wingAt w.val).begun tag).isSome then s else s.event 3 0x25 w.val tag.toNat (eventHigh 2 tag)) := by
  change execStepEnd w tag s = _
  unfold execStepEnd
  rw [if_neg (Bool.eq_false_iff.mp hd), apply_ite Host.Outcome.next]
  dsimp only
  split
  case h_1 t hrun => rw [if_neg (h t hrun)]; rfl
  case h_2 => rfl

end

/-- Settles O41: STEP_START by the pending descriptor, STEP_END by the running step, then by the tags known to have begun. -/
theorem stepsStartAndEnd : Obligations.StepsStartAndEnd := by
  unfold Obligations.StepsStartAndEnd
  intro w tag s hd
  refine ⟨fun t hpend hrun htag hthr => exec_stepStart_of_pending hd hpend hrun htag hthr, exec_stepStart_of_not_pending hd,
    fun t hrun htag => exec_stepEnd_of_running hd hrun htag, fun hnot hbegun => ?_, fun hnot hbegun => ?_⟩
  · rw [exec_stepEnd_of_not_running hd hnot, if_pos (Option.isSome_iff_ne_none.mpr hbegun)]
  · rw [exec_stepEnd_of_not_running hd hnot, hbegun]
    rfl

end Sys2Proof.Machine
end

section
/-! SUPPORT. The rows of the token path: a unit merged, dispatched and sampled, a row committed, a record sealed and released, a result read, a feed stream sent. -/

namespace Sys2Proof.Machine

open Sys2Proof.Bytes

/-! ## A unit is merged (R237, R240, R250, R253) -/

section
variable {s : State}

/-- The state with the front of the merge queue in a tree, its unit marked as read. -/
def State.unitTaken (s : State) (tree : Nat) (u : MUnit) (rest : List MUnit) (held : TreeSt) : State :=
  let v := State.updStep { s with path := { s.path with mergeQueue := rest } } u.wing u.tag fun y => { y with read := unitKey u.row u.slot :: y.read }
  { v with path := { v.path with trees := SMap.put v.path.trees tree held } }

/-- What a tree holds of a unit of a window: the merge's result and the time it takes (R253). -/
def State.treeHeld (s : State) (t : Step) (tree : Nat) (u : MUnit) (win : Window) : TreeSt :=
  { unit := u, takenAt := s.kpr.ktime, bound := treeBound (s.unitRecords t u.row u.slot win) (s.mergeUnit t tree u win).km
    result := s.mergeUnit t tree u win }

theorem exec_treeTake {tree : Nat} {u : MUnit} {rest : List MUnit} {t : Step} {win : Window} (hd : s.dead = false)
    (hq : s.path.mergeQueue = u :: rest) (htree : tree < s.kpr.caps.trees) (hfree : SMap.find s.path.trees tree = none)
    (hbuf : s.path.buffered s.now tree < 2) (hcip : s.cipReady = true) (ht : s.unitStep u.wing u.tag = some t)
    (hw : windowOf t.shape u.row = some win) (hdup : (s.mergeUnit t tree u win).dup = false) :
    exec (.treeTake tree) s = .next (s.unitTaken tree u rest (s.treeHeld t tree u win)) := by
  change execTreeTake tree s = _
  simp [execTreeTake, hd, hq, Nat.not_le.mpr htree, hfree, Nat.not_le.mpr hbuf, hcip, ht, hw, hdup, State.unitTaken, State.treeHeld]

/-- A result of a step that still counts goes to the dispatch queue (R259). -/
theorem exec_mergeResult {tree : Nat} {ts : TreeSt} {t : Step} (hd : s.dead = false) (hts : SMap.find s.path.trees tree = some ts)
    (ht : s.unitStep ts.result.wing ts.result.tag = some t) (hlive : t.discarded = 0) (hdup : ts.result.dup = false)
    (hties : ts.result.tiesCut = 0) :
    let u := ({ s with path := { s.path with trees := SMap.drop s.path.trees tree } }).count 9 1 ((s.now - ts.takenAt.toNat) * 36)
    exec (.mergeResult tree) s = .next { u with path := { u.path with dispatch := handOver s.path.dispatch { ts.result with madeAt := s.kpr.ktime } } } := by
  change execMergeResult tree s = _
  simp [execMergeResult, hd, hts, ht, hlive, hdup, hties]

end

/-! ## A unit is sampled (R259, R265, R266) -/

section
variable {s : State}

/-- A lane is the lowest that is idle where it is idle and every lower one is taken. -/
theorem State.lowestIdle_of {lane : Nat} (hfree : SMap.find s.path.lanes lane = none) (hlow : ∀ l, l < lane → SMap.find s.path.lanes l ≠ none) :
    s.lowestIdle lane = true := by
  simpa [State.lowestIdle, hfree, ← Option.ne_none_iff_isSome] using hlow

theorem exec_laneDispatch {lane : Nat} {r : MergeRes} {rest : List MergeRes} (hd : s.dead = false) (hq : s.path.dispatch = r :: rest)
    (hlane : lane < s.kpr.caps.lanes) (hidle : s.lowestIdle lane = true) (hdoc : s.active .docent = true) (hhalt : s.kpr.halted = false) :
    exec (.laneDispatch lane) s = .next (({ s with path := { s.path with
      dispatch := rest, lanes := SMap.put s.path.lanes lane { result := r, takenAt := s.kpr.ktime } } }).count 9 3 ((s.now - r.madeAt.toNat) * 36)) := by
  change execLaneDispatch lane s = _
  simp [execLaneDispatch, hd, hq, Nat.not_le.mpr hlane, hidle, hdoc, hhalt]

/-- The outcome that a lane's sampling gives, by its row's parameters and key (R265, R266). -/
def LaneSt.outcome (l : LaneSt) (t : Step) : UnitOut :=
  let a := nth t.rows l.result.row {}
  sampleUnit a.sampling a.key (a.inputPos + 1 + l.result.slot) l.result

theorem exec_unitSampled {lane : Nat} {l : LaneSt} {t : Step} (hd : s.dead = false) (hl : SMap.find s.path.lanes lane = some l)
    (ht : s.unitStep l.result.wing l.result.tag = some t) (hlive : t.discarded = 0)
    (hnoise : noiseMismatch (nth t.rows l.result.row {}).sampling l.result = false) (hout : l.outcome t ≠ .noCandidate) :
    exec (.unitSampled lane) s = .next ((State.count { s with path := { s.path with lanes := SMap.drop s.path.lanes lane } }
      9 2 ((s.now - l.takenAt.toNat) * 36)).updStep l.result.wing l.result.tag fun y => { y with
        units := SMap.put y.units (unitKey l.result.row l.result.slot) (l.outcome t) }) := by
  simp only [LaneSt.outcome] at hout ⊢
  change execUnitSampled lane s = _
  simp only [execUnitSampled, hd, hl, ht, hlive, hnoise, hout, ne_eq, not_true_eq_false, Bool.false_eq_true, if_false]

end

/-! ## A row commits (R18, R269, R270) -/

section
variable {s : State} {w : Fin 4} {row : Nat} {t : Step} {a : RowAsg} (hd : s.dead = false) (hrow : s.commitRow? w.val row = some (t, a))
include hd hrow

theorem exec_rowCommit_of_gone (hreq : s.req? a.acc = none) :
    exec (.rowCommit w row) s = .next ((s.updStep w.val t.tag fun y => { y with committed := row :: y.committed }).settle w.val) := by
  change execRowCommit w row s = _
  simp [execRowCommit, hd, hrow, hreq]

theorem exec_rowCommit_of_result {r : Req} (hreq : s.req? a.acc = some r) (hkind : r.kind ≠ 0) :
    exec (.rowCommit w row) s = .next (s.commitResult t a r) := by
  change execRowCommit w row s = _
  simp [execRowCommit, hd, hrow, hreq, hkind]

/-- The job by which a token row commits its run: the accepted drafts and the token behind them (R269, R270). -/
def State.rowJob (w row : Nat) (t : Step) (a : RowAsg) (r : Req) : CommitJob :=
  let run := runOf a.drafts ((List.range (a.drafts.length + 1)).map fun d => SMap.getD t.units (unitKey row d) .discarded)
  { wing := w, tag := t.tag, row := row, acc := a.acc, todo := run.1, noCandidate := run.2
    stopTokens := a.sampling.stopTokens, maxTokens := a.maxTokens
    words := a.draftWords.take (acceptedDrafts run.1 a.drafts), firstPos := reqPosition r, runPos := reqPosition r, replayed := t.replay }

theorem exec_rowCommit_of_tokens {r : Req} (hreq : s.req? a.acc = some r) (hkind : r.kind = 0) :
    exec (.rowCommit w row) s =
      .next (State.nextToken { s with path := { s.path with jobs := s.path.jobs ++ [State.rowJob w.val row t a r] } } a.acc) := by
  change execRowCommit w row s = _
  simp [execRowCommit, hd, hrow, hreq, hkind, State.rowJob]

end

/-- Settles O44: each row of the path by its unit, and ROW_COMMIT by what the row's request is. -/
theorem unitsMergeSampleAndCommit : Obligations.UnitsMergeSampleAndCommit := by
  unfold Obligations.UnitsMergeSampleAndCommit
  refine ⟨⟨fun tree s u rest t win hd hq htree hfree hbuf hcip ht hw hdup => ?_, fun tree s ts t => exec_mergeResult, fun lane s r rest hd hq hlane hfree hlow => ?_,
    fun lane s l t hd hl ht hlive => exec_unitSampled hd hl ht hlive⟩, fun w row s t a hd hrow => ⟨exec_rowCommit_of_gone hd hrow, fun r hreq => ⟨?_, ?_⟩⟩⟩
  · exact ⟨_, exec_treeTake hd hq htree hfree hbuf hcip ht hw hdup, rfl, (SMap.find_put ..).trans (if_pos rfl), rfl⟩
  · exact exec_laneDispatch hd hq hlane (State.lowestIdle_of hfree hlow)
  · exact exec_rowCommit_of_result hd hrow hreq
  · exact exec_rowCommit_of_tokens hd hrow hreq

/-! ## Records are sealed and released (R303, R309, R312, R359) -/

section
variable {s : State}

theorem exec_recordSeal {acc : W32} {o : OutRec} {os : List OutRec} (hd : s.dead = false)
    (hdue : (s.path.records.filter fun o => decide (o.acc = acc.toNat) && !o.sealed && decide (o.madeAt.toNat < s.now)) = o :: os) :
    exec (.recordSeal acc) s = .next (
      let u := (o :: os).foldl State.sealRecord s
      if u.statusRead o.wing then u else u.sendCommit acc.toNat) := by
  change execRecordSeal acc s = _
  unfold execRecordSeal
  rw [if_neg (Bool.eq_false_iff.mp hd)]
  dsimp only
  rw [hdue]

theorem exec_recordRelease (acc : W32) (hd : s.dead = false) :
    exec (.recordRelease acc) s = .next ((s.recordsOf acc.toNat).foldl
      (fun t o => if t.mayRelease o = true ∧ t.awaitsTurn o = false then t.releaseOne o (t.heldBefore o) else t) s) := by
  change execRecordRelease acc s = _
  simp [execRecordRelease, hd]

theorem exec_releaseTick {w : Fin 4} {t : Step} (hd : s.dead = false) (hdue : s.releaseDue w.val = some t) :
    exec (.releaseTick w) s = .next ((List.range t.shape.rows).foldl (fun u r => u.rowTurn w.val t r)
      (s.updStep w.val t.tag fun y => { y with releaseDone := true })) := by
  change execReleaseTick w s = _
  simp [execReleaseTick, hd, hdue]

end

/-! ## Results (R18, R155) -/

section
variable {s : State} {acc : W32} {j : ResultJob} {r : Req} (hd : s.dead = false) (hj : SMap.find s.path.results acc.toNat = some j)
  (hreq : s.req? acc.toNat = some r) (hread : j.reading = false) (hrecs : (s.path.records.any fun o => decide (o.acc = acc.toNat)) = false)
include hd hj hreq hread hrecs

theorem exec_resultGroup_of_no_length (hlen : j.length = none) : exec (.resultGroup acc) s = .next (s.readResult r j) := by
  change execResultGroup acc s = _
  simp [execResultGroup, hd, hj, hreq, hread, hrecs, hlen]

/-- A result without bytes ends with its final record. -/
theorem exec_resultGroup_of_empty (hlen : j.length = some 0) :
    exec (.resultGroup acc) s = .next (State.tokenlessFinal
      { s with path := { s.path with results := SMap.drop s.path.results acc.toNat } } acc.toNat r.reason) := by
  change execResultGroup acc s = _
  simp [execResultGroup, hd, hj, hreq, hread, hrecs, hlen]

theorem exec_resultGroup_of_bytes {n : Nat} (hlen : j.length = some n) (hn : n ≠ 0)
    (hroom : s.ringRoom r.gallery (1 + ceilDiv j.groupLength 64) = true) :
    exec (.resultGroup acc) s = .next (if j.buf.length < j.groupLength then s.readResult r j else s.sealResult r j) := by
  change execResultGroup acc s = _
  simp [execResultGroup, hd, hj, hreq, hread, hrecs, hlen, hn, hroom, apply_ite Host.Outcome.next]

end

/-! ## Feed streams (R53, R54, R313, R315) -/

/-- The state with the words of a step's rows prepared where they are final. -/
def State.rowsPrepared (s : State) (i : Nat) (t : Step) : State := t.rows.foldl (fun u a => u.prepareRow i t.tag a) s

section
variable {s : State} {w : Fin 4} {t t1 : Step} (hd : s.dead = false) (ht : (s.wingAt w.val).feedStep = some t)
  (ht1 : ((s.rowsPrepared w.val t).wingAt w.val).feedStep = some t1)
include hd ht ht1

theorem exec_feedStream_of_open (hhalt : (s.rowsPrepared w.val t).kpr.halted = false)
    (hgate : ((s.rowsPrepared w.val t).wingAt w.val).feedGate = none ∨ ((s.rowsPrepared w.val t).wingAt w.val).feedGate = some t1.tag)
    (hwords : t1.fedWhole = true ∨ t1.fedBeats < t1.finalBeats) :
    exec (.feedStream w) s = .next ((s.rowsPrepared w.val t).sendFeed w.val t1) := by
  unfold State.rowsPrepared at ht1 hhalt hgate ⊢
  change execFeedStream w s = _
  simp [execFeedStream, hd, ht, ht1, hhalt, hgate, hwords]

theorem exec_feedStream_of_shut {g : W16} (hgate : ((s.rowsPrepared w.val t).wingAt w.val).feedGate = some g) (hg : g ≠ t1.tag) :
    exec (.feedStream w) s = .next (s.rowsPrepared w.val t) := by
  unfold State.rowsPrepared at ht1 hgate ⊢
  change execFeedStream w s = _
  simp [execFeedStream, hd, ht, ht1, hgate, hg]

end

/-- A port's output leaves the wings. -/
theorem State.wingAt_emit (s : State) (o : PortOut) (i : Nat) : (s.emit o).wingAt i = s.wingAt i := rfl

/-- The stream sent shuts the wing's gate to its step (R54). -/
theorem State.sendFeed_feedGate (s : State) (i : Nat) (t : Step) : ((s.sendFeed i t).wingAt i).feedGate = some t.tag := by
  simp only [State.sendFeed, State.wingAt_emit, State.wingAt_updWing, if_true]

/-- Settles O46: the rows of records and results case by case, the feed stream by its gate. -/
theorem recordsAndFeedStreams : Obligations.RecordsAndFeedStreams := by
  unfold Obligations.RecordsAndFeedStreams
  refine ⟨⟨fun acc s o os => exec_recordSeal, fun acc s => exec_recordRelease acc, fun w s t => exec_releaseTick, fun acc s j r hd hj hreq hread hrecs => ?_⟩,
    fun w s t t1 hd ht => ?_, fun s i t => ⟨State.sendFeed_feedGate s i t, rfl, rfl⟩⟩
  · have hrecs : (s.path.records.any fun o => decide (o.acc = acc.toNat)) = false := by simpa using hrecs
    exact ⟨exec_resultGroup_of_no_length hd hj hreq hread hrecs, exec_resultGroup_of_empty hd hj hreq hread hrecs,
      fun n => exec_resultGroup_of_bytes hd hj hreq hread hrecs⟩
  · intro u ht1 hhalt
    exact ⟨exec_feedStream_of_open hd ht ht1 hhalt, fun ⟨g, hgate, hg⟩ => exec_feedStream_of_shut hd ht ht1 hgate hg⟩

end Sys2Proof.Machine
end

section
/-! SUPPORT. The command table as a whole: each of its 178 rows answers a next state, in every state, and leaves the queue (R34, R68, R100). -/

namespace Sys2Proof.Machine

/-! ## Every command answers a next state -/

/-- The outcome is a next state. -/
def AnswersNext (r : Host.Outcome State Fault Refusal) : Prop := ∃ t, r = .next t

theorem AnswersNext.next (t : State) : AnswersNext (.next t) := ⟨t, rfl⟩

theorem AnswersNext.ite {p : Prop} [Decidable p] {a b : Host.Outcome State Fault Refusal} (ha : AnswersNext a) (hb : AnswersNext b) :
    AnswersNext (if p then a else b) := by
  split
  · exact ha
  · exact hb

/-- Every leaf of every meaning is a next state: of the meanings that act without a test, of those with one, two or three tests, and of those that also go by what they find. -/
theorem exec_answersNext (c : Instr) (s : State) : AnswersNext (exec c s) := by
  cases c with
  | nop | identityStatus | getCertificate | getProvenance | galleryOpen | galleryClose | galleryBudget | galleryRekey | aidBegin
  | aidStates | aidMasks | aidTransitions | aidFinal | aidFree | galleryReport | galleryInfo | submit | cancel | amend | query | draft
  | catStage | catCommit | catArchive | wingPolicy | powerCap | shapeStateRead | shapeStateRelease | shapeStateDisable | pairJoin
  | pairYield | pairStatus | pairResync | pairLeave | maintStatus | scrubWake | ledgerCheckpoint | fwStage | fwActivate | retireRow
  | ledgerRead | snapshot | counterReset | daybookCtrl | freeze | thaw | serviceChallenge | serviceUnlock | serviceLock | capsuleWrite
  | doorbell | dblRplCi | ringPairReset | dblResCi | ringReset | cnsCi | dbkCi | readClear | domainSoftReset | hardHalt | irqMaskWrite
  | post | mbxAck | mbxEpoch | lockAcquire | lockRelease | lowWordRead | highWordRead | registerWrite | telemetry | fenceConfirmed
  | fenceDenied | powerOnReset | blockReset | fenceReset | grvLinkUp | fenceTimeout | grvTime | grvRec | grvAck | grvGallery | grvCatalogue
  | grvCounter | grvBulk | grvHandback | grvLeave | ackTimer | resend | composeOverrun | wsBypass | wsExtest | wsIntestScan | wsMbist
  | wsStatus | badOpcode | accessRefused | hifAccessWake =>
    exact .next _
  | ringPairResetComplete | ringResetComplete | resetRelease | pufCheck | bootImage | bootCapsule | eccRegions | bootCatalogue
  | imageRequestRetry | fclkAckRise | fclkAckFall | pswAckRise | pswAckFall | domainPowerDown | composePoint | recordRelease | farListScan
  | throttleEnd | heartbeatTx | grvHeartbeat | grvFailure | scrubCodeword | lapLate | lockstep =>
    exact .ite (.next _) (.next _)
  | candidateBurst | shardHeader | adoption | galleryCloseComplete | freezeComplete | scrubWakeDone | periodicCheckpoint | copyCleared
  | idleCompose | eventReserved =>
    exact .ite (.next _) (.ite (.next _) (.next _))
  | grvHello => exact .ite (.next _) (.ite (.next _) (.ite (.next _) (.next _)))
  | irqAck | recoveryChunk | journalTimeout | recoveryProgrammed | preWake | composeWake | descriptor | replay | stepStart | stepEnd
  | feedTaken | energy | errorUe | hung | windowOpen | windowClose | treeTake | rowAreaFree | mergeResult | laneDispatch | unitSampled
  | rowCommit | smpResponse | kybAck | recordSeal | releaseTick | resultGroup | feedStream | tailOverrun | deadlineFired | grvEcho
  | grvYield | heartbeatTimeout | helloTimeout | grvImage | mirrorLate | checkpointComplete | rowRetired | catArchiveDone
  | capsuleProgrammed | firmwareActivationDone | snapshotTick | snapshotTaken | challengeExpiry | treeOverrun | laneOverrun =>
    dsimp only [exec, execIrqAck, execRecoveryChunk, execJournalTimeout, execRecoveryProgrammed, execPreWake, execComposeWake, execDescriptor, execReplay,
      execStepStart, execStepEnd, execFeedTaken, execEnergy, execErrorUe, execHung, execWindowOpen, execWindowClose, execTreeTake,
      execRowAreaFree, execMergeResult, execLaneDispatch, execUnitSampled, execRowCommit, execSmpResponse, execKybAck, execRecordSeal,
      execReleaseTick, execResultGroup, execFeedStream, execTailOverrun, execDeadlineFired, execGrvEcho, execGrvYield, execHeartbeatTimeout,
      execHelloTimeout, execGrvImage, execMirrorLate, execCheckpointComplete, execRowRetired, execCatArchiveDone, execCapsuleProgrammed,
      execFirmwareActivationDone, execSnapshotTick, execSnapshotTaken, execChallengeExpiry, execTreeOverrun, execLaneOverrun]
    repeat' first
      | exact .next _
      | split

/-! ## Every command leaves the queue -/

/-- What every command but an unlock of the service and the rise of a reset pin keeps: the queue, canonical memory, KTIME, and an unlock not in force. -/
theorem exec_kept (s : State) {c : Instr} (hu : ∀ ring, c ≠ .serviceUnlock ring) (hr : ∀ pin, c ≠ .resetRelease pin) :
    KeptOut s (exec c s) := by
  cases c with
  | nop ring => exact execNop_kept ring s (Kept.refl s)
  | identityStatus ring => exact execIdentityStatus_kept ring s (Kept.refl s)
  | getCertificate ring => exact execGetCertificate_kept ring s (Kept.refl s)
  | getProvenance ring => exact execGetProvenance_kept ring s (Kept.refl s)
  | galleryOpen ring => exact execGalleryOpen_kept ring s (Kept.refl s)
  | galleryClose ring => exact execGalleryClose_kept ring s (Kept.refl s)
  | galleryBudget ring => exact execGalleryBudget_kept ring s (Kept.refl s)
  | galleryRekey ring => exact execGalleryRekey_kept ring s (Kept.refl s)
  | aidBegin ring => exact execAidBegin_kept ring s (Kept.refl s)
  | aidStates ring => exact execAidStates_kept ring s (Kept.refl s)
  | aidMasks ring => exact execAidMasks_kept ring s (Kept.refl s)
  | aidTransitions ring => exact execAidTransitions_kept ring s (Kept.refl s)
  | aidFinal ring => exact execAidFinal_kept ring s (Kept.refl s)
  | aidFree ring => exact execAidFree_kept ring s (Kept.refl s)
  | galleryReport ring => exact execGalleryReport_kept ring s (Kept.refl s)
  | galleryInfo ring => exact execGalleryInfo_kept ring s (Kept.refl s)
  | submit ring => exact execSubmit_kept ring s (Kept.refl s)
  | cancel ring => exact execCancel_kept ring s (Kept.refl s)
  | amend ring => exact execAmend_kept ring s (Kept.refl s)
  | query ring => exact execQuery_kept ring s (Kept.refl s)
  | draft ring => exact execDraft_kept ring s (Kept.refl s)
  | catStage ring => exact execCatStage_kept ring s (Kept.refl s)
  | catCommit ring => exact execCatCommit_kept ring s (Kept.refl s)
  | catArchive ring => exact execCatArchive_kept ring s (Kept.refl s)
  | wingPolicy ring => exact execWingPolicy_kept ring s (Kept.refl s)
  | powerCap ring => exact execPowerCap_kept ring s (Kept.refl s)
  | shapeStateRead ring => exact execShapeStateRead_kept ring s (Kept.refl s)
  | shapeStateRelease ring => exact execShapeStateRelease_kept ring s (Kept.refl s)
  | shapeStateDisable ring => exact execShapeStateDisable_kept ring s (Kept.refl s)
  | pairJoin ring => exact execPairJoin_kept ring s (Kept.refl s)
  | pairYield ring => exact execPairYield_kept ring s (Kept.refl s)
  | pairStatus ring => exact execPairStatus_kept ring s (Kept.refl s)
  | pairResync ring => exact execPairResync_kept ring s (Kept.refl s)
  | pairLeave ring => exact execPairLeave_kept ring s (Kept.refl s)
  | maintStatus ring => exact execMaintStatus_kept ring s (Kept.refl s)
  | scrubWake ring => exact execScrubWake_kept ring s (Kept.refl s)
  | ledgerCheckpoint ring => exact execLedgerCheckpoint_kept ring s (Kept.refl s)
  | fwStage ring => exact execFwStage_kept ring s (Kept.refl s)
  | fwActivate ring verdict => exact execFwActivate_kept ring verdict s (Kept.refl s)
  | retireRow ring => exact execRetireRow_kept ring s (Kept.refl s)
  | ledgerRead ring => exact execLedgerRead_kept ring s (Kept.refl s)
  | snapshot ring => exact execSnapshot_kept ring s (Kept.refl s)
  | counterReset ring => exact execCounterReset_kept ring s (Kept.refl s)
  | daybookCtrl ring => exact execDaybookCtrl_kept ring s (Kept.refl s)
  | freeze ring => exact execFreeze_kept ring s (Kept.refl s)
  | thaw ring => exact execThaw_kept ring s (Kept.refl s)
  | serviceChallenge ring => exact execServiceChallenge_kept ring s (Kept.refl s)
  | serviceUnlock ring => exact absurd rfl (hu ring)
  | serviceLock ring => exact execServiceLock_kept ring s (Kept.refl s)
  | capsuleWrite ring verdict => exact execCapsuleWrite_kept ring verdict s (Kept.refl s)
  | doorbell mid ring value => exact execDoorbell_kept mid ring value s (Kept.refl s)
  | dblRplCi mid ring value => exact execDblRplCi_kept mid ring value s (Kept.refl s)
  | ringPairReset mid ring value => exact execRingPairReset_kept mid ring value s (Kept.refl s)
  | ringPairResetComplete ring => exact execRingPairResetComplete_kept ring s (Kept.refl s)
  | dblResCi mid ring value => exact execDblResCi_kept mid ring value s (Kept.refl s)
  | ringReset mid ring value => exact execRingReset_kept mid ring value s (Kept.refl s)
  | ringResetComplete ring => exact execRingResetComplete_kept ring s (Kept.refl s)
  | cnsCi mid value => exact execCnsCi_kept mid value s (Kept.refl s)
  | dbkCi mid value => exact execDbkCi_kept mid value s (Kept.refl s)
  | readClear mid addr => exact execReadClear_kept mid addr s (Kept.refl s)
  | domainSoftReset mid value => exact execDomainSoftReset_kept mid value s (Kept.refl s)
  | hardHalt mid value => exact execHardHalt_kept mid value s (Kept.refl s)
  | irqMaskWrite mid value => exact execIrqMaskWrite_kept mid value s (Kept.refl s)
  | irqAck => exact execIrqAck_kept s (Kept.refl s)
  | post port mid chan value => exact execPost_kept port mid chan value s (Kept.refl s)
  | mbxAck port mid chan value => exact execMbxAck_kept port mid chan value s (Kept.refl s)
  | mbxEpoch port mid index value => exact execMbxEpoch_kept port mid index value s (Kept.refl s)
  | lockAcquire port mid lock => exact execLockAcquire_kept port mid lock s (Kept.refl s)
  | lockRelease port mid lock value => exact execLockRelease_kept port mid lock value s (Kept.refl s)
  | lowWordRead mid addr => exact execLowWordRead_kept mid addr s (Kept.refl s)
  | highWordRead mid addr => exact execHighWordRead_kept mid addr s (Kept.refl s)
  | registerWrite port mid addr data => exact execRegisterWrite_kept port mid addr data s (Kept.refl s)
  | telemetry => exact execTelemetry_kept s (Kept.refl s)
  | recoveryChunk verdict => exact execRecoveryChunk_kept verdict s (Kept.refl s)
  | fenceConfirmed => exact execFenceConfirmed_kept s (Kept.refl s)
  | fenceDenied => exact execFenceDenied_kept s (Kept.refl s)
  | powerOnReset => exact execPowerOnReset_kept s (Kept.refl s)
  | blockReset => exact execBlockReset_kept s (Kept.refl s)
  | fenceReset => exact execFenceReset_kept s (Kept.refl s)
  | resetRelease pin => exact absurd rfl (hr pin)
  | pufCheck scan => exact execPufCheck_kept scan s (Kept.refl s)
  | bootImage verdict => exact execBootImage_kept verdict s (Kept.refl s)
  | bootCapsule scan => exact execBootCapsule_kept scan s (Kept.refl s)
  | eccRegions scan => exact execEccRegions_kept scan s (Kept.refl s)
  | bootCatalogue => exact execBootCatalogue_kept s (Kept.refl s)
  | journalTimeout => exact execJournalTimeout_kept s (Kept.refl s)
  | recoveryProgrammed => exact execRecoveryProgrammed_kept s (Kept.refl s)
  | imageRequestRetry => exact execImageRequestRetry_kept s (Kept.refl s)
  | grvLinkUp up => exact execGrvLinkUp_kept up s (Kept.refl s)
  | fclkAckRise => exact execFclkAckRise_kept s (Kept.refl s)
  | fclkAckFall => exact execFclkAckFall_kept s (Kept.refl s)
  | pswAckRise dom => exact execPswAckRise_kept dom s (Kept.refl s)
  | pswAckFall dom => exact execPswAckFall_kept dom s (Kept.refl s)
  | domainPowerDown dom => exact execDomainPowerDown_kept dom s (Kept.refl s)
  | preWake wing => exact execPreWake_kept wing s (Kept.refl s)
  | composeWake wing => exact execComposeWake_kept wing s (Kept.refl s)
  | composePoint wing => exact execComposePoint_kept wing s (Kept.refl s)
  | idleCompose wing => exact execIdleCompose_kept wing s (Kept.refl s)
  | descriptor wing => exact execDescriptor_kept wing s (Kept.refl s)
  | replay wing => exact execReplay_kept wing s (Kept.refl s)
  | stepStart wing tag => exact execStepStart_kept wing tag s (Kept.refl s)
  | stepEnd wing tag => exact execStepEnd_kept wing tag s (Kept.refl s)
  | feedTaken wing tag info => exact execFeedTaken_kept wing tag info s (Kept.refl s)
  | energy wing tag info => exact execEnergy_kept wing tag info s (Kept.refl s)
  | errorUe wing tag info => exact execErrorUe_kept wing tag info s (Kept.refl s)
  | eventReserved wing word => exact execEventReserved_kept wing word s (Kept.refl s)
  | hung wing => exact execHung_kept wing s (Kept.refl s)
  | windowOpen wing window => exact execWindowOpen_kept wing window s (Kept.refl s)
  | windowClose wing window => exact execWindowClose_kept wing window s (Kept.refl s)
  | candidateBurst wing addr ben hdr data => exact execCandidateBurst_kept wing addr ben hdr data s (Kept.refl s)
  | shardHeader wing pos marked data => exact execShardHeader_kept wing pos marked data s (Kept.refl s)
  | treeTake tree => exact execTreeTake_kept tree s (Kept.refl s)
  | rowAreaFree wing row => exact execRowAreaFree_kept wing row s (Kept.refl s)
  | mergeResult tree => exact execMergeResult_kept tree s (Kept.refl s)
  | laneDispatch lane => exact execLaneDispatch_kept lane s (Kept.refl s)
  | unitSampled lane => exact execUnitSampled_kept lane s (Kept.refl s)
  | rowCommit wing row => exact execRowCommit_kept wing row s (Kept.refl s)
  | smpResponse tag status data => exact execSmpResponse_kept tag status data s (Kept.refl s)
  | kybAck wing target status => exact execKybAck_kept wing target status s (Kept.refl s)
  | recordSeal acc => exact execRecordSeal_kept acc s (Kept.refl s)
  | recordRelease acc => exact execRecordRelease_kept acc s (Kept.refl s)
  | releaseTick wing => exact execReleaseTick_kept wing s (Kept.refl s)
  | resultGroup acc => exact execResultGroup_kept acc s (Kept.refl s)
  | feedStream wing => exact execFeedStream_kept wing s (Kept.refl s)
  | tailOverrun wing => exact execTailOverrun_kept wing s (Kept.refl s)
  | deadlineFired slot => exact execDeadlineFired_kept slot s (Kept.refl s)
  | farListScan => exact execFarListScan_kept s (Kept.refl s)
  | throttleEnd => exact execThrottleEnd_kept s (Kept.refl s)
  | heartbeatTx => exact execHeartbeatTx_kept s (Kept.refl s)
  | grvHeartbeat frame => exact execGrvHeartbeat_kept frame s (Kept.refl s)
  | grvEcho frame => exact execGrvEcho_kept frame s (Kept.refl s)
  | grvFailure frame => exact execGrvFailure_kept frame s (Kept.refl s)
  | grvYield frame => exact execGrvYield_kept frame s (Kept.refl s)
  | heartbeatTimeout => exact execHeartbeatTimeout_kept s (Kept.refl s)
  | fenceTimeout => exact execFenceTimeout_kept s (Kept.refl s)
  | grvHello hdr hello => exact execGrvHello_kept hdr hello s (Kept.refl s)
  | helloTimeout => exact execHelloTimeout_kept s (Kept.refl s)
  | grvTime hdr sent echoSent echoArrived => exact execGrvTime_kept hdr sent echoSent echoArrived s (Kept.refl s)
  | grvRec hdr record => exact execGrvRec_kept hdr record s (Kept.refl s)
  | grvAck hdr => exact execGrvAck_kept hdr s (Kept.refl s)
  | grvGallery hdr gallery act => exact execGrvGallery_kept hdr gallery act s (Kept.refl s)
  | grvCatalogue hdr act => exact execGrvCatalogue_kept hdr act s (Kept.refl s)
  | grvCounter hdr gallery counter => exact execGrvCounter_kept hdr gallery counter s (Kept.refl s)
  | grvBulk hdr record => exact execGrvBulk_kept hdr record s (Kept.refl s)
  | grvHandback hdr record => exact execGrvHandback_kept hdr record s (Kept.refl s)
  | grvLeave hdr => exact execGrvLeave_kept hdr s (Kept.refl s)
  | grvImage hdr frame => exact execGrvImage_kept hdr frame s (Kept.refl s)
  | ackTimer => exact execAckTimer_kept s (Kept.refl s)
  | resend => exact execResend_kept s (Kept.refl s)
  | adoption => exact execAdoption_kept s (Kept.refl s)
  | mirrorLate acc seq => exact execMirrorLate_kept acc seq s (Kept.refl s)
  | galleryCloseComplete gallery => exact execGalleryCloseComplete_kept gallery s (Kept.refl s)
  | freezeComplete => exact execFreezeComplete_kept s (Kept.refl s)
  | scrubCodeword region row codeword word => exact execScrubCodeword_kept region row codeword word s (Kept.refl s)
  | lapLate dom => exact execLapLate_kept dom s (Kept.refl s)
  | scrubWakeDone dom => exact execScrubWakeDone_kept dom s (Kept.refl s)
  | periodicCheckpoint => exact execPeriodicCheckpoint_kept s (Kept.refl s)
  | checkpointComplete => exact execCheckpointComplete_kept s (Kept.refl s)
  | rowRetired => exact execRowRetired_kept s (Kept.refl s)
  | catArchiveDone => exact execCatArchiveDone_kept s (Kept.refl s)
  | capsuleProgrammed => exact execCapsuleProgrammed_kept s (Kept.refl s)
  | firmwareActivationDone => exact execFirmwareActivationDone_kept s (Kept.refl s)
  | snapshotTick => exact execSnapshotTick_kept s (Kept.refl s)
  | snapshotTaken => exact execSnapshotTaken_kept s (Kept.refl s)
  | challengeExpiry => exact execChallengeExpiry_kept s (Kept.refl s)
  | lockstep pairB => exact execLockstep_kept pairB s (Kept.refl s)
  | composeOverrun wing => exact execComposeOverrun_kept wing s (Kept.refl s)
  | treeOverrun tree => exact execTreeOverrun_kept tree s (Kept.refl s)
  | laneOverrun lane => exact execLaneOverrun_kept lane s (Kept.refl s)
  | wsBypass => exact execWsBypass_kept s (Kept.refl s)
  | wsExtest leave => exact execWsExtest_kept leave s (Kept.refl s)
  | wsIntestScan leave => exact execWsIntestScan_kept leave s (Kept.refl s)
  | wsMbist leave => exact execWsMbist_kept leave s (Kept.refl s)
  | wsStatus => exact execWsStatus_kept s (Kept.refl s)
  | badOpcode ring => exact execBadOpcode_kept ring s (Kept.refl s)
  | accessRefused port mid write addr data => exact execAccessRefused_kept port mid write addr data s (Kept.refl s)
  | hifAccessWake mid write addr data => exact execHifAccessWake_kept mid write addr data s (Kept.refl s)
  | copyCleared wing page => exact execCopyCleared_kept wing page s (Kept.refl s)

/-- An unlock of the service and the rise of a pin keep the queue and canonical memory as well, so every command does. -/
theorem exec_based {c : Instr} {s t : State} (e : exec c s = .next t) : Based s t := by
  by_cases hu : ∃ ring, c = .serviceUnlock ring
  · obtain ⟨ring, rfl⟩ := hu
    exact (execServiceUnlock_based ring s t e).1
  by_cases hr : ∃ pin, c = .resetRelease pin
  · obtain ⟨pin, rfl⟩ := hr
    exact (execResetRelease_based pin s t (Based.refl s) e).1
  have hk : KeptOut s (exec c s) := exec_kept s (not_exists.mp hu) (not_exists.mp hr)
  rw [e] at hk
  exact hk.1

/-- Settles O2: every meaning answers a next state, and each of them leaves the queue. -/
theorem everyCommandAnswersANextState : Obligations.EveryCommandAnswersANextState := by
  unfold Obligations.EveryCommandAnswersANextState
  intro c s
  obtain ⟨t, ht⟩ := exec_answersNext c s
  exact ⟨t, ht, (exec_based ht).1⟩

end Sys2Proof.Machine
end

section
/-! SUPPORT. An access by what stops it: a reset pin, its MID, its window or its size, a home that sleeps (R34, R43, R44, R68, R429). -/

namespace Sys2Proof.Machine

open Sys2Proof.Safety

section
variable {s : State} {port : Port} {mid : Byte} {write : Bool} {a : Nat} {data : List Byte}

/-- While a reset pin is low an access does nothing (R68). -/
theorem State.access_of_resetLow (hlow : s.resetLow = true) : s.access port mid write a data = s := by
  simp [State.access, hlow]

/-- An access whose MID is not the port's is logged by the Keeper and refused (R43). -/
theorem State.access_of_foreign_mid (hlow : s.resetLow = false) (hmid : midOk port mid = false) :
    s.access port mid write a data = (s.logRefused mid (portOffset port a)).refuseAccess mid write data.length := by
  simp [State.access, hlow, hmid]

/-- With a MID of its port, an access turns on the window that it reaches. -/
theorem State.access_of_own_mid (hlow : s.resetLow = false) (hmid : midOk port mid = true) :
    s.access port mid write a data = s.hifAccess mid write (portOffset port a) data := by
  simp [State.access, hlow, hmid]

/-- A window that does not answer, or a size that does not fit, refuses the access (R44, R429). -/
theorem State.hifAccess_of_shut_or_misfit (h : s.winShut a = true ∨ accessFits a data.length = false) :
    s.hifAccess mid write a data = s.refuseAccess mid write data.length := by
  have hstop : (s.winShut a || !accessFits a data.length) = true := by simpa using h
  rw [State.hifAccess, if_pos hstop]

/-- An access to a home that sleeps waits and wakes the home (R34). -/
theorem State.hifAccess_of_sleeping_home (hshut : s.winShut a = false) (hfits : accessFits a data.length = true)
    (hsleep : ∃ d ∈ s.homes a, s.active d = false) :
    s.hifAccess mid write a data = State.wake
      { s with power := { s.power with heldAccesses := s.power.heldAccesses ++ [{ mid := mid, write := write, addr := a, data := data }] } }
      (s.homes a) := by
  have hany : ((s.homes a).any fun d => !s.active d) = true := by simpa using hsleep
  have hholds : s.holds mid a = true := by rw [State.holds, hany, Bool.true_or]
  simp [State.hifAccess, hshut, hfits, hholds, hany]

theorem exec_registerWrite_of_reaches (h : Reaches s port mid a data.length) :
    exec (.registerWrite port mid a data) s = .next ((s.writeAt mid (portOffset port a) data).2.respond mid
      (s.writeAt mid (portOffset port a) data).1 []) := by
  change Host.Outcome.next (s.access port mid true a data) = _
  rw [State.access_of_reaches true h, State.perform, if_pos rfl]

theorem exec_accessRefused : exec (.accessRefused port mid write a data) s = .next (s.access port mid write a data) := rfl

theorem exec_hifAccessWake : exec (.hifAccessWake mid write a data) s = .next (s.access .hif mid write a data) := rfl

end

/-- Settles O27: an access by the first thing that stops it, in the order in which it is tested. -/
theorem accessesReachTheirRegister : Obligations.AccessesReachTheirRegister := by
  unfold Obligations.AccessesReachTheirRegister
  refine ⟨fun port mid a data s h => exec_registerWrite_of_reaches h, fun port mid write a data s hlow => ⟨fun hmid => ?_, fun hmid hstop => ?_⟩,
    fun mid write a data s hlow hmid hshut hfits hsleep => ?_, fun port mid write a data s hlow => ?_⟩
  · rw [exec_accessRefused, State.access_of_foreign_mid hlow hmid]
    rfl
  · rw [exec_accessRefused, State.access_of_own_mid hlow hmid, State.hifAccess_of_shut_or_misfit hstop]
    rfl
  · rw [exec_hifAccessWake, State.access_of_own_mid hlow hmid, portOffset, State.hifAccess_of_sleeping_home hshut hfits hsleep]
  · rw [exec_accessRefused, State.access_of_resetLow hlow]

end Sys2Proof.Machine
end

section
/-! SUPPORT. Start-up phase by phase (R62, R80, R83, R84): what each row does of a part that boots, and that the acts around it leave the registers it set. -/

namespace Sys2Proof.Machine

/-! ## What a wake leaves -/

theorem State.wakeSwitch_kpr_pair (s : State) (d : Dom) : (s.wakeSwitch d).kpr = s.kpr ∧ (s.wakeSwitch d).pair = s.pair := by
  unfold State.wakeSwitch
  dsimp only
  split
  · exact ⟨rfl, rfl⟩
  · unfold State.updDom
    dsimp only
    split <;> exact ⟨rfl, rfl⟩

theorem State.requestFclk_kpr_pair (s : State) : s.requestFclk.kpr = s.kpr ∧ s.requestFclk.pair = s.pair := by
  unfold State.requestFclk
  split
  · exact ⟨rfl, rfl⟩
  · split
    · exact ⟨rfl, rfl⟩
    · exact ⟨State.count_kpr .., State.count_pair ..⟩

/-- A wake leaves the Keeper's registers and the pair (R66, R73). -/
theorem State.wake_kpr_pair (s : State) (ds : List Dom) : (s.wake ds).kpr = s.kpr ∧ (s.wake ds).pair = s.pair := by
  unfold State.wake
  split
  · exact ⟨rfl, rfl⟩
  · refine List.foldlRecOn (motive := fun t : State => t.kpr = s.kpr ∧ t.pair = s.pair) ds _ ?_ fun t ht d _ => ?_
    · obtain ⟨hk, hp⟩ := s.requestFclk.wakeSwitch_kpr_pair .registrar
      exact ⟨hk.trans s.requestFclk_kpr_pair.1, hp.trans s.requestFclk_kpr_pair.2⟩
    · obtain ⟨hk, hp⟩ := t.wakeSwitch_kpr_pair d
      exact ⟨hk.trans ht.1, hp.trans ht.2⟩

/-! ## The registers that start-up sets (R35, R83, R433) -/

/-- PHASE, CAP_VALID, the capsule, the figures in force and READY. -/
structure BootRegs where
  phase : Byte
  capValid : Bool
  capsule : Option Capsule
  caps : Caps
  ready : Bool

/-- The start-up registers of a state. -/
def State.bootRegs (s : State) : BootRegs :=
  { phase := s.kpr.phase, capValid := s.kpr.capValid, capsule := s.kpr.capsule, caps := s.kpr.caps, ready := s.kpr.ready }

/-- An act that leaves the Keeper's registers leaves those of start-up. -/
theorem State.bootRegs_congr {s t : State} (h : t.kpr = s.kpr) : t.bootRegs = s.bootRegs := by
  unfold State.bootRegs
  rw [h]

theorem State.bootRegs_requestMsg (s : State) (v : Nat) : (s.requestMsg v).bootRegs = s.bootRegs := by
  unfold State.requestMsg
  split <;> rfl

/-- An interrupt requested leaves the registers of start-up. -/
theorem State.bootRegs_raiseVec (s : State) (v : Nat) : (s.raiseVec v).bootRegs = s.bootRegs := by
  unfold State.raiseVec
  dsimp only
  split
  · exact State.bootRegs_requestMsg _ v
  · rfl

theorem State.bootRegs_keeperCause (s : State) (b : Nat) : (s.keeperCause b).bootRegs = s.bootRegs := State.bootRegs_raiseVec _ _

/-- The notice of a post wakes Control or raises the Keeper's interrupt. -/
theorem State.postNotice_keeps (s : State) (n : Nat) : (s.postNotice n).bootRegs = s.bootRegs ∧ (s.postNotice n).pair = s.pair := by
  unfold State.postNotice
  dsimp only
  split
  · exact ⟨State.bootRegs_congr (s.wake_kpr_pair _).1, (s.wake_kpr_pair _).2⟩
  · split
    · exact ⟨State.bootRegs_keeperCause .., State.keeperCause_pair ..⟩
    · exact ⟨rfl, rfl⟩

/-- A message that Control posts leaves the registers of start-up and the pair (R122). -/
theorem State.controlPost_keeps (s : State) (n type word0 : Nat) :
    (s.controlPost n type word0).bootRegs = s.bootRegs ∧ (s.controlPost n type word0).pair = s.pair := by
  unfold State.controlPost State.postMessage
  dsimp only
  split
  · exact State.postNotice_keeps _ n
  · exact State.postNotice_keeps _ n

theorem State.setPair_bootRegs (s : State) (n : PairState) : (s.setPair n).bootRegs = s.bootRegs := by
  unfold State.setPair
  split
  · rfl
  · exact (State.bootRegs_raiseVec _ _).trans (State.bootRegs_congr (State.event_kpr ..))

/-! ## Phase 2: the archive device and the device key (R62, R83, R84) -/

section
variable {s : State} {table : Option ArcTable} {copy0 copy1 : HelperCopy} (hb : s.boots 1 = true ∨ s.boots 2 = true)
  (hreg : s.active .registrar = true) (hctl : s.active .control = true)
include hb hreg hctl

theorem exec_pufCheck_of_boots : exec (.pufCheck ⟨table, copy0, copy1⟩) s = .next (
    let v := (s.atPhase 2).discover table
    if (table.filter arcUsable).isNone then v.bootHalt 0x01 else if s.kpr.deviceKey then v.atPhase 3 else v.readPuf copy0 copy1) := by
  have hphase : (s.boots 1 || s.boots 2) = true := by simpa using hb
  change execPufCheck _ s = _
  rw [execPufCheck, hphase, hreg, hctl]
  rfl

theorem exec_pufCheck_of_no_device (hdev : table.filter arcUsable = none) :
    exec (.pufCheck ⟨table, copy0, copy1⟩) s = .next (((s.atPhase 2).discover table).bootHalt 0x01) := by
  rw [exec_pufCheck_of_boots hb hreg hctl, hdev]
  rfl

theorem exec_pufCheck_of_key {u : ArcTable} (hdev : table.filter arcUsable = some u) (hkey : s.kpr.deviceKey = true) :
    exec (.pufCheck ⟨table, copy0, copy1⟩) s = .next (((s.atPhase 2).discover table).atPhase 3) := by
  rw [exec_pufCheck_of_boots hb hreg hctl, hdev, hkey]
  rfl

theorem exec_pufCheck_of_no_key {u : ArcTable} (hdev : table.filter arcUsable = some u) (hkey : s.kpr.deviceKey = false) :
    exec (.pufCheck ⟨table, copy0, copy1⟩) s = .next (((s.atPhase 2).discover table).readPuf copy0 copy1) := by
  rw [exec_pufCheck_of_boots hb hreg hctl, hdev, hkey]
  rfl

end

theorem State.readPuf_of_bad_copies (s : State) {copy0 copy1 : HelperCopy} (h0 : copy0.crcOk = false) (h1 : copy1.crcOk = false) :
    s.readPuf copy0 copy1 = s.bootHalt 0x02 := by
  simp [State.readPuf, h0, h1]

/-- The first copy whose CRC holds is read and the array locked behind it. -/
theorem State.readPuf_of_good_copy (s : State) {copy0 copy1 c : HelperCopy} (hfirst : c = if copy0.crcOk then copy0 else copy1)
    (hcrc : c.crcOk = true) (hopen : s.sec.pufLocked = false) :
    s.readPuf copy0 copy1 =
      let locked := { s with sec := { s.sec with pufLocked := true } }
      if c.keyOk then { locked with kpr := { locked.kpr with phase := 3, deviceKey := true } } else locked.bootHalt 0x03 := by
  have hfind : [copy0, copy1].find? (·.crcOk) = some c := by
    by_cases h0 : copy0.crcOk = true
    · rw [hfirst, if_pos h0]
      exact List.find?_cons_of_pos h0
    · rw [if_neg h0] at hfirst
      subst hfirst
      rw [List.find?_cons_of_neg h0, List.find?_cons_of_pos hcrc]
  unfold State.readPuf
  rw [hfind]
  simp [hopen]

/-! ## Phases 3 and 4: the image and the capsule (R82, R83, R86) -/

section
variable {s : State}

theorem exec_bootImage_of_image {verdict : Option ImageInfo} {i : ImageInfo} (hb : s.boots 3 = true)
    (hi : found s.maint.flash.image verdict = some i) : exec (.bootImage verdict) s =
      .next { s with kpr := { s.kpr with phase := 4, image := some i, fwVersion := i.version } } := by
  change execBootImage verdict s = _
  rw [execBootImage, hb, if_pos rfl, hi]

theorem exec_bootImage_of_no_image {verdict : Option ImageInfo} (hb : s.boots 3 = true)
    (hnone : found s.maint.flash.image verdict = none) : exec (.bootImage verdict) s = .next s.enterRecovery := by
  change execBootImage verdict s = _
  rw [execBootImage, hb, if_pos rfl, hnone]

theorem exec_bootCapsule_of_copy {copy0 copy1 : Option Capsule} {c : Capsule} (hb : s.boots 4 = true)
    (hc : bootCopy s.maint.flash copy0 copy1 = some c) : exec (.bootCapsule ⟨copy0, copy1⟩) s = .next (s.acceptCapsule c) := by
  change execBootCapsule _ s = _
  rw [execBootCapsule, hb, if_pos rfl, hc]

theorem exec_bootCapsule_of_no_copy {copy0 copy1 : Option Capsule} (hb : s.boots 4 = true)
    (hc : bootCopy s.maint.flash copy0 copy1 = none) : exec (.bootCapsule ⟨copy0, copy1⟩) s = .next s.enterRecovery := by
  change execBootCapsule _ s = _
  rw [execBootCapsule, hb, if_pos rfl, hc]

theorem State.loadBindings_kpr (s : State) (bs : List (Nat × Nat × Nat)) : (s.loadBindings bs).kpr = s.kpr :=
  List.foldlRecOn (motive := fun t : State => t.kpr = s.kpr) bs _ rfl fun _ ht _ _ => ht

/-- The state with a capsule in force, before the firmware asks about a journal (R35, R36). -/
def State.capsuleInForce (s : State) (c : Capsule) : State :=
  let caps := limitCaps (Config.built s.kpr.size) c.limits
  let s1 := { s with kpr := { s.kpr with
    phase := 5, capValid := true, caps := caps, limited := decide (caps ≠ Config.built s.kpr.size), capsule := some c
    pllHold := BitVec.ofNat 16 c.pllHoldUs, fwRun := true } }
  { s1.seedSource.loadBindings c.bindings with pair := { s1.pair with state := if c.partner.isSome then .alone else .unpaired } }

theorem State.acceptCapsule_eq (s : State) (c : Capsule) : s.acceptCapsule c =
    let u := s.capsuleInForce c
    if u.pair.journal.isSome && c.partner.isSome then
      { u with pair := { u.pair with journalAsked := some u.kpr.ktime } }.controlPost 2 0x20 (1 - u.side)
    else u.dropJournal := rfl

theorem State.capsuleInForce_bootRegs (s : State) (c : Capsule) : (s.capsuleInForce c).bootRegs =
    { phase := 5, capValid := true, capsule := some c, caps := limitCaps (Config.built s.kpr.size) c.limits, ready := s.kpr.ready } :=
  State.bootRegs_congr (State.loadBindings_kpr _ c.bindings)

/-- Whether or not a live journal asks, an accepted capsule stays in force (R35, R88). -/
theorem State.acceptCapsule_keeps (s : State) (c : Capsule) : (s.acceptCapsule c).bootRegs = (s.capsuleInForce c).bootRegs
    ∧ (s.acceptCapsule c).pair.state = if c.partner.isSome then .alone else .unpaired := by
  rw [State.acceptCapsule_eq]
  dsimp only
  split
  · obtain ⟨hb, hp⟩ := State.controlPost_keeps
      { s.capsuleInForce c with pair := { (s.capsuleInForce c).pair with journalAsked := some (s.capsuleInForce c).kpr.ktime } }
      2 0x20 (1 - (s.capsuleInForce c).side)
    exact ⟨hb, congrArg Pair.state hp⟩
  · exact ⟨rfl, rfl⟩

end

section
variable {f : Flash} {c : Capsule} (h0 : f.capsule0 = .delivered) (hc : capsuleAccepted c = true)
include h0 hc

theorem bootCopy_of_copy0 (copy1 : Option Capsule) : bootCopy f (some c) copy1 = some c := by
  simp [bootCopy, found, h0, hc, Option.filter]

theorem bootCopy_of_copy1 {copy0 : Option Capsule} (h1 : f.capsule1 = .delivered) (hbad : copy0.filter capsuleAccepted = none) :
    bootCopy f copy0 (some c) = some c := by
  have hfound : (found f.capsule0 copy0).filter capsuleAccepted = none := by rw [h0]; exact hbad
  rw [bootCopy, hfound, h1]
  simp [found, hc, Option.filter]

end

/-! ## Phases 5 to 8: the regions, READY, the join (R80, R83, R85, R88) -/

theorem exec_eccRegions_of_boots {s : State} (hb : s.boots 5 = true) (hask : s.pair.journalAsked = none) (ok : Bool) (bad : List Nat) :
    exec (.eccRegions ⟨ok, bad⟩) s = .next (if !ok then s.bootHalt 0x05
      else if s.kpr.journalResumed then
        (bad.foldl State.badRecord s.clearArray.eraseAll.loadControlKey.resumeRecords.reloadKeys).atPhase 6
      else s.clearPreserved.clearArray.eraseAll.loadControlKey.atPhase 6) := by
  change execEccRegions _ s = _
  rw [execEccRegions, hb, hask]
  rfl

theorem exec_bootCatalogue_of_boots {s : State} (hb : s.boots 6 = true) :
    exec .bootCatalogue s = .next s.restoreLedger.loadCatalogue.rise.phase8 := by
  change execBootCatalogue s = _
  rw [execBootCatalogue, hb, if_pos rfl]

theorem State.rise_ready (s : State) : s.rise.kpr.ready = true := by
  unfold State.rise
  exact (congrArg BootRegs.ready ((State.bootRegs_keeperCause _ 0).trans (State.bootRegs_congr (State.ledgerMax_kpr ..)))).trans rfl

theorem State.armWheel_kpr (s : State) (acc : Nat) : (s.armWheel acc).kpr = s.kpr := by
  unfold State.armWheel
  dsimp only
  split
  · rfl
  · split
    · rfl
    · split <;> rfl

theorem State.startJoin_ready (s : State) (seq : Option W32) : (s.startJoin seq).kpr.ready = s.kpr.ready := by
  unfold State.startJoin State.sendFrame State.startActivity
  dsimp only
  rw [State.count_kpr, State.emit_kpr, State.event_kpr]
  exact (congrArg BootRegs.ready (State.setPair_bootRegs _ .joining)).trans (congrArg Kpr.ready s.drawn_kpr)

/-- Phase 0x08 leaves READY. -/
theorem State.phase8_ready (s : State) : s.phase8.kpr.ready = s.kpr.ready := by
  unfold State.phase8
  split
  · rfl
  · split
    · exact List.foldlRecOn (motive := fun t : State => t.kpr.ready = s.kpr.ready) _ _ (congrArg BootRegs.ready (State.setPair_bootRegs _ .takeover))
        fun t ht acc _ => (congrArg Kpr.ready (t.armWheel_kpr acc)).trans ht
    · exact State.startJoin_ready _ none

/-- Settles O37: each row by its phase and by what it finds; READY, once risen, stays through phase 0x08. -/
theorem startUpPhases : Obligations.StartUpPhases := by
  unfold Obligations.StartUpPhases
  refine ⟨fun s table copy0 copy1 hb hreg hctl => ⟨exec_pufCheck_of_no_device hb hreg hctl, fun u hdev =>
      ⟨exec_pufCheck_of_key hb hreg hctl hdev, fun hkey h0 h1 => ?_, fun hkey hopen c hfirst hcrc => ?_⟩⟩,
    fun s verdict hb => ⟨fun i => exec_bootImage_of_image hb, exec_bootImage_of_no_image hb⟩, fun s copy0 copy1 hb => ⟨fun c hc => ?_, exec_bootCapsule_of_no_copy hb⟩,
    fun f copy0 copy1 c h0 h1 hc => ⟨bootCopy_of_copy0 h0 hc copy1, bootCopy_of_copy1 h0 hc h1⟩,
    fun s bad hb hask => ⟨exec_eccRegions_of_boots hb hask false bad, fun hgone => ?_, fun hlive => ?_⟩, fun s hb => ?_⟩
  · rw [exec_pufCheck_of_no_key hb hreg hctl hdev hkey, State.readPuf_of_bad_copies _ h0 h1]
  · exact (exec_pufCheck_of_no_key hb hreg hctl hdev hkey).trans (congrArg Host.Outcome.next (State.readPuf_of_good_copy _ hfirst hcrc hopen))
  · obtain ⟨hkept, hpair⟩ := s.acceptCapsule_keeps c
    have hregs := hkept.trans (s.capsuleInForce_bootRegs c)
    exact ⟨_, exec_bootCapsule_of_copy hb hc, congrArg BootRegs.phase hregs, congrArg BootRegs.capValid hregs,
      congrArg BootRegs.capsule hregs, congrArg BootRegs.caps hregs, hpair⟩
  · rw [exec_eccRegions_of_boots hb hask, hgone]
    rfl
  · rw [exec_eccRegions_of_boots hb hask, hlive]
    rfl
  · exact ⟨_, exec_bootCatalogue_of_boots hb, (State.phase8_ready _).trans (State.rise_ready _)⟩

end Sys2Proof.Machine
end

section
/-! SUPPORT. The frame of the commands that store nothing: the part of a state that none of them touches, operation by operation and row by row (R66, R71, R72, R190, R201, R334, R343, R404, R410, R431). -/

namespace Sys2Proof.Machine

/-! ## The stored part of a state -/

/-- What a quiet command leaves: memory, ring indices, channels, galleries, requests, the checkpoint journal, error correction, the accepted cap, the logs. -/
structure StoredPart where
  mem : Memory
  rings : Rings
  mbx : Mbx
  galleries : SMap Gallery
  reqs : SMap Req
  journal : SMap Checkpoint
  integ : Integ
  capMw : Nat
  logs : Logs

/-- The stored part of a state. -/
def State.stored (s : State) : StoredPart :=
  { mem := s.mem, rings := s.rings, mbx := s.mbx, galleries := s.galleries, reqs := s.reg.reqs, journal := s.ledger.journal
    integ := s.integ, capMw := s.cap.capMw, logs := s.logs }

@[simp] theorem State.stored_bank (s : State) (delay : Nat) (op : BankOp) : (s.bank delay op).stored = s.stored := rfl

@[simp] theorem State.stored_ledgerAdd (s : State) (i n : Nat) : (s.ledgerAdd i n).stored = s.stored := rfl

@[simp] theorem State.stored_emit (s : State) (o : PortOut) : (s.emit o).stored = s.stored := rfl

@[simp] theorem State.stored_updDom (s : State) (d : Dom) (f : DomSt → DomSt) : (s.updDom d f).stored = s.stored := rfl

@[simp] theorem State.stored_updWing (s : State) (w : Nat) (f : Wing → Wing) : (s.updWing w f).stored = s.stored := rfl

@[simp] theorem State.stored_updStep (s : State) (w : Nat) (tag : W16) (f : Step → Step) : (s.updStep w tag f).stored = s.stored := rfl

@[simp] theorem State.stored_count (s : State) (g i n : Nat) : (s.count g i n).stored = s.stored := by
  unfold State.count
  split <;> rfl

theorem State.stored_countIf (s : State) (p : Prop) [Decidable p] (g i n : Nat) : (if p then s.count g i n else s).stored = s.stored := by
  split
  · exact s.stored_count g i n
  · rfl

@[simp] theorem State.stored_requestFclk (s : State) : s.requestFclk.stored = s.stored := by
  unfold State.requestFclk
  split
  · rfl
  · split
    · rfl
    · exact State.stored_count ..

@[simp] theorem State.stored_wakeSwitch (s : State) (d : Dom) : (s.wakeSwitch d).stored = s.stored := by
  unfold State.wakeSwitch
  dsimp only
  split
  · rfl
  · rw [State.stored_updDom]
    split <;> rfl

/-- A wake moves clocks and switches alone (R66, R73). -/
@[simp] theorem State.stored_wake (s : State) (ds : List Dom) : (s.wake ds).stored = s.stored := by
  unfold State.wake
  split
  · rfl
  · exact List.foldlRecOn (motive := fun t : State => t.stored = s.stored) ds _ (by simp) fun t ht d _ => (t.stored_wakeSwitch d).trans ht

@[simp] theorem State.stored_nextMsg (s : State) : s.nextMsg.stored = s.stored := by
  unfold State.nextMsg
  split <;> rfl

/-! ## Commands that store nothing -/

/-- An outcome that, where it is a next state, leaves the stored part of a state. -/
def Quiet (s : State) (r : Host.Outcome State Fault Refusal) : Prop := ∀ t, r = .next t → t.stored = s.stored

theorem Quiet.next {s t : State} (h : t.stored = s.stored) : Quiet s (.next t) := fun u hu => by
  cases hu
  exact h

theorem Quiet.ite {s : State} {p : Prop} [Decidable p] {a b : Host.Outcome State Fault Refusal} (ha : Quiet s a) (hb : Quiet s b) :
    Quiet s (if p then a else b) := by
  split
  · exact ha
  · exact hb

section
variable (s : State)

/-- A command that does nothing leaves all. -/
theorem Quiet.same : Quiet s (.next s) := .next rfl

/-- The acknowledgements of the clock and the switches, and the end of a domain's power (R66, R73, R78). -/
theorem execFclkAckRise_quiet : Quiet s (execFclkAckRise s) :=
  .ite (.next (by split <;> rfl)) (.same s)

theorem execFclkAckFall_quiet : Quiet s (execFclkAckFall s) := .ite (.next rfl) (.same s)

theorem execPswAckRise_quiet (d : Dom) : Quiet s (execPswAckRise d s) := .ite (.next rfl) (.same s)

theorem execPswAckFall_quiet (d : Dom) : Quiet s (execPswAckFall d s) := .ite (.next (by split <;> rfl)) (.same s)

theorem execDomainPowerDown_quiet (d : Dom) : Quiet s (execDomainPowerDown d s) := .ite (.next rfl) (.same s)

/-- A wake timer disarms itself and wakes its domains (R75). -/
theorem execPreWake_quiet (w : Fin 4) : Quiet s (execPreWake w s) := by
  refine .ite (.same s) ?_
  split
  · exact .same s
  · exact .ite (.next (by simp)) (.same s)

theorem execComposeWake_quiet (w : Fin 4) : Quiet s (execComposeWake w s) := by
  refine .ite (.same s) ?_
  split
  · exact .same s
  · exact .ite (.next (by simp)) (.same s)

/-- The scan changes the wheel, and no request (R72). -/
theorem execFarListScan_quiet : Quiet s (execFarListScan s) := .ite (.next rfl) (.same s)

theorem execThrottleEnd_quiet : Quiet s (execThrottleEnd s) := .ite (.next rfl) (.same s)

/-- The copies of a snapshot wait in the queue of the counter bank (R402). -/
theorem execSnapshotTick_quiet : Quiet s (execSnapshotTick s) := by
  unfold execSnapshotTick
  split
  · exact .same s
  · exact .ite (.next (List.foldlRecOn (motive := fun t : State => t.stored = s.stored) delayClasses _ rfl fun _ ht _ _ => ht)) (.same s)

theorem execFreezeComplete_quiet : Quiet s (execFreezeComplete s) := .ite (.same s) (.ite (.next rfl) (.same s))

theorem execIrqAck_quiet : Quiet s (execIrqAck s) := by
  unfold execIrqAck
  split
  · exact .same s
  · refine .next ?_
    split
    · rfl
    · exact State.stored_nextMsg _

theorem execChallengeExpiry_quiet : Quiet s (execChallengeExpiry s) := by
  refine .ite (.same s) ?_
  split
  · exact .same s
  · exact .ite (.next rfl) (.same s)

theorem execCatArchiveDone_quiet : Quiet s (execCatArchiveDone s) := by
  refine .ite (.same s) ?_
  split
  · exact .same s
  · exact .next rfl

theorem execHeartbeatTx_quiet : Quiet s (execHeartbeatTx s) := .ite (.next rfl) (.same s)

/-- The cause waits for the end of the tick; the journal is written by the checkpoint it begins (R421). -/
theorem execPeriodicCheckpoint_quiet : Quiet s (execPeriodicCheckpoint s) := .ite (.same s) (.ite (.next rfl) (.same s))

theorem execLaneDispatch_quiet (lane : Nat) : Quiet s (execLaneDispatch lane s) := by
  refine .ite (.same s) ?_
  split
  · exact .same s
  · exact .ite (.same s) (.next (State.stored_count ..))

/-- A result moves from its tree to the dispatcher (R253). -/
theorem execMergeResult_quiet (n : Nat) : Quiet s (execMergeResult n s) := by
  refine .ite (.same s) ?_
  split
  · exact .same s
  · exact .ite (.next ((State.stored_countIf ..).trans ((State.stored_countIf ..).trans (State.stored_count ..)))) (.next (State.stored_count ..))

theorem execRowAreaFree_quiet (w : Fin 4) (r : Nat) : Quiet s (execRowAreaFree w r s) := by
  refine .ite (.same s) ?_
  dsimp only
  split
  · exact .same s
  · exact .next rfl

end

/-- Settles O60: each of the commands leaves the stored part, whose memory is the one that is read. -/
theorem quietCommandsStoreNothing : Obligations.QuietCommandsStoreNothing := by
  unfold Obligations.QuietCommandsStoreNothing
  intro i s t hi ht
  have hq : Quiet s (exec i s) := by
    rcases hi with hi | ⟨d, rfl | rfl | rfl⟩ | ⟨w, rfl | rfl⟩ | ⟨lane, rfl⟩ | ⟨n, rfl⟩ | ⟨w, r, rfl⟩
    · simp only [List.mem_cons, List.not_mem_nil, or_false] at hi
      rcases hi with rfl | rfl | rfl | rfl | rfl | rfl | rfl | rfl | rfl | rfl | rfl
      · exact execFclkAckRise_quiet s
      · exact execFclkAckFall_quiet s
      · exact execFarListScan_quiet s
      · exact execThrottleEnd_quiet s
      · exact execSnapshotTick_quiet s
      · exact execFreezeComplete_quiet s
      · exact execIrqAck_quiet s
      · exact execChallengeExpiry_quiet s
      · exact execCatArchiveDone_quiet s
      · exact execHeartbeatTx_quiet s
      · exact execPeriodicCheckpoint_quiet s
    · exact execPswAckRise_quiet s d
    · exact execPswAckFall_quiet s d
    · exact execDomainPowerDown_quiet s d
    · exact execPreWake_quiet s w
    · exact execComposeWake_quiet s w
    · exact execLaneDispatch_quiet s lane
    · exact execMergeResult_quiet s n
    · exact execRowAreaFree_quiet s w r
  have hs := hq t ht
  simp only [State.stored, StoredPart.mk.injEq] at hs
  obtain ⟨hmem, hrest⟩ := hs
  exact ⟨fun a => by rw [hmem], hrest⟩

end Sys2Proof.Machine
end

section
/-! SUPPORT. The clock and switch acknowledgements, the end of a domain's power and the wake timers, each row by its condition (R66, R71, R73, R75, R78). -/

namespace Sys2Proof.Machine

/-! ## Acknowledgements and power-down (R66, R73, R76, R78, R79) -/

section
variable {s : State}

theorem exec_fclkAckRise_of_requested (hreq : s.power.fclkReq = true) (hack : s.power.fclkAck = false) (hlow : s.resetLow = false) :
    exec .fclkAckRise s = .next (State.ledgerAdd { s with power := { s.power with fclkAck := true } }
      (if s.power.coldStart then 238 + binOf [500, 1000, 2000, 3500, 7000] (s.now - s.power.fclkRose.toNat)
        else 232 + binOf [30, 60, 90, 120, 240] (s.now - s.power.fclkRose.toNat)) 1) := by
  change execFclkAckRise s = _
  cases hcold : s.power.coldStart <;> simp [execFclkAckRise, hreq, hack, hlow, hcold]

theorem exec_fclkAckFall_of_released (hreq : s.power.fclkReq = false) (hack : s.power.fclkAck = true) :
    exec .fclkAckFall s = .next { s with power := { s.power with fclkAck := false, fclkFell := some s.kpr.ktime } } := by
  change execFclkAckFall s = _
  simp [execFclkAckFall, hreq, hack]

theorem exec_pswAckRise_of_requested {d : Dom} (hreq : (s.power.dom d).req = true) (hack : (s.power.dom d).ack = false) (hlow : s.resetLow = false) :
    exec (.pswAckRise d) s = .next (s.updDom d fun y => { y with ack := true }) := by
  change execPswAckRise d s = _
  simp [execPswAckRise, hreq, hack, hlow]

theorem Dom.beq_eq_decide (d e : Dom) : (d == e) = decide (d = e) := rfl

/-- RET_EN rises behind the Registrar's fall, unless a wake waits for it or a reset pin is low (R66). -/
theorem exec_pswAckFall_of_released {d : Dom} (hreq : (s.power.dom d).req = false) (hack : (s.power.dom d).ack = true) :
    exec (.pswAckFall d) s = .next (
      if decide (d = .registrar) && !(s.power.dom d).waiting && !s.resetLow then
        { s.updDom d fun y => { y with ack := false } with power := { (s.updDom d fun y => { y with ack := false }).power with retEn := true } }
      else s.updDom d fun y => { y with ack := false }) := by
  change execPswAckFall d s = _
  simp only [execPswAckFall, hreq, hack, Bool.not_false, Bool.and_self, if_true, Dom.beq_eq_decide]

theorem Power.dom_setDom (p : Power) (d : Dom) (x : DomSt) : (p.setDom d x).dom d = x := by cases d <;> rfl

theorem Power.retEn_setDom (p : Power) (d : Dom) (x : DomSt) : (p.setDom d x).retEn = p.retEn := by cases d <;> rfl

theorem Power.dom_retEn (p : Power) (b : Bool) (d : Dom) : ({ p with retEn := b } : Power).dom d = p.dom d := by cases d <;> rfl

theorem exec_domainPowerDown_of_no_work {d : Dom} (hreq : (s.power.dom d).req = true) (hact : (s.power.dom d).active = true)
    (hwork : s.hasWork d = false) (hd : s.dead = false) :
    exec (.domainPowerDown d) s = .next (s.updDom d fun y => { y with req := false, active := false }) := by
  change execDomainPowerDown d s = _
  simp [execDomainPowerDown, hreq, hact, hwork, hd]

/-! ## Wake timers (R71, R75) -/

theorem Wing.fires_iff (x : Wing) (now lead target : Nat) : x.fires now lead target = true ↔ target ≤ now + lead ∧ x.armedAt.toNat < now := by
  simp [Wing.fires]

theorem exec_preWake_of_armed {w : Fin 4} {t : W64} (hd : s.dead = false) (ht : (s.wingAt w.val).preWake = some t) :
    exec (.preWake w) s = .next (if (s.wingAt w.val).fires s.now (s.wakeLead t.toNat 600 600 4000) t.toNat then
      (s.updWing w.val fun y => { y with preWake := none }).wake [.intake, .docent] else s) := by
  change execPreWake w s = _
  simp only [execPreWake, hd, ht, Bool.false_eq_true, if_false, apply_ite Host.Outcome.next]

theorem exec_composeWake_of_armed {w : Fin 4} {t : W64} (hd : s.dead = false) (ht : (s.wingAt w.val).composeWake = some t) :
    exec (.composeWake w) s = .next (if (s.wingAt w.val).fires s.now (s.wakeLead t.toNat 210 320 3700) t.toNat then
      (s.updWing w.val fun y => { y with composeWake := none }).wake [.curator] else s) := by
  change execComposeWake w s = _
  simp only [execComposeWake, hd, ht, Bool.false_eq_true, if_false, apply_ite Host.Outcome.next]

end

/-- A timer does not fire in the tick of its arming, nor before its lead begins. -/
theorem Wing.not_fires {x : Wing} {now lead target : Nat} (h : now ≤ x.armedAt.toNat ∨ now + lead < target) : ¬ x.fires now lead target = true := by
  rw [Wing.fires_iff]
  omega

/-- Settles O39: the acknowledgements by the request they follow, the wake timers by whether they fire. -/
theorem clockAndPowerFollow : Obligations.ClockAndPowerFollow := by
  unfold Obligations.ClockAndPowerFollow
  refine ⟨⟨fun s => exec_fclkAckRise_of_requested, fun s => exec_fclkAckFall_of_released, fun d s => exec_pswAckRise_of_requested,
      fun d s hreq hack => ⟨_, exec_pswAckFall_of_released hreq hack, ?_, ?_⟩, fun d s => exec_domainPowerDown_of_no_work⟩,
    fun w s t hd => ⟨fun ht harmed hdue => ?_, fun ht harmed hdue => ?_, fun ht hnot => ?_, fun ht hnot => ?_⟩⟩
  · split
    · rw [Power.dom_retEn, State.updDom, Power.dom_setDom]
    · rw [State.updDom, Power.dom_setDom]
  · split
    case isTrue h => rw [h, Bool.or_true]
    case isFalse h => rw [State.updDom, Power.retEn_setDom, Bool.eq_false_iff.mpr h, Bool.or_false]
  · rw [exec_preWake_of_armed hd ht, if_pos ((Wing.fires_iff ..).mpr ⟨hdue, harmed⟩)]
  · rw [exec_composeWake_of_armed hd ht, if_pos ((Wing.fires_iff ..).mpr ⟨hdue, harmed⟩)]
  · rw [exec_preWake_of_armed hd ht, if_neg (Wing.not_fires hnot)]
  · rw [exec_composeWake_of_armed hd ht, if_neg (Wing.not_fires hnot)]

end Sys2Proof.Machine
end

section
/-! SUPPORT. The events that name a step, and the steps that are late, each row as one equation of a living machine or one per case (R49, R50, R54, R193, R196, R375). -/

namespace Sys2Proof.Machine

open Sys2Proof.Bytes

/-! ## Events that name a step (R49, R50, R54, R375) -/

/-- Bits [47:32] of a word fit the tag they are read as. -/
theorem tagOf_toNat (n : Nat) : (BitVec.ofNat 16 (bits n 47 32)).toNat = bits n 47 32 := by
  rw [BitVec.toNat_ofNat]
  exact Nat.mod_mod_of_dvd _ (by decide)

section
variable {w : Fin 4} {tag : W16} {s : State} (hd : s.dead = false)
include hd

/-- Each event with a tag of no step that has begun is a reserved event (R49). -/
theorem exec_stepEvents_of_not_begun (info : W32) (hbegun : (s.wingAt w.val).begun tag = none) :
    exec (.feedTaken w tag info) s = .next (s.event 3 0x25 w.val tag.toNat (eventHigh 3 tag))
    ∧ exec (.energy w tag info) s = .next (s.event 3 0x25 w.val tag.toNat (eventHigh 4 tag))
    ∧ exec (.errorUe w tag info) s = .next (s.event 3 0x25 w.val tag.toNat (eventHigh 0x10 tag)) := by
  change execFeedTaken w tag info s = _ ∧ execEnergy w tag info s = _ ∧ execErrorUe w tag info s = _
  simp [execFeedTaken, execEnergy, execErrorUe, State.reservedEvent, hd, hbegun]

/-- A feed taken without a wait opens the gate and stalls nothing (R54). -/
theorem exec_feedTaken_of_no_wait {t : Step} (hbegun : (s.wingAt w.val).begun tag = some t) :
    exec (.feedTaken w tag 0) s = .next (((s.event 3 0x23 w.val tag.toNat 0).count (1 + w.val) 11 0).updWing w.val fun x =>
      { (x.mapBegun tag fun y => { y with taken := true }) with feedGate := if x.feedGate = some tag then none else x.feedGate }) := by
  change execFeedTaken w tag 0 s = _
  simp [execFeedTaken, hd, hbegun]

theorem exec_energy_of_begun {t : Step} (info : W32) (hbegun : (s.wingAt w.val).begun tag = some t) :
    exec (.energy w tag info) s = .next (
      let u := if t.ended = none then s.updStep w.val tag fun y => { y with energy := some info } else s
      if t.shape.energyUj < info.toNat then u.breach w.val tag brEnergy else u) := by
  change execEnergy w tag info s = _
  simp [execEnergy, hd, hbegun]

theorem exec_errorUe_of_begun {t : Step} (info : W32) (hbegun : (s.wingAt w.val).begun tag = some t) :
    exec (.errorUe w tag info) s = .next (
      let u := s.event 3 0x24 w.val tag.toNat info.toNat
      if t.ended ≠ none then u.breach w.val tag brLateError else if t.discarded = 0 then u.discardRunning w.val 1 else u.dropReplay w.val) := by
  change execErrorUe w tag info s = _
  simp [execErrorUe, hd, hbegun, Option.isSome_iff_ne_none]

theorem exec_eventReserved_of_type {word : W64} (htype : eventTypes.contains (bits word.toNat 63 56) = false) :
    exec (.eventReserved w word) s = .next (s.event 3 0x25 w.val (bits word.toNat 47 32) (word.toNat / 2 ^ 32)) := by
  change execEventReserved w word s = _
  simp only [execEventReserved, hd, htype, Bool.false_and, Bool.false_eq_true, if_false, State.reservedEvent, tagOf_toNat]

/-! ## Late steps (R193, R196) -/

theorem exec_hung_of_late {t : Step} (hrun : (s.wingAt w.val).running = some t) (hfree : t.free s = true)
    (hlate : t.startAt + shapeTicks t.shape + 1000 ≤ s.now) :
    exec (.hung w) s = .next (if t.breaches.getLsbD brHung then s
      else (s.breach w.val t.tag brHung).report 0x0004 2 0x03 w.val 255 [t.tag.toNat, t.shape.shapeId]) := by
  change execHung w s = _
  cases hmarked : t.breaches.getLsbD brHung <;> simp [execHung, hd, hrun, hfree, hlate, hmarked]

theorem exec_tailOverrun_of_unfed {t n : Step} {c : W64}
    (ht : ((s.wingAt w.val).running.toList ++ (s.wingAt w.val).tails.reverse).find? (fun t => t.lastClose.isSome) = some t)
    (hclose : t.lastClose = some c) (hnext : (s.wingAt w.val).nextFed t = some n) (hfed : n.fedAt = none) (hdisc : t.discarded = 0)
    (hfree : t.free s = true) :
    exec (.tailOverrun w) s = .next (if c.toNat + 4000 ≤ s.now then s.breach w.val t.tag 0x80 else s) := by
  change execTailOverrun w s = _
  unfold execTailOverrun
  dsimp only
  rw [ht]
  simp [hd, hclose, hnext, hfed, hdisc, hfree, apply_ite Host.Outcome.next]

end

/-- Settles O42: the events by whether a step of the tag has begun, the late steps by their tick. -/
theorem stepEventsAndLateSteps : Obligations.StepEventsAndLateSteps := by
  unfold Obligations.StepEventsAndLateSteps
  refine ⟨fun w tag info s hd => ⟨exec_stepEvents_of_not_begun hd info, fun t hbegun => ⟨?_, exec_energy_of_begun hd info hbegun,
      exec_errorUe_of_begun hd info hbegun⟩, fun word => exec_eventReserved_of_type hd⟩,
    fun w s t hd hrun hfree => exec_hung_of_late hd hrun hfree,
    fun w s t n c hd => exec_tailOverrun_of_unfed hd⟩
  rintro rfl
  exact exec_feedTaken_of_no_wait hd hbegun

end Sys2Proof.Machine
end

section
/-! SUPPORT. The answers of stack memory and of the key slots: what an issued request leaves, and the rows SMP_RESPONSE and KYB_ACK by what they complete (R56, R58, R61, R140, R145). -/

namespace Sys2Proof.Machine

/-! ## What the issue of a request leaves (R56) -/

/-- A request that is issued or kept leaves the Keeper's registers, the pair, the galleries and the list of wings whose slot 64 is loaded. -/
theorem State.smpPut_keeps (s : State) (r : SmpReq) : (s.smpPut r).kpr = s.kpr ∧ (s.smpPut r).pair = s.pair
    ∧ (s.smpPut r).galleries = s.galleries ∧ (s.smpPut r).path.ctlLoaded = s.path.ctlLoaded := by
  unfold State.smpPut
  split
  case h_1 t _ =>
    split
    · exact ⟨State.count_kpr .., State.count_pair .., State.count_galleries .., (congrArg Path.ctlLoaded (State.count_path ..)).trans rfl⟩
    · exact ⟨rfl, rfl, rfl, rfl⟩
  case h_2 => exact ⟨rfl, rfl, rfl, rfl⟩

/-- The same for the requests that waited. -/
theorem State.smpFlush_keeps (s : State) : s.smpFlush.galleries = s.galleries ∧ s.smpFlush.path.ctlLoaded = s.path.ctlLoaded := by
  refine List.foldlRecOn (motive := fun t : State => t.galleries = s.galleries ∧ t.path.ctlLoaded = s.path.ctlLoaded)
    s.path.smpWait _ ⟨rfl, rfl⟩ fun t ht r _ => ?_
  obtain ⟨-, -, hgal, hctl⟩ := t.smpPut_keeps r
  exact ⟨hgal.trans ht.1, hctl.trans ht.2⟩

/-- Replies that are written leave the galleries (R102). -/
theorem State.flushReplies_galleries (s : State) : s.flushReplies.galleries = s.galleries := by
  refine List.foldlRecOn (motive := fun t : State => t.galleries = s.galleries) s.rings.replies _ rfl fun t ht r _ => ?_
  split
  · exact (State.writeReply_galleries ..).trans ht
  · exact ht

/-! ## SMP_RESPONSE (R58) -/

section
variable {s : State} (hd : s.dead = false)
include hd

theorem exec_smpResponse_of_unknown {tag : Nat} (status : Nat) (data : List Byte) (hq : s.path.smp.find? (fun q => decide (q.tag = tag)) = none) :
    exec (.smpResponse tag status data) s = .next s := by
  change execSmpResponse tag status data s = _
  simp only [execSmpResponse, hd, hq, Bool.false_eq_true, if_false]

/-- The state with the request of a tag answered and its latency counted (R58). -/
def State.smpAnswered (s : State) (tag : Nat) (q : SmpReq) : State :=
  (({ s with path := { s.path with smp := s.path.smp.filter fun x => decide (x.tag ≠ tag) } }).count 9 5 (s.now - q.issued.toNat)).gaugeMax 9 6
    (s.now - q.issued.toNat)

theorem exec_smpResponse_of_outstanding {tag : Nat} {q : SmpReq} (status : Nat) (data : List Byte)
    (hq : s.path.smp.find? (fun q => decide (q.tag = tag)) = some q) :
    exec (.smpResponse tag status data) s =
      .next (if status = 0 then (s.smpAnswered tag q).smpDone q data else (s.smpAnswered tag q).smpFailed q status).smpFlush := by
  change execSmpResponse tag status data s = _
  simp only [execSmpResponse, hd, hq, Bool.false_eq_true, if_false]
  rfl

/-! ## KYB_ACK (R61, R140, R145) -/

variable {w : Fin 4} {target : Bool} (status : BitVec 2)

theorem exec_kybAck_of_none (h : takeFirst (fun (o : KybOp) => decide (o.wing = w.val) && (o.noise == target)) s.path.kyb = none) :
    exec (.kybAck w target status) s = .next s := by
  change execKybAck w target status s = _
  simp only [execKybAck, hd, h, Bool.false_eq_true, if_false]

variable {o : KybOp} {rest : List KybOp}

/-- The key loaded on a wing: the gallery counts it, and its open reply no longer waits for it (R140). -/
def State.keyLoaded (s : State) (o : KybOp) : State :=
  let u := s.updGal o.slot fun x => { x with loaded := o.wing :: x.loaded.filter (· != o.wing) }
  { u with rings := { u.rings with replies := u.rings.replies.map fun (r : PendingReply) =>
      if r.op = 0x10 ∧ r.gallery = o.slot then { r with waitKyb := r.waitKyb.filter (· != o.wing) } else r } }

/-- The control structure key loaded on a wing. -/
def State.controlLoaded (s : State) (o : KybOp) : State :=
  { s with path := { s.path with ctlLoaded := o.wing :: s.path.ctlLoaded.filter (· != o.wing) } }

/-- An acknowledgement by the operation that it completes: of the noise bank, of slot 64, of a gallery's slot. -/
theorem exec_kybAck_of_some (h : takeFirst (fun (o : KybOp) => decide (o.wing = w.val) && (o.noise == target)) s.path.kyb = some (o, rest)) :
    exec (.kybAck w target status) s = .next (
      let u := { s with path := { s.path with kyb := rest } }
      if o.noise then u
      else if 64 ≤ o.slot then (if o.op = 0 then (u.controlLoaded o).smpFlush else u)
      else if o.op = 0 then (u.keyLoaded o).smpFlush.flushReplies
      else u.updGal o.slot fun x => { x with erasing := x.erasing.filter (· != o.wing) }) := by
  change execKybAck w target status s = _
  simp only [execKybAck, hd, h, Bool.false_eq_true, if_false, apply_ite Host.Outcome.next]
  rfl

end

theorem State.keyLoaded_galleries (s : State) (o : KybOp) :
    (s.keyLoaded o).galleries = (s.updGal o.slot fun x => { x with loaded := o.wing :: x.loaded.filter (· != o.wing) }).galleries := rfl

theorem State.mem_loaded_keyLoaded (s : State) (o : KybOp) : o.wing ∈ ((s.keyLoaded o).smpFlush.flushReplies.galAt o.slot).loaded := by
  have hgal := (s.keyLoaded o).smpFlush.flushReplies_galleries.trans (s.keyLoaded o).smpFlush_keeps.1
  rw [State.galAt_congr (hgal.trans (s.keyLoaded_galleries o)), State.galAt_updGal, if_pos rfl]
  exact List.mem_cons_self

theorem State.mem_ctlLoaded_controlLoaded (s : State) (o : KybOp) : o.wing ∈ (s.controlLoaded o).smpFlush.path.ctlLoaded := by
  rw [(s.controlLoaded o).smpFlush_keeps.2]
  exact List.mem_cons_self

/-- Settles O45: a response by its tag, an acknowledgement by the bank, the slot and the kind of the operation it completes. -/
theorem sideBandResponses : Obligations.SideBandResponses := by
  unfold Obligations.SideBandResponses
  refine ⟨fun tag status data s hd => ⟨exec_smpResponse_of_unknown hd status data, fun q hq => exec_smpResponse_of_outstanding hd status data hq⟩,
    fun w target status s hd => ⟨exec_kybAck_of_none hd status, fun o rest ho => ?_⟩⟩
  have hexec := exec_kybAck_of_some hd status ho
  dsimp only at hexec ⊢
  refine ⟨fun hn => ?_, fun hn hslot hop => ?_, fun hn hslot hop => ?_, fun hn hslot hop => ?_, fun hn hslot hop => ?_⟩
  · rw [hexec, if_pos hn]
  · rw [hexec, if_neg (by simp [hn]), if_neg (by omega), if_neg hop]
  · rw [if_neg (by simp [hn]), if_neg (by omega), if_pos hop] at hexec
    exact ⟨_, hexec, State.mem_loaded_keyLoaded ..⟩
  · rw [if_neg (by simp [hn]), if_pos hslot, if_pos hop] at hexec
    exact ⟨_, hexec, State.mem_ctlLoaded_controlLoaded ..⟩
  · rw [hexec, if_neg (by simp [hn]), if_pos hslot, if_neg hop]

end Sys2Proof.Machine
end

section
/-! SUPPORT. Intake windows and the beats they take: the rows that open and close a window, one beat of CIP, and a row area given back (R51, R182, R193, R229, R231, R238). -/

namespace Sys2Proof.Machine

open Sys2Proof.Bytes

/-! ## Windows open and close (R51, R182, R238) -/

section
variable {w : Fin 4} {k : Nat} {s : State} {t : Step} {win : Window}

section
variable (hd : s.dead = false) (hrun : (s.wingAt w.val).running = some t) (hwin : t.shape.windows[k]? = some win)
include hd hrun hwin

theorem exec_windowOpen_of_active (hact : s.active .intake = true) (hopen : t.openWindows.contains k = false)
    (hclosed : t.closedWindows.contains k = false) (hdue : t.startAt + win.openAt ≤ s.now) :
    exec (.windowOpen w k) s = .next (s.updStep w.val t.tag fun y => { y with openWindows := k :: y.openWindows }) := by
  have hnotDue : ¬ s.now < t.startAt + win.openAt := by omega
  change execWindowOpen w k s = _
  simp only [execWindowOpen, hd, hrun, hwin, hopen, hclosed, hact, hnotDue, decide_false, Bool.or_self, Bool.not_true, Bool.and_false,
    Bool.false_eq_true, if_false]

/-- A window closes at the end of its CLOSE tick; a WINDOW_CLOSE that comes later closes it at once (R238). -/
theorem exec_windowClose_of_open (hclosed : t.closedWindows.contains k = false) (hclosing : t.closing.contains k = false)
    (hdue : t.startAt + win.closeAt ≤ s.now) :
    exec (.windowClose w k) s = .next (if s.now = t.startAt + win.closeAt then s.updStep w.val t.tag fun y => { y with closing := k :: y.closing }
      else s.closeWindow w.val k) := by
  have hnotDue : ¬ s.now < t.startAt + win.closeAt := by omega
  change execWindowClose w k s = _
  simp only [execWindowClose, hd, hrun, hwin, hclosed, hclosing, hnotDue, decide_false, Bool.or_self, Bool.false_eq_true, if_false,
    apply_ite Host.Outcome.next]

end

/-- The state with a window of the running step closed, the last close noted with the last window (R182, R238). -/
def State.windowClosed (s : State) (i k : Nat) (t : Step) (win : Window) : State :=
  s.updStep i t.tag fun y => { y with
    openWindows := y.openWindows.filter (· != k), closedWindows := k :: y.closedWindows, closing := y.closing.filter (· != k)
    lastClose := if t.closedWindows.length + 1 = t.shape.windows.length then some (BitVec.ofNat 64 (t.startAt + win.closeAt)) else y.lastClose }

/-- A row that lacks headers or bursts as its window closes discards the step as incomplete (R238). -/
theorem State.closeWindow_eq {i : Nat} (hrun : (s.wingAt i).running = some t) (hwin : t.shape.windows[k]? = some win) :
    s.closeWindow i k = if t.overlaps s = false ∧ t.discarded = 0 ∧ t.lacksRow win = true then
      ((s.windowClosed i k t win).breach i t.tag brIncomplete).discardRunning i 2 else s.windowClosed i k t win := by
  unfold State.closeWindow
  rw [hrun]
  dsimp only
  rw [hwin]
  simp only [State.windowClosed, decide_eq_true_eq, Bool.and_eq_true, Bool.not_eq_true', and_assoc]

theorem State.closeDue_of_one {i : Nat} (hrun : (s.wingAt i).running = some t) (hclosing : t.closing = [k]) :
    s.closeDue i = s.closeWindow i k := by
  unfold State.closeDue
  rw [hrun]
  dsimp only
  rw [hclosing]
  rfl

/-! ## Row areas given back (R229) -/

theorem exec_rowAreaFree_of_read {row : Nat} (hd : s.dead = false)
    (ht : ((s.wingAt w.val).tails ++ (s.wingAt w.val).running.toList).find? (fun t => t.released.contains row && !t.freed.contains row
      && (List.range (t.shape.specWidth + 1)).all fun d => t.read.contains (unitKey row d)) = some t) :
    exec (.rowAreaFree w row) s = .next (s.updStep w.val t.tag fun y => { y with
      freed := row :: y.freed, bursts := y.bursts.filter fun b => (offsetIn (intakeBursts s.kpr.size) y.shape row b.1).isNone }) := by
  change execRowAreaFree w row s = _
  simp only [execRowAreaFree, hd, ht, Bool.false_eq_true, if_false]

end

/-! ## Beats (R51, R193, R231) -/

section
variable {s : State} {i : Nat} {t : Step}

theorem exec_candidateBurst_of_ready {w : Fin 4} (addr : Nat) (data : List Byte) (hd : s.dead = false) (hready : s.cipReady = true) :
    exec (.candidateBurst w addr 1 0 data) s = .next (s.beat w.val (decide (addr < intakeBursts s.kpr.size)) [(addr, false, slice data 0 64)]) := by
  change execCandidateBurst w addr 1 0 data s = _
  simp [execCandidateBurst, hd, hready]

theorem exec_shardHeader_of_ready {w : Fin 4} (addr : Nat) (data : List Byte) (hd : s.dead = false) (hready : s.cipReady = true) :
    exec (.shardHeader w addr true data) s = .next (s.beat w.val (decide (addr < intakeBursts s.kpr.size)) [(addr, true, slice data 0 64)]) := by
  change execShardHeader w addr true data s = _
  simp [execShardHeader, hd, hready]

/-- A beat that finds no window open breaches WINDOW (R51, R193). -/
theorem State.beat_of_shut {bs : List (Nat × Bool × List Byte)} (ok : Bool) (hrun : (s.wingAt i).running = some t) (hbs : bs ≠ [])
    (hshut : t.windowOpen s = false) : s.beat i ok bs = (s.count 9 (8 + i) 1).breach i t.tag brWindow := by
  unfold State.beat
  rw [hrun]
  simp [hbs, hshut]

/-- A freeing changes the freed rows and the bursts alone (R229). -/
theorem Step.freeAreas_keeps (t : Step) (n : Nat) : (t.freeAreas n).tag = t.tag ∧ (t.freeAreas n).headers = t.headers
    ∧ (t.freeAreas n).released = t.released :=
  List.foldlRecOn (motive := fun y : Step => y.tag = t.tag ∧ y.headers = t.headers ∧ y.released = t.released) _ _ ⟨rfl, rfl, rfl⟩
    fun _ hy _ _ => hy

/-- The running step behind a change of the step of its tag. -/
theorem State.running_updStep (f : Step → Step) (hrun : (s.wingAt i).running = some t) :
    ((s.updStep i t.tag f).wingAt i).running = some (f t) := by
  rw [State.updStep, State.wingAt_updWing, if_pos rfl]
  simp [Wing.mapBegun, hrun]

theorem State.wingAt_count (s : State) (g n m j : Nat) : (s.count g n m).wingAt j = s.wingAt j := by
  rw [State.wingAt, State.count_wings]
  rfl

/-- A candidate burst at a place of a row not yet released, whose shard's header has not come, is stored (R231). -/
theorem State.burstArrives_of_candidate {p : Nat} {q : Place} (bs : List Byte) (hrun : (s.wingAt i).running = some t)
    (hplace : t.place (intakeBursts s.kpr.size) p = some q) (hrel : t.released.contains q.row = false) (hburst : q.burst ≠ q.win.candBursts)
    (hhead : SMap.find t.headers (headerKey q.row q.slot q.shard) = none) :
    s.burstArrives i p false bs = (s.wrote 7).updStep i t.tag fun y => { y with bursts := SMap.put y.bursts p (slice bs 0 64) } := by
  unfold State.burstArrives
  rw [hrun]
  dsimp only
  rw [hplace]
  simp only [hrel, hburst, hhead, Option.isSome_none, Bool.or_self, Bool.false_eq_true, if_false]

/-- A beat of one burst in an open window, at a place that takes it, is that burst behind the freeings that are due (R231, R242). -/
theorem State.beat_of_one {p : Nat} {q : Place} (marked : Bool) (bs : List Byte) (hrun : (s.wingAt i).running = some t)
    (hopen : t.windowOpen s = true) (hdisc : t.discarded = 0)
    (hplace : (t.freeAreas (intakeBursts s.kpr.size)).place (intakeBursts s.kpr.size) p = some q) (hrel : t.released.contains q.row = false) :
    s.beat i true [(p, marked, bs)] =
      ((s.count 9 (8 + i) 1).updStep i t.tag fun y => y.freeAreas (intakeBursts s.kpr.size)).burstArrives i p marked bs := by
  have htakes : (t.freeAreas (intakeBursts s.kpr.size)).takes (intakeBursts s.kpr.size) p = true := by
    rw [Step.takes, hplace, (t.freeAreas_keeps _).2.2, Option.map_some, hrel]
    rfl
  unfold State.beat
  rw [hrun]
  simp [hopen, hdisc, htakes]

/-- The running step after a candidate burst that is stored. -/
theorem State.running_beat_of_candidate {p : Nat} {q : Place} (bs : List Byte) (hrun : (s.wingAt i).running = some t)
    (hopen : t.windowOpen s = true) (hdisc : t.discarded = 0)
    (hplace : (t.freeAreas (intakeBursts s.kpr.size)).place (intakeBursts s.kpr.size) p = some q) (hrel : t.released.contains q.row = false)
    (hburst : q.burst ≠ q.win.candBursts) (hhead : SMap.find t.headers (headerKey q.row q.slot q.shard) = none) :
    ((s.beat i true [(p, false, bs)]).wingAt i).running = some { t.freeAreas (intakeBursts s.kpr.size) with
      bursts := SMap.put (t.freeAreas (intakeBursts s.kpr.size)).bursts p (slice bs 0 64) } := by
  obtain ⟨htag, hheaders, hreleased⟩ := t.freeAreas_keeps (intakeBursts s.kpr.size)
  have hcounted : ((s.count 9 (8 + i) 1).wingAt i).running = some t := by rw [State.wingAt_count, hrun]
  have hfreed := State.running_updStep (fun y => y.freeAreas (intakeBursts s.kpr.size)) hcounted
  have hsize : ((s.count 9 (8 + i) 1).updStep i t.tag fun y => y.freeAreas (intakeBursts s.kpr.size)).kpr.size = s.kpr.size :=
    congrArg Kpr.size (State.count_kpr s 9 (8 + i) 1)
  rw [State.beat_of_one false bs hrun hopen hdisc hplace hrel,
    State.burstArrives_of_candidate bs hfreed (by rw [hsize]; exact hplace) (by rw [hreleased]; exact hrel) hburst (by rw [hheaders]; exact hhead)]
  exact State.running_updStep _ hfreed

end

/-- Settles O43: a window by its ticks, a beat by whether a window is open and its place takes it, a row area by the units read. -/
theorem windowsTakeCandidates : Obligations.WindowsTakeCandidates := by
  unfold Obligations.WindowsTakeCandidates
  refine ⟨fun w k s t win hd hrun hwin => ⟨exec_windowOpen_of_active hd hrun hwin, fun hclosed hclosing =>
      ⟨fun hnow => ?_, fun hlate => ?_, State.closeWindow_eq hrun hwin⟩⟩,
    fun s w k t => State.closeDue_of_one,
    fun w addr data s hd hready => ⟨exec_candidateBurst_of_ready addr data hd hready, exec_shardHeader_of_ready addr data hd hready⟩,
    fun w ok bs s t => State.beat_of_shut ok,
    fun w p bs s t q hrun hopen hdisc hplace hrel hburst hhead =>
      ⟨_, State.running_beat_of_candidate bs hrun hopen hdisc hplace hrel hburst hhead, ?_, (t.freeAreas_keeps _).2⟩,
    fun w row s t hd => exec_rowAreaFree_of_read hd⟩
  · rw [exec_windowClose_of_open hd hrun hwin hclosed hclosing (Nat.le_of_eq hnow.symm), if_pos hnow]
  · rw [exec_windowClose_of_open hd hrun hwin hclosed hclosing (Nat.le_of_lt hlate), if_neg (Nat.ne_of_gt hlate)]
  · rw [SMap.find_put, if_pos rfl]

end Sys2Proof.Machine
end

section
/-! SUPPORT. What the time-outs of a pair bring: a failure detected, the end of the 5 ms behind the tick, a join given up; and that an interrupt, a report or a reply leaves FENCE_REQ (R65, R88, R341, R351, R361, R362). -/

namespace Sys2Proof.Machine

/-! ## What leaves FENCE_REQ (R65) -/

theorem State.requestMsg_fenceReq (s : State) (v : Nat) : (s.requestMsg v).kpr.fenceReq = s.kpr.fenceReq := by
  unfold State.requestMsg
  split <;> rfl

theorem State.raiseVec_fenceReq (s : State) (v : Nat) : (s.raiseVec v).kpr.fenceReq = s.kpr.fenceReq := by
  unfold State.raiseVec
  dsimp only
  split
  · exact State.requestMsg_fenceReq _ v
  · rfl

theorem State.halt_fenceReq (s : State) : s.halt.kpr.fenceReq = s.kpr.fenceReq := by
  unfold State.halt
  split
  · rfl
  · dsimp only
    rw [State.event_kpr]

/-- A report, dropped or written, with a halt that it triggers or without. -/
theorem State.report_fenceReq (s : State) (code sev unit wing gal : Nat) (detail : List Nat) :
    (s.report code sev unit wing gal detail).kpr.fenceReq = s.kpr.fenceReq := by
  have hhalt (p : Prop) [Decidable p] (u : State) : (if p then u.halt else u).kpr.fenceReq = u.kpr.fenceReq := by
    split
    · exact u.halt_fenceReq
    · rfl
  unfold State.report
  dsimp only
  rw [hhalt]
  split
  · rw [State.count_kpr]
    split <;> rfl
  · rw [State.raiseVec_fenceReq, State.count_kpr, State.event_kpr]

theorem State.writeReply_fenceReq (s : State) (i op gallery tag status : Nat) (seq : W32) (ktime : W64) (data : List Byte) :
    (s.writeReply i op gallery tag status seq ktime data).kpr.fenceReq = s.kpr.fenceReq := by
  unfold State.writeReply
  dsimp only
  rw [State.event_kpr, State.raiseVec_fenceReq]
  rfl

theorem State.flushReplies_fenceReq (s : State) : s.flushReplies.kpr.fenceReq = s.kpr.fenceReq := by
  refine List.foldlRecOn (motive := fun t : State => t.kpr.fenceReq = s.kpr.fenceReq) s.rings.replies _ rfl fun t ht r _ => ?_
  split
  · exact (State.writeReply_fenceReq ..).trans ht
  · exact ht

/-- A wake or a Keeper's interrupt, which a post may raise. -/
theorem State.postNotice_fenceReq (s : State) (n : Nat) : (s.postNotice n).kpr.fenceReq = s.kpr.fenceReq := by
  unfold State.postNotice
  dsimp only
  split
  · rw [(s.wake_kpr_pair _).1]
  · split
    · exact State.raiseVec_fenceReq _ 15
    · rfl

theorem State.controlPost_fenceReq (s : State) (n type word0 : Nat) : (s.controlPost n type word0).kpr.fenceReq = s.kpr.fenceReq := by
  unfold State.controlPost State.postMessage
  dsimp only
  rw [State.postNotice_fenceReq]
  split <;> rfl

/-! ## A change of the pair's state (R341) -/

/-- It changes the state of the pair, and nothing else of it. -/
theorem State.setPair_pair (s : State) (n : PairState) : (s.setPair n).pair = { s.pair with state := n } := by
  unfold State.setPair
  split
  case isTrue h =>
    subst h
    rfl
  case isFalse => exact (State.raiseVec_pair _ 13).trans (State.event_pair ..)

theorem State.setPair_fenceReq (s : State) (n : PairState) : (s.setPair n).kpr.fenceReq = s.kpr.fenceReq := by
  unfold State.setPair
  split
  · rfl
  · exact (State.raiseVec_fenceReq _ 13).trans (congrArg Kpr.fenceReq (State.event_kpr ..))

/-! ## Detection and its end (R341, R361, R362, R371) -/

/-- A failure detected begins FENCING, asks for the fence and opens the journal at phase 1 (R361). -/
theorem State.detectFailure_spec {s : State} (h : s.pair.state = .paired ∨ s.pair.state = .joining) :
    s.detectFailure.pair.state = .fencing ∧ s.detectFailure.kpr.fenceReq = true ∧ s.detectFailure.pair.journal = some (1, s.kpr.ktime)
      ∧ s.detectFailure.pair.before = s.pair.state := by
  have hon : (s.pair.state == .paired || s.pair.state == .joining) = true := by simpa using h
  unfold State.detectFailure
  rw [if_pos hon]
  dsimp only
  simp only [State.ledgerAdd_pair, State.ledgerAdd_kpr, State.count_pair, State.count_kpr, State.setPair_pair, State.setPair_fenceReq, and_self]

theorem State.detectFailure_of_other {s : State} (hp : s.pair.state ≠ .paired) (hj : s.pair.state ≠ .joining) : s.detectFailure = s := by
  unfold State.detectFailure
  rw [if_neg (by simp [hp, hj])]

theorem State.clearMirrorMap_kpr (s : State) : s.clearMirrorMap.kpr = s.kpr :=
  List.foldlRecOn (motive := fun t : State => t.kpr = s.kpr) s.pair.mirrorMap _ rfl fun t ht _ _ => (t.smpPut_keeps _).1.trans ht

theorem State.mapReqs_kpr (s : State) (f : Req → Req) : (s.mapReqs f).kpr = s.kpr := rfl

theorem State.dropJournal_kpr (s : State) : s.dropJournal.kpr = s.kpr := rfl

theorem State.endSession_kpr (s : State) : s.endSession.kpr = s.kpr := rfl

/-- FENCE_REQ stays up as the member becomes DEGRADED (R65, R368). -/
theorem State.enterDegraded_fenceReq (s : State) : s.enterDegraded.kpr.fenceReq = s.kpr.fenceReq := by
  unfold State.enterDegraded
  dsimp only
  rw [State.flushReplies_fenceReq, State.endSession_kpr, State.dropJournal_kpr, State.ledgerAdd_kpr, State.report_fenceReq, State.setPair_fenceReq,
    State.clearMirrorMap_kpr, State.mapReqs_kpr]

/-- A fence withdrawn: FENCE_REQ falls, the journal is discarded, and a member that is still FENCING returns to its earlier state (R362). -/
theorem State.withdrawFence_spec {s : State} (h : s.kpr.fenceReq = true) : s.withdrawFence.kpr.fenceReq = false
    ∧ s.withdrawFence.pair.journal = none
    ∧ (s.pair.state = .fencing → s.withdrawFence.pair.state = s.pair.before)
    ∧ (s.pair.state ≠ .fencing → s.withdrawFence.pair.state = s.pair.state) := by
  have hpair := (s.lowerFence.dropJournal.controlPost_keeps 2 0x21 (1 - s.side)).2
  have hreq := s.lowerFence.dropJournal.controlPost_fenceReq 2 0x21 (1 - s.side)
  unfold State.withdrawFence
  rw [if_pos h]
  dsimp only
  split
  case isTrue hf =>
    rw [State.setPair_fenceReq, State.setPair_pair, hpair, hreq]
    exact ⟨rfl, rfl, fun _ => rfl, fun hn => absurd (eq_of_beq hf) hn⟩
  case isFalse hf =>
    rw [hpair, hreq]
    exact ⟨rfl, rfl, fun hs => absurd (beq_of_eq hs) hf, fun _ => rfl⟩

/-- A tick in which nothing withdraws the fence (R371). -/
theorem State.fenceTick_of_not_withdrawn {s : State} (h : s.pair.withdrawDue = false) :
    s.fenceTick = let u : State := { s with pair := { s.pair with expireDue := false } }
      if s.pair.expireDue && s.pair.state == .fencing then u.enterDegraded else u := by
  simp only [State.fenceTick, h, Bool.false_eq_true, if_false]

theorem State.fenceTick_of_withdrawn {s : State} (h : s.pair.withdrawDue = true) :
    s.fenceTick = State.withdrawFence { s with pair := { s.pair with withdrawDue := false, expireDue := false } } := by
  unfold State.fenceTick
  rw [if_pos h]

/-! ## The time-outs (R341, R351, R361) -/

section
variable {s : State}

theorem exec_heartbeatTimeout_of_frame {t : W64} (ht : s.pair.lastFrame = some t) :
    exec .heartbeatTimeout s = .next (if t.toNat + 31000 ≤ s.now then s.detectFailure else s) := by
  change execHeartbeatTimeout s = _
  unfold execHeartbeatTimeout
  rw [ht]

theorem exec_fenceTimeout_of_fencing (hf : s.pair.state = .fencing) : exec .fenceTimeout s = .next (
    if s.pair.detectedAt.toNat + 500000 ≤ s.now then { s with pair := { s.pair with expireDue := true } } else s) := by
  change execFenceTimeout s = _
  simp [execFenceTimeout, hf]

theorem exec_fenceTimeout_of_not_fencing (hf : s.pair.state ≠ .fencing) : exec .fenceTimeout s = .next s := by
  change execFenceTimeout s = _
  simp [execFenceTimeout, hf]

theorem exec_helloTimeout_of_sent {t : W64} (hd : s.dead = false) (ht : s.pair.helloSent = some t) (hj : s.pair.state = .joining)
    (hs : s.pair.session = false) :
    exec .helloTimeout s = .next (if t.toNat + 10000000 ≤ s.now then s.failJoin stPairDegraded else s) := by
  change execHelloTimeout s = _
  simp [execHelloTimeout, hd, ht, hj, hs]

end

/-- Settles O49: the time-outs by their ticks, the end of the tick by what is due in it. -/
theorem pairTimeouts : Obligations.PairTimeouts := by
  unfold Obligations.PairTimeouts
  refine ⟨fun s t => exec_heartbeatTimeout_of_frame, fun s => State.detectFailure_spec, fun s => State.detectFailure_of_other,
    fun s => exec_fenceTimeout_of_fencing, fun s => exec_fenceTimeout_of_not_fencing,
    fun s hw => ⟨fun he hf => ?_, fun hnot => ?_⟩, fun s hw hreq => ?_, fun s t => exec_helloTimeout_of_sent⟩
  · have htick : s.fenceTick = _ := (State.fenceTick_of_not_withdrawn hw).trans (if_pos (by rw [he, hf]; rfl))
    rw [htick]
    exact ⟨rfl, State.enterDegraded_fenceReq _⟩
  · refine (State.fenceTick_of_not_withdrawn hw).trans (if_neg ?_)
    rcases hnot with he | hf
    · simp [he]
    · simp [hf]
  · rw [State.fenceTick_of_withdrawn hw]
    exact State.withdrawFence_spec hreq

end Sys2Proof.Machine
end

section
/-! SUPPORT. The step and KTIME: what a step runs, the memory at reset, and what each command leaves of KTIME (R69, R80, R92). -/

namespace Sys2Proof.Machine

/-! ## A step (R69, R92) -/

theorem step_of_pending {s : State} {c : Instr} {rest : List Instr} (h : s.pending = c :: rest) :
    step s = exec c { s with pending := rest } := by
  unfold step
  rw [h]

theorem step_of_idle {s : State} (h : s.pending = []) : step s = .next s.tick := by
  unfold step
  rw [h]

/-- Settles O1: the queue is empty or has a front. -/
theorem stepRunsTheFrontCommand : Obligations.StepRunsTheFrontCommand := by
  unfold Obligations.StepRunsTheFrontCommand
  exact ⟨fun s c rest h => step_of_pending h, fun s h => step_of_idle h⟩

/-- Settles O4: no byte stands in the memory at reset, and a byte that is not there reads zero. -/
theorem resetMemoryReadsZero : Obligations.ResetMemoryReadsZero := by
  unfold Obligations.ResetMemoryReadsZero
  have hmem : State.reset.mem = [] := rfl
  rw [hmem]
  exact ⟨rfl, fun a => rfl, rfl⟩

/-! ## KTIME (R69) -/

/-- What a command leaves of KTIME: the rise of POR_N sets it to zero, every other act keeps it. -/
theorem exec_ktime {c : Instr} {s t : State} (e : exec c s = .next t) :
    t.kpr.ktime = if c = .resetRelease .por ∧ s.kpr.porLow = true then 0 else s.kpr.ktime := by
  by_cases hu : ∃ ring, c = .serviceUnlock ring
  · obtain ⟨ring, rfl⟩ := hu
    rw [if_neg (by simp)]
    exact (execServiceUnlock_based ring s t e).2
  by_cases hr : ∃ pin, c = .resetRelease pin
  · obtain ⟨pin, rfl⟩ := hr
    obtain ⟨-, -, hktime⟩ := execResetRelease_based pin s t (Based.refl s) e
    simpa only [Instr.resetRelease.injEq] using hktime
  rw [if_neg fun h => hr ⟨.por, h.1⟩]
  have hk : KeptOut s (exec c s) := exec_kept s (not_exists.mp hu) (not_exists.mp hr)
  rw [e] at hk
  obtain ⟨-, hktime, -⟩ := hk
  exact hktime

/-- Settles O5: the tick by what it adds, the commands by what each leaves of KTIME. -/
theorem ktimeCountsTicksAndNothingElse : Obligations.KtimeCountsTicksAndNothingElse := by
  unfold Obligations.KtimeCountsTicksAndNothingElse
  refine ⟨fun s => ?_, fun s hlow => ?_, fun c s t e hpor => ?_⟩
  · obtain ⟨-, hktime, -⟩ := State.tick_based s (Based.refl s)
    exact hktime
  · obtain ⟨t, ht⟩ := exec_answersNext (.resetRelease .por) s
    exact ⟨t, ht, (exec_ktime ht).trans (if_pos ⟨rfl, hlow⟩)⟩
  · refine (exec_ktime e).trans (if_neg ?_)
    rintro ⟨hc, hlow⟩
    exact Bool.false_ne_true ((hpor hc).symm.trans hlow)

end Sys2Proof.Machine
end

section
/-! SUPPORT. The consumer and producer indices that are written, and the Keeper's registers with a row, each write by the word it brings (R81, R90, R307, R395, R408, R413, R431). -/

namespace Sys2Proof.Machine

open Sys2Proof.Safety

/-! ## Indices of the rings (R90, R307) -/

section
variable {s : State} {mid : Byte} {i : Fin 8}

/-- DBL_CMD_PI of pair i is the first of the pair's registers. -/
theorem State.writeDbl_cmdPi (s : State) (i : Fin 8) (v : Nat) : s.writeDbl (0x2000 + i.val * 0x20) v = s.writeCmdPi i.val v := by
  have hi : (0x2000 + i.val * 0x20 - 0x2000) / 0x20 = i.val := by omega
  have hoff : (0x2000 + i.val * 0x20) % 0x20 = 0x00 := by omega
  simp only [State.writeDbl, if_pos (show 0x2000 + i.val * 0x20 < 0x2100 by omega), hi, hoff]

/-- DBL_RPL_CI of pair i stands at 0x14 of the pair's registers. -/
theorem State.writeDbl_rplCi (s : State) (i : Fin 8) (v : Nat) : s.writeDbl (0x2014 + i.val * 0x20) v = s.writeRplCi i.val v := by
  have hi : (0x2014 + i.val * 0x20 - 0x2000) / 0x20 = i.val := by omega
  have hoff : (0x2014 + i.val * 0x20) % 0x20 = 0x14 := by omega
  simp only [State.writeDbl, if_pos (show 0x2014 + i.val * 0x20 < 0x2100 by omega), hi, hoff]

/-- DBL_RES_CI of ring i stands at 0x04 of the ring's registers. -/
theorem State.writeDbl_resCi (s : State) (i : Fin 8) (v : Nat) : s.writeDbl (0x2204 + i.val * 0x10) v = s.writeResCi i.val v := by
  have hi : (0x2204 + i.val * 0x10 - 0x2200) / 0x10 = i.val := by omega
  have hoff : (0x2204 + i.val * 0x10) % 0x10 = 0x04 := by omega
  simp only [State.writeDbl, if_neg (show ¬ 0x2204 + i.val * 0x10 < 0x2100 by omega),
    if_pos (show 0x2200 ≤ 0x2204 + i.val * 0x10 ∧ 0x2204 + i.val * 0x10 < 0x2280 by omega), hi, hoff]

/-- A doorbell of a pair that is not being reset. -/
theorem State.writeCmdPi_of_not_busy {n : Nat} (v : Nat) (hb : (s.pairAt n).resetBusy = false) :
    s.writeCmdPi n v =
      if occupancy (BitVec.ofNat 13 v) (s.pairAt n).cmdCi ≤ 4096 then (s.updPair n fun q => { q with cmdPi := BitVec.ofNat 13 v }).wake [.control]
      else (s.updPair n fun q => { q with piErr := true }).mark (8 + n) := by
  simp only [State.writeCmdPi, hb, Bool.false_eq_true, if_false]

theorem State.writeRplCi_of_not_busy {n : Nat} (v : Nat) (hb : (s.pairAt n).resetBusy = false) :
    s.writeRplCi n v =
      if ciAccepted (s.pairAt n).rplPi (s.pairAt n).rplCi (BitVec.ofNat 13 v) then s.updPair n fun q => { q with rplCi := BitVec.ofNat 13 v }
      else (s.updPair n fun q => { q with ciErr := true }).mark n := by
  simp only [State.writeRplCi, hb, Bool.false_eq_true, if_false]

theorem State.writeResCi_of_not_busy {n : Nat} (v : Nat) (hb : (s.resAt n).resetBusy = false) :
    s.writeResCi n v =
      if ciAccepted (s.resAt n).pi (s.resAt n).ci (BitVec.ofNat 13 v) then s.updRes n fun q => { q with ci := BitVec.ofNat 13 v }
      else (s.updRes n fun q => { q with ciErr := true }).mark (16 + n) := by
  simp only [State.writeResCi, hb, Bool.false_eq_true, if_false]

theorem exec_doorbell (v : W32) (h : Reaches s .hif mid (0x2000 + i.val * 0x20) 4) :
    exec (.doorbell mid i v) s = .next ((s.writeCmdPi i.val v.toNat).respond mid true []) := by
  change Host.Outcome.next (s.write4 .hif mid (0x2000 + i.val * 0x20) v) = _
  rw [State.write4_dbl v h (by omega) (by omega), State.writeDbl_cmdPi]

theorem exec_dblRplCi (v : W32) (h : Reaches s .hif mid (0x2014 + i.val * 0x20) 4) :
    exec (.dblRplCi mid i v) s = .next ((s.writeRplCi i.val v.toNat).respond mid true []) := by
  change Host.Outcome.next (s.write4 .hif mid (0x2014 + i.val * 0x20) v) = _
  rw [State.write4_dbl v h (by omega) (by omega), State.writeDbl_rplCi]

theorem exec_dblResCi (v : W32) (h : Reaches s .hif mid (0x2204 + i.val * 0x10) 4) :
    exec (.dblResCi mid i v) s = .next ((s.writeResCi i.val v.toNat).respond mid true []) := by
  change Host.Outcome.next (s.write4 .hif mid (0x2204 + i.val * 0x10) v) = _
  rw [State.write4_dbl v h (by omega) (by omega), State.writeDbl_resCi]

/-! ## Indices of the condition ring and of the Daybook (R395, R408) -/

/-- CNS_CI takes an index that its ring allows, and notes any other as an error of this tick. -/
theorem State.writeCns_ci (s : State) (v : Nat) : s.writeCns 0x610004 v =
    if ciAccepted s.logs.cnsPi s.logs.cnsCi (BitVec.ofNat 11 v) then { s with logs := { s.logs with cnsCi := BitVec.ofNat 11 v } }
    else ({ s with logs := { s.logs with cnsErr := true } } : State).mark 25 := by
  cases h : ciAccepted s.logs.cnsPi s.logs.cnsCi (BitVec.ofNat 11 v) <;> simp [State.writeCns, State.markIf, h]

/-- DBK_CI does the same for the Daybook. -/
theorem State.writeDbk_ci (s : State) (v : Nat) : s.writeDbk 0x5C0004 v =
    if ciAccepted s.logs.dbkPi s.logs.dbkCi (BitVec.ofNat 14 v) then { s with logs := { s.logs with dbkCi := BitVec.ofNat 14 v } }
    else ({ s with logs := { s.logs with dbkErr := true } } : State).mark 24 := by
  cases h : ciAccepted s.logs.dbkPi s.logs.dbkCi (BitVec.ofNat 14 v) <;> simp [State.writeDbk, State.markIf, h]

theorem exec_cnsCi (v : W32) (h : Reaches s .hif mid 0x610004 4) :
    exec (.cnsCi mid v) s = .next ((s.writeCns 0x610004 v.toNat).respond mid true []) :=
  congrArg Host.Outcome.next (State.write4_of_reaches v h rfl)

theorem exec_dbkCi (v : W32) (h : Reaches s .hif mid 0x5C0004 4) :
    exec (.dbkCi mid v) s = .next ((s.writeDbk 0x5C0004 v.toNat).respond mid true []) :=
  congrArg Host.Outcome.next (State.write4_of_reaches v h rfl)

end

/-- Settles O28: each write by its register, and the register by whether the index is allowed. -/
theorem indicesAreTakenOrFlagged : Obligations.IndicesAreTakenOrFlagged := by
  unfold Obligations.IndicesAreTakenOrFlagged
  refine ⟨fun mid i v s h hb => ?_, fun mid i v s h hb => ?_, fun mid i v s h hb => ?_, fun mid v s h => ?_, fun mid v s h => ?_⟩
  · rw [exec_doorbell v h, State.writeCmdPi_of_not_busy v.toNat hb]
  · rw [exec_dblRplCi v h, State.writeRplCi_of_not_busy v.toNat hb]
  · rw [exec_dblResCi v h, State.writeResCi_of_not_busy v.toNat hb]
  · rw [exec_cnsCi v h, State.writeCns_ci]
  · rw [exec_dbkCi v h, State.writeDbk_ci]

/-! ## Messages of the interrupt vectors (R431) -/

/-- The message of vector k is with the endpoint, or waits for it. -/
def State.msgDue (s : State) (k : Nat) : Prop := s.kpr.irqSent = some (BitVec.ofNat 4 k) ∨ s.kpr.irqWait.getLsbD k = true

/-- What the messages leave: PENDING, MASK, the rings, the memory. -/
def State.besideMsgs (s : State) : W16 × W16 × Rings × Memory := (s.kpr.irqPending, s.kpr.irqMask, s.rings, s.mem)

/-- Vector v's bit of a 16-bit register. -/
theorem getLsbD_vecBit (v : Nat) {k : Nat} (hk : k < 16) : (BitVec.ofNat 16 (2 ^ v)).getLsbD k = decide (v = k) := by
  rw [BitVec.getLsbD_ofNat, Nat.testBit_two_pow, decide_eq_true hk, Bool.true_and]

/-- Taking vector v out of a register leaves the other vectors. -/
theorem getLsbD_and_not_vecBit (x : W16) (v : Nat) {k : Nat} (hk : k < 16) :
    (x &&& ~~~BitVec.ofNat 16 (2 ^ v)).getLsbD k = (x.getLsbD k && !decide (v = k)) := by
  rw [BitVec.getLsbD_and, BitVec.getLsbD_not, getLsbD_vecBit v hk, decide_eq_true hk, Bool.true_and]

theorem ofNat_vec_inj {v k : Nat} (hv : v < 16) (hk : k < 16) (h : BitVec.ofNat 4 v = BitVec.ofNat 4 k) : v = k := by
  have h := congrArg BitVec.toNat h
  rw [BitVec.toNat_ofNat, BitVec.toNat_ofNat] at h
  omega

section
variable {s : State} {v k : Nat}

/-- A request sends its message or lets it wait. -/
theorem State.msgDue_requestMsg_same (hv : v < 16) : (s.requestMsg v).msgDue v := by
  unfold State.requestMsg
  split
  · exact .inl rfl
  · refine .inr ?_
    change (s.kpr.irqWait ||| BitVec.ofNat 16 (2 ^ v)).getLsbD v = true
    rw [BitVec.getLsbD_or, getLsbD_vecBit v hv, decide_eq_true rfl, Bool.or_true]

/-- A request loses no message of another vector. -/
theorem State.msgDue_requestMsg (h : s.msgDue k) : (s.requestMsg v).msgDue k := by
  unfold State.requestMsg
  split
  case h_1 hfree =>
    have hwait : s.kpr.irqWait.getLsbD k = true := h.resolve_left (by rw [hfree]; nofun)
    exact .inr hwait
  case h_2 =>
    refine h.imp id fun hwait => ?_
    change (s.kpr.irqWait ||| BitVec.ofNat 16 (2 ^ v)).getLsbD k = true
    rw [BitVec.getLsbD_or, hwait, Bool.true_or]

/-- The lowest vector that waits takes the endpoint. -/
theorem State.nextMsg_of_lowest (hv : v < 16) (hwait : s.kpr.irqWait.getLsbD v = true) (hlow : ∀ j, j < v → s.kpr.irqWait.getLsbD j = false) :
    s.nextMsg = { s with
      kpr := { s.kpr with irqSent := some (BitVec.ofNat 4 v), irqWait := s.kpr.irqWait &&& ~~~BitVec.ofNat 16 (2 ^ v) }
      outs := .message v :: s.outs } := by
  have hfind : (List.range 16).find? (fun v => s.kpr.irqWait.getLsbD v) = some v := by
    rw [List.find?_range_eq_some]
    exact ⟨hwait, List.mem_range.mpr hv, fun j hj => by rw [hlow j hj]; rfl⟩
  unfold State.nextMsg
  rw [hfind]

theorem State.nextMsg_of_none (hwait : s.kpr.irqWait = 0) : s.nextMsg = s := by
  have hfind : (List.range 16).find? (fun v => s.kpr.irqWait.getLsbD v) = none := by
    rw [hwait]
    decide
  unfold State.nextMsg
  rw [hfind]

/-- A message that waits is sent next or waits on. -/
theorem State.msgDue_nextMsg (hk : k < 16) (hwait : s.kpr.irqWait.getLsbD k = true) : s.nextMsg.msgDue k := by
  unfold State.nextMsg
  split
  · exact .inr hwait
  next v hfind =>
    by_cases hvk : v = k
    · subst hvk
      exact .inl rfl
    · refine .inr ?_
      change (s.kpr.irqWait &&& ~~~BitVec.ofNat 16 (2 ^ v)).getLsbD k = true
      rw [getLsbD_and_not_vecBit _ v hk, hwait, decide_eq_false hvk]
      rfl

/-- The withdrawal of one vector's message loses no other's. -/
theorem State.msgDue_withdrawMsg (hv : v < 16) (hk : k < 16) (hvk : v ≠ k) (h : s.msgDue k) : (s.withdrawMsg v).msgDue k := by
  unfold State.withdrawMsg
  split
  · refine h.imp id fun hwait => ?_
    change (s.kpr.irqWait &&& ~~~BitVec.ofNat 16 (2 ^ v)).getLsbD k = true
    rw [getLsbD_and_not_vecBit _ v hk, hwait, decide_eq_false hvk]
    rfl
  · split
    next hsent =>
      have hother : s.kpr.irqSent ≠ some (BitVec.ofNat 4 k) := fun hs => hvk (ofNat_vec_inj hv hk (Option.some.inj (hsent.symm.trans hs)))
      exact State.msgDue_nextMsg hk (h.resolve_left hother)
    · exact h

end

theorem State.requestMsg_besideMsgs (s : State) (v : Nat) : (s.requestMsg v).besideMsgs = s.besideMsgs := by
  unfold State.requestMsg
  split <;> rfl

theorem State.nextMsg_besideMsgs (s : State) : s.nextMsg.besideMsgs = s.besideMsgs := by
  unfold State.nextMsg
  split <;> rfl

theorem State.withdrawMsg_besideMsgs (s : State) (v : Nat) : (s.withdrawMsg v).besideMsgs = s.besideMsgs := by
  unfold State.withdrawMsg
  split
  · rfl
  · split
    · exact State.nextMsg_besideMsgs _
    · rfl

/-! ## KPR_IRQ_MASK (R431) -/

/-- One vector of a mask that is written: its message requested, withdrawn, or left. -/
def State.maskVector (s : State) (m : W16) (t : State) (v : Nat) : State :=
  if s.kpr.irqMask.getLsbD v && !m.getLsbD v && s.kpr.irqPending.getLsbD v then t.announce v
  else if !s.kpr.irqMask.getLsbD v && m.getLsbD v && s.isFresh (128 + v) then t.withdrawMsg v
  else t

theorem State.writeMask_eq (s : State) (m : W16) :
    s.writeMask m = (List.range 16).foldl (s.maskVector m) { s with kpr := { s.kpr with irqMask := m } } := rfl

/-- A mask written is taken; PENDING, the rings and the memory stay. -/
theorem State.writeMask_besideMsgs (s : State) (m : W16) : (s.writeMask m).besideMsgs = (s.kpr.irqPending, m, s.rings, s.mem) := by
  rw [State.writeMask_eq]
  refine List.foldlRecOn (motive := fun t : State => t.besideMsgs = (s.kpr.irqPending, m, s.rings, s.mem)) _ _ rfl fun t ht v _ => ?_
  unfold State.maskVector
  split
  · exact (State.requestMsg_besideMsgs t v).trans ht
  · split
    · exact (State.withdrawMsg_besideMsgs t v).trans ht
    · exact ht

/-- A fold reaches what one of its elements brings and no other loses. -/
theorem foldl_reaches {σ α : Type} {P : σ → Prop} {f : σ → α → σ} {l : List α} {k : α} (hk : k ∈ l) (hset : ∀ t, P (f t k))
    (hkeep : ∀ t, ∀ v ∈ l, v ≠ k → P t → P (f t v)) (t : σ) : P (l.foldl f t) := by
  obtain ⟨before, after, rfl⟩ := List.append_of_mem hk
  rw [List.foldl_append, List.foldl_cons]
  refine List.foldlRecOn after _ (hset _) fun u hu v hv => ?_
  by_cases hvk : v = k
  · subst hvk
    exact hset u
  · exact hkeep u v (List.mem_append_right _ (List.mem_cons_of_mem _ hv)) hvk hu

/-- A pending vector that the mask lays open has its message requested. -/
theorem State.writeMask_msgDue {s : State} {m : W16} {k : Nat} (hk : k < 16) (hshut : s.kpr.irqMask.getLsbD k = true) (hopen : m.getLsbD k = false)
    (hpend : s.kpr.irqPending.getLsbD k = true) : (s.writeMask m).msgDue k := by
  rw [State.writeMask_eq]
  refine foldl_reaches (P := (State.msgDue · k)) (List.mem_range.mpr hk) (fun t => ?_) (fun t v hv hvk ht => ?_) _
  · have hann : s.maskVector m t k = t.announce k := by simp [State.maskVector, hshut, hopen, hpend]
    rw [hann]
    exact State.msgDue_requestMsg_same (s := t) hk
  · unfold State.maskVector
    split
    · exact State.msgDue_requestMsg ht
    · split
      · exact State.msgDue_withdrawMsg (List.mem_range.mp hv) hk hvk ht
      · exact ht

/-! ## The Keeper's registers with a row (R81, R413, R431) -/

section
variable {s : State} {mid : Byte}

/-- A 4-byte write that reaches a register of the Keeper. -/
theorem State.write4_kpr {a : Nat} (v : W32) (h : Reaches s .hif mid a 4) (hlo : 0x1000 ≤ a) (hhi : a < 0x2000) :
    s.write4 .hif mid a v = (s.writeKpr mid a v.toNat).2.respond mid (s.writeKpr mid a v.toNat).1 [] := by
  have hk : hifWin a = .kpr := hifWin_kpr hlo hhi
  have hw : s.writeWord mid a v.toNat = s.writeKpr mid a v.toNat := by simp only [State.writeWord, hk]
  rw [State.write4_of_reaches v h (by rw [portOffset, hk]; rfl), portOffset, hw]

/-- An access through the HIF port that reaches its register comes from a host MID (R43). -/
theorem hostMid_of_reaches {a n : Nat} (h : Reaches s .hif mid a n) : hostMid mid = true := by
  obtain ⟨-, hmid, -⟩ := h
  exact hmid

theorem State.writeKpr_softReset (v : Nat) :
    s.writeKpr mid 0x1020 v = if hostMid mid then (true, s.writeSoftReset v) else (false, s) := rfl

theorem State.writeKpr_halt (v : Nat) :
    s.writeKpr mid 0x1030 v = if hostMid mid && s.haltAllowed then (true, s.writeHalt v) else (false, s) := rfl

theorem State.writeKpr_irqMask (v : Nat) : s.writeKpr mid 0x1044 v = (true, s.writeMask (BitVec.ofNat 16 v)) := rfl

theorem exec_domainSoftReset (v : W32) (h : Reaches s .hif mid 0x1020 4) :
    exec (.domainSoftReset mid v) s = .next ((s.writeSoftReset v.toNat).respond mid true []) := by
  change Host.Outcome.next (s.write4 .hif mid 0x1020 v) = _
  rw [State.write4_kpr v h (by omega) (by omega), State.writeKpr_softReset, if_pos (hostMid_of_reaches h)]

theorem exec_hardHalt (v : W32) (h : Reaches s .hif mid 0x1030 4) :
    exec (.hardHalt mid v) s = .next (if s.haltAllowed then (s.writeHalt v.toNat).respond mid true [] else s.respond mid false []) := by
  change Host.Outcome.next (s.write4 .hif mid 0x1030 v) = _
  rw [State.write4_kpr v h (by omega) (by omega), State.writeKpr_halt, hostMid_of_reaches h, Bool.true_and]
  split <;> rfl

theorem exec_irqMaskWrite (v : W32) (h : Reaches s .hif mid 0x1044 4) :
    exec (.irqMaskWrite mid v) s = .next ((s.writeMask (BitVec.ofNat 16 v.toNat)).respond mid true []) := by
  change Host.Outcome.next (s.write4 .hif mid 0x1044 v) = _
  rw [State.write4_kpr v h (by omega) (by omega), State.writeKpr_irqMask]

/-- The state with no message at the endpoint. -/
def State.endpointFreed (s : State) : State := { s with kpr := { s.kpr with irqSent := none } }

theorem exec_irqAck_of_free (hsent : s.kpr.irqSent = none) : exec .irqAck s = .next s := by
  change execIrqAck s = _
  simp only [execIrqAck, hsent]

theorem exec_irqAck_of_sent {v : BitVec 4} (hsent : s.kpr.irqSent = some v) (hlow : s.resetLow = false) :
    exec .irqAck s = .next s.endpointFreed.nextMsg := by
  change execIrqAck s = _
  simp only [execIrqAck, hsent, hlow, Bool.false_eq_true, if_false, State.endpointFreed]

end

/-- Settles O31: each write by its register, the mask by what it does to each vector, the acknowledgement by the vectors that wait. -/
theorem keeperRegisters : Obligations.KeeperRegisters := by
  unfold Obligations.KeeperRegisters
  refine ⟨fun mid v s h => exec_domainSoftReset v h, fun mid v s h => exec_hardHalt v h, fun mid v s h => ?_,
    fun s => exec_irqAck_of_free, fun s v hsent hlow => ⟨fun hwait => ?_, fun k hk hwait hlowest => ?_⟩⟩
  · have hbeside := s.writeMask_besideMsgs (BitVec.ofNat 16 v.toNat)
    simp only [State.besideMsgs, Prod.mk.injEq] at hbeside
    obtain ⟨hpend, hmask, hrings, hmem⟩ := hbeside
    refine ⟨_, exec_irqMaskWrite v h, hmask, hpend, hmem, State.respond_rings_congr hrings .., fun k hk hshut hopen hp => ?_⟩
    refine State.writeMask_msgDue hk hshut ?_ hp
    rw [BitVec.getLsbD_ofNat, decide_eq_true hk, Bool.true_and]
    exact hopen
  · rw [exec_irqAck_of_sent hsent hlow, State.nextMsg_of_none (s := s.endpointFreed) hwait, State.endpointFreed]
  · refine ⟨_, exec_irqAck_of_sent hsent hlow, ?_⟩
    rw [State.nextMsg_of_lowest (s := s.endpointFreed) hk hwait hlowest]
    refine ⟨rfl, ?_, rfl⟩
    rw [getLsbD_and_not_vecBit _ k hk, decide_eq_true rfl, Bool.not_true, Bool.and_false]

end Sys2Proof.Machine
end

section
/-! SUPPORT. The messages that Basam acts on, each by what stands in its channel, and the deadlines and periods that end (R72, R86, R118, R171, R201, R362, R367). -/

namespace Sys2Proof.Machine

open Sys2Proof.Bytes

/-! ## What telemetry leaves in its state (R118, R170, R174, R201) -/

/-- Entries of the Daybook, written or lost, leave the telemetry state. -/
theorem State.daybook_cap (s : State) (w : Nat) (es : List (List Byte)) : (s.daybook w es).cap = s.cap := by
  have htraced (p : Prop) [Decidable p] (u : State) (h : u.cap = s.cap) :
      (if p then es.foldl (fun t e => t.trace 3 w (words32 e)) u else u).cap = s.cap := by
    split
    · exact List.foldlRecOn (motive := fun t : State => t.cap = s.cap) es _ h fun t ht e _ => (t.trace_cap 3 w _).trans ht
    · exact h
  unfold State.daybook
  dsimp only
  split
  · rfl
  · refine htraced _ _ ?_
    split <;> rfl

theorem State.flagStep_cap (s : State) (w : Nat) (t : Step) : (s.flagStep w t).cap = s.cap := by
  unfold State.flagStep
  dsimp only
  split
  · rfl
  · exact State.daybook_cap ..

/-- The last report as the telemetry state keeps it: PKG_MW and THROTTLING. -/
def Cap.reading (c : Cap) : W32 × Bool := (c.pkgMw, c.throttling)

theorem State.temperature_cap (s : State) (tj : Int) : (s.temperature tj).cap = s.cap := by
  unfold State.temperature
  dsimp only
  rw [State.ledgerAdd_cap]
  split <;> split <;> rfl

/-- A throttling period that begins or goes on leaves the report (R201). -/
theorem State.throttleReport_reading (s : State) : s.throttleReport.cap.reading = s.cap.reading := by
  unfold State.throttleReport
  dsimp only
  split
  · rfl
  · refine List.foldlRecOn (motive := fun t : State => t.cap.reading = s.cap.reading) s.servedWings _ ?_ fun t ht w _ => ?_
    · rw [State.ledgerAdd_cap, State.count_cap]
      rfl
    · split
      · exact ht
      · rw [State.flagStep_cap]
        exact ht

/-- The comparison with the cap leaves the report (R174). -/
theorem State.capCheck_reading (s : State) (pkg : Nat) : (s.capCheck pkg).cap.reading = s.cap.reading := by
  unfold State.capCheck
  dsimp only
  split
  · rfl
  · split
    · rw [State.ledgerAdd_cap, State.count_cap, State.report_cap]
      rfl
    · rfl

/-- The telemetry state holds the report that was put into it (R170). -/
theorem State.telemetry_reading (s : State) (vrail irail pkg last : Nat) :
    (s.telemetry vrail irail pkg last).cap.reading = (BitVec.ofNat 32 pkg, bit last 16) := by
  have hthrottled (p : Prop) [Decidable p] (u : State) : (if p then u.throttleReport else u).cap.reading = u.cap.reading := by
    split
    · exact u.throttleReport_reading
    · rfl
  unfold State.telemetry
  dsimp only
  rw [State.capCheck_reading, hthrottled, State.temperature_cap, State.ledgerMax_cap, State.gaugeMax_cap, State.count_cap]
  rfl

theorem exec_telemetry_of_message {s : State} {ty : Nat} {ws : List Nat} (h : s.mail 0 telemetryMails = .message ty ws) :
    exec .telemetry s = .next ((s.telemetry (nth ws 0 0) (nth ws 1 0) (nth ws 2 0) (nth ws 3 0)).ackMessage 0 0) := by
  change Host.Outcome.next s.telemetryMail = _
  simp only [State.telemetryMail, h]

/-! ## Answers to the fence (R362, R367) -/

theorem State.flushReplies_pair (s : State) : s.flushReplies.pair = s.pair := by
  refine List.foldlRecOn (motive := fun t : State => t.pair = s.pair) s.rings.replies _ rfl fun t ht r _ => ?_
  split
  · exact (State.writeReply_pair ..).trans ht
  · exact ht

theorem State.endSession_state (s : State) : s.endSession.pair.state = s.pair.state := rfl

theorem State.lowerFence_pair (s : State) : s.lowerFence.pair = s.pair := rfl

theorem State.dropJournal_state (s : State) : s.dropJournal.pair.state = s.pair.state := rfl

theorem State.enterTakeover_state (s : State) : s.enterTakeover.pair.state = .takeover := by
  unfold State.enterTakeover
  dsimp only
  rw [State.flushReplies_pair]
  dsimp only
  rw [State.endSession_state, State.lowerFence_pair, State.setPair_pair]

theorem State.enterDegraded_state (s : State) : s.enterDegraded.pair.state = .degraded := by
  unfold State.enterDegraded
  dsimp only
  rw [State.flushReplies_pair, State.endSession_state, State.dropJournal_state, State.ledgerAdd_pair, State.report_pair, State.setPair_pair]

section
variable {s : State} {ws : List Nat} (hactive : s.active .control = true) (hhalt : s.kpr.halted = false)
include hactive hhalt

/-- A fence answer that stands in channel 1 is acted on where it names the partner's side. -/
theorem State.fenceMail_of_message {type : Nat} (act : State → State) (h : s.mail 1 fenceMails = .message type ws) :
    s.fenceMail type act = if nth ws 0 0 ≠ 1 - s.side then s.ackMessage 1 0x8014 else (act s).ackMessage 1 0 := by
  simp [State.fenceMail, hactive, hhalt, h]

variable (hasked : s.pair.journalAsked = none)
include hasked

theorem exec_fenceConfirmed_of_message (h : s.mail 1 fenceMails = .message 0x10 ws) :
    exec .fenceConfirmed s = .next (
      if nth ws 0 0 ≠ 1 - s.side then s.ackMessage 1 0x8014
      else (if s.pair.state = .fencing ∨ s.pair.state = .degraded then s.enterTakeover else s).ackMessage 1 0) := by
  change Host.Outcome.next (s.fenceMail 0x10 _) = _
  rw [State.fenceMail_of_message hactive hhalt _ h]
  simp [hasked]

theorem exec_fenceDenied_of_message (h : s.mail 1 fenceMails = .message 0x11 ws) :
    exec .fenceDenied s = .next (
      if nth ws 0 0 ≠ 1 - s.side then s.ackMessage 1 0x8014
      else (if s.pair.state = .fencing then s.enterDegraded.lowerFence else if s.pair.state = .degraded then s.lowerFence
        else s).ackMessage 1 0) := by
  change Host.Outcome.next (s.fenceMail 0x11 _) = _
  rw [State.fenceMail_of_message hactive hhalt _ h]
  simp [hasked]

end

/-! ## Chunks of a recovered item (R86) -/

theorem exec_recoveryChunk_of_message {s : State} {ty : Nat} {ws : List Nat} (verdict : Option RecoveredItem) (hrec : s.kpr.recovery = true)
    (hlow : s.resetLow = false) (hactive : s.active .control = true) (hprog : s.maint.recoverProgram = false)
    (h : s.mail 31 [(0x40, 4, 0)] = .message ty ws) : exec (.recoveryChunk verdict) s = .next (s.recoveryChunk ws verdict) := by
  change execRecoveryChunk verdict s = _
  simp [execRecoveryChunk, hrec, hlow, hactive, hprog, h]

section
variable {s : State} {ws : List Nat} (verdict : Option RecoveredItem) (hitem : nth ws 0 0 = s.missingItem) (hlen : nth ws 2 0 ≠ 0)
  (hmax : nth ws 2 0 ≤ 65536)
include hitem hlen hmax

/-- A chunk whose item and length pass goes by its number. -/
theorem State.recoveryChunk_of_out_of_order (hnum : nth ws 1 0 ≠ s.pair.recChunks) : s.recoveryChunk ws verdict = s.ackMessage 31 1 := by
  have hpass : ¬ (nth ws 0 0 ≠ s.missingItem ∨ nth ws 2 0 = 0 ∨ 65536 < nth ws 2 0) := by omega
  unfold State.recoveryChunk
  rw [if_neg hpass, if_pos hnum]

/-- A chunk in sequence that does not complete the item is counted. -/
theorem State.recoveryChunk_of_in_order (hnum : nth ws 1 0 = s.pair.recChunks) (hmore : s.pair.recBytes + nth ws 2 0 < nth ws 3 0)
    (htotal : s.pair.recChunks = 0 ∨ nth ws 3 0 = s.pair.recTotal) :
    s.recoveryChunk ws verdict = State.ackMessage
      { s with pair := { s.pair with recItem := s.missingItem, recChunks := s.pair.recChunks + 1, recBytes := s.pair.recBytes + nth ws 2 0
                                     recTotal := nth ws 3 0 } } 31 0 := by
  have hpass : ¬ (nth ws 0 0 ≠ s.missingItem ∨ nth ws 2 0 = 0 ∨ 65536 < nth ws 2 0) := by omega
  have hfits : ¬ (nth ws 3 0 < s.pair.recBytes + nth ws 2 0 ∨ (s.pair.recChunks ≠ 0 ∧ nth ws 3 0 ≠ s.pair.recTotal)) := by omega
  unfold State.recoveryChunk
  dsimp only
  rw [if_neg hpass, if_neg (not_not_intro hnum), if_neg hfits, if_pos hmore]

end

/-- Settles O35: each message by its channel, the fence answers by the side they name, a chunk by its number. -/
theorem messagesToBasam : Obligations.MessagesToBasam := by
  unfold Obligations.MessagesToBasam
  refine ⟨fun s ty ws h => ?_, fun s ws hactive hhalt hasked => ⟨exec_fenceConfirmed_of_message hactive hhalt hasked,
      exec_fenceDenied_of_message hactive hhalt hasked⟩, fun s => ⟨s.enterTakeover_state, s.enterDegraded_state⟩,
    fun s ty ws verdict hrec hlow hactive hprog h hitem hlen hmax => ?_⟩
  · obtain ⟨hpkg, hthr⟩ := Prod.mk.inj (s.telemetry_reading (nth ws 0 0) (nth ws 1 0) (nth ws 2 0) (nth ws 3 0))
    exact ⟨exec_telemetry_of_message h, hpkg, hthr⟩
  · rw [exec_recoveryChunk_of_message verdict hrec hlow hactive hprog h]
    exact ⟨fun hnum => congrArg _ (State.recoveryChunk_of_out_of_order verdict hitem hlen hmax hnum),
      fun hnum hmore htotal => congrArg _ (State.recoveryChunk_of_in_order verdict hitem hlen hmax hnum hmore htotal)⟩

/-! ## Deadlines and throttling periods (R72, R171, R201) -/

section
variable {s : State} {slot : Nat} {e : WheelEntry} {r : Req} (he : SMap.find s.reg.wheel slot = some e) (hr : s.ownSlot slot = some r)
include he hr

theorem exec_deadlineFired_of_not_next (hnext : s.nextFired ≠ some slot) : exec (.deadlineFired slot) s = .next s := by
  change execDeadlineFired slot s = _
  simp [execDeadlineFired, he, hr, hnext]

/-- The entry that is next leaves the wheel; a completion deadline that has passed ends the request. -/
theorem exec_deadlineFired_of_next (hfar : e.far = false) (hpassed : passed s.nowUs e.deadline = true) (hnext : s.nextFired = some slot) :
    exec (.deadlineFired slot) s = .next (
      let u := (State.armWheel { s with reg := { s.reg with wheel := SMap.drop s.reg.wheel slot } } r.acc).wake [.control]
      if r.completion.any fun d => passed s.nowUs d then u.askDeaccession r.acc 5 else u) := by
  change execDeadlineFired slot s = _
  simp [execDeadlineFired, he, hr, hfar, hpassed, hnext]

end

section
variable {s : State}

theorem exec_farListScan_of_due (hdue : s.reg.farScan + 4096 ≤ s.nowUs) : exec .farListScan s = .next { s with reg := { s.reg with
    farScan := s.nowUs
    wheel := s.reg.wheel.map fun e =>
      (e.1, if passed s.nowUs e.2.deadline || decide (ahead s.nowUs e.2.deadline ≤ 4095) then { e.2 with far := false } else e.2) } } := by
  change execFarListScan s = _
  rw [execFarListScan, if_pos hdue]

theorem exec_farListScan_of_not_due (hnot : s.nowUs < s.reg.farScan + 4096) : exec .farListScan s = .next s := by
  change execFarListScan s = _
  rw [execFarListScan, if_neg (Nat.not_le.mpr hnot)]

theorem exec_throttleEnd_of_period (hperiod : s.cap.inPeriod = true) : exec .throttleEnd s =
    .next (if s.cap.throttleAt.toNat + 100000 ≤ s.now then { s with cap := { s.cap with inPeriod := false } } else s) := by
  change execThrottleEnd s = _
  rw [execThrottleEnd, hperiod, Bool.true_and, apply_ite Host.Outcome.next]
  simp only [decide_eq_true_eq]

end

/-- Settles O47: a fired entry by whether it is next and by the request's completion deadline, the scan and the period by their times. -/
theorem deadlinesAndPeriodsEnd : Obligations.DeadlinesAndPeriodsEnd := by
  unfold Obligations.DeadlinesAndPeriodsEnd
  refine ⟨fun slot s e r he hr hfar hpassed => ⟨exec_deadlineFired_of_not_next he hr, fun hnext => ⟨fun hcompl => ?_, fun d hd hover => ?_⟩⟩,
    fun s => exec_farListScan_of_due, fun s => exec_farListScan_of_not_due, fun s => exec_throttleEnd_of_period⟩
  · have hany : (r.completion.any fun d => passed s.nowUs d) = false := by
      rw [Option.any_eq_false_iff_get]
      exact fun h => hcompl _ (Option.some_get h).symm
    rw [exec_deadlineFired_of_next he hr hfar hpassed hnext]
    dsimp only
    rw [if_neg (Bool.eq_false_iff.mp hany)]
  · have hany : (r.completion.any fun d => passed s.nowUs d) = true := by rwa [hd, Option.any_some]
    rw [exec_deadlineFired_of_next he hr hfar hpassed hnext]
    dsimp only
    rw [if_pos hany]

end Sys2Proof.Machine
end

section
/-! SUPPORT. Replies on their ring, and what the front end of a command answers before its body runs (R92, R94, R97, R99, R100, R104). -/

namespace Sys2Proof.Machine

open Sys2Proof.Safety Sys2Proof.Bytes

/-! ## The bytes of a reply (R94, R96, R104) -/

/-- A slice is padded to the length asked for. -/
theorem slice_length (bs : List Byte) (off n : Nat) : (slice bs off n).length = n := by
  simp only [slice, List.length_append, List.length_replicate]
  have := List.length_take_le n (bs.drop off)
  omega

/-- A reply fills whole units: one for the header, one for the preamble, the rest for the data. -/
theorem replyBytes_length (op gallery tag status : Nat) (phase : Bool) (seq ktime : Nat) (data : List Byte) :
    (replyBytes op gallery tag status phase seq ktime data).length = (2 + ceilDiv data.length 16) * 16 := by
  simp only [replyBytes, List.length_append, ofLe_length, slice_length]
  omega

theorem State.pairAt_congr {s t : State} (h : t.rings = s.rings) (i : Nat) : t.pairAt i = s.pairAt i := by
  unfold State.pairAt
  rw [h]

section
variable (s : State) (i op gallery tag status : Nat) (seq : W32) (ktime : W64) (data : List Byte)

/-- The memory holds the reply at the ring's producer index; its COMMAND event has yet to reach its ring (R94, R405). -/
theorem State.writeReply_mem : (s.writeReply i op gallery tag status seq ktime data).mem =
    writeRpl s.mem i ((s.pairAt i).rplPi.toNat % 4096 * 16)
      (replyBytes op gallery tag status (!(s.pairAt i).rplPi.getLsbD 12) seq.toNat ktime.toNat data) := by
  unfold State.writeReply
  rw [State.event_mem, if_neg (by decide)]
  simp only [State.raiseVec_mem, State.updPair_mem]

/-- The producer index moves past the reply (R94). -/
theorem State.writeReply_rplPi : ((s.writeReply i op gallery tag status seq ktime data).pairAt i).rplPi =
    (s.pairAt i).rplPi + BitVec.ofNat 13 (2 + ceilDiv data.length 16) := by
  have hunits : (replyBytes op gallery tag status (!(s.pairAt i).rplPi.getLsbD 12) seq.toNat ktime.toNat data).length / 16
      = 2 + ceilDiv data.length 16 := by
    rw [replyBytes_length]
    omega
  unfold State.writeReply
  dsimp only
  rw [hunits, State.pairAt_congr ((State.event_rings ..).trans (State.raiseVec_rings ..)), State.pairAt_updPair, if_pos rfl]
  rfl

end

/-! ## A reply that waits for nothing (R94) -/

section
variable {u : State} {c : Cmd} {d : Done} (hw : d.waits = none)
include hw

theorem answered_of_no_waits :
    answered c u d = d.state.writeReply c.ring c.op c.gallery c.tag d.status u.rings.applySeq u.kpr.ktime d.data := by
  unfold answered finish
  rw [hw]

/-- Every byte outside the reply ring stays (R94). -/
theorem read_answered_other (hm : Memory.wf d.state.mem = true) (a : Nat)
    (ha : a < 0x180000 + c.ring * 0x10000 ∨ 0x180000 + c.ring * 0x10000 + 0x10000 ≤ a) :
    Memory.read (answered c u d).mem a = Memory.read d.state.mem a := by
  rw [answered_of_no_waits hw]
  exact State.read_writeReply_other hm _ _ _ _ _ _ _ _ a ha

end

/-- Settles O7: the reply is `writeReply`, by its memory, its producer index and its frame. -/
theorem repliesAreWrittenToTheirRing : Obligations.RepliesAreWrittenToTheirRing := by
  unfold Obligations.RepliesAreWrittenToTheirRing
  refine ⟨fun u c d hw _ => ?_, fun u c d hw hm => ⟨read_answered_other hw hm, ?_⟩⟩
  · have hphase : b2n (!(d.state.pairAt c.ring).rplPi.getLsbD 12) * 128
        = if (d.state.pairAt c.ring).rplPi.getLsbD 12 then 0 else 0x80 := by
      cases (d.state.pairAt c.ring).rplPi.getLsbD 12 <;> rfl
    rw [answered_of_no_waits hw]
    refine ⟨fun a => ?_, State.writeReply_rplPi ..⟩
    rw [State.writeReply_mem]
    unfold replyBytes
    rw [hphase]
  · rw [answered_of_no_waits hw]
    simp

/-! ## Checks before the body (R92, R97, R99, R100) -/

/-- Each row of the table of clear commands is a `clearCommand` of its opcode and layout. -/
theorem exec_clearRows (ring : Fin 8) (image : Option ImageInfo) (capsule : Option Capsule) :
    ∀ r ∈ clearRows ring image capsule, ∃ body, ∀ s, exec r.2.2 s = .next (clearCommand r.1 r.2.1 body ring s) := by
  simp only [clearRows, List.cons_append, List.nil_append, List.forall_mem_cons, List.not_mem_nil, false_implies, implies_true, and_true]
  and_intros
  all_goals exact ⟨_, fun _ => rfl⟩

/-- Each row of the table of sealed commands is a `sealedCommand` of its opcode and layout, its counter told to the partner. -/
theorem exec_sealedRows (ring : Fin 8) :
    ∀ r ∈ sealedRows ring, ∃ env accepts body, ∀ s,
      exec r.2.2 s = .next ((sealedCommand r.1 r.2.1 env accepts body ring s).tellCounter s (s.headerAt ring.val).gallery) := by
  simp only [sealedRows, List.forall_mem_cons, List.not_mem_nil, false_implies, implies_true, and_true]
  and_intros
  all_goals exact ⟨_, _, _, fun _ => rfl⟩

/-- Settles O9: every row is one of the two front ends, and each of these answers a failed check before its body. -/
theorem packetsAreCheckedFirst : Obligations.PacketsAreCheckedFirst := by
  unfold Obligations.PacketsAreCheckedFirst
  constructor
  · intro ring image capsule op l i s t c hrow hop
    obtain ⟨body, hexec⟩ := exec_clearRows ring image capsule _ hrow
    obtain ⟨hnothing, hcrc, hlong, hpart, hcheck⟩ := clearCommand_fails (l := l) (u := t) (c := c) (body := body) hop
    rw [hexec]
    exact ⟨fun h => congrArg _ (hnothing h), fun h => congrArg _ (hcrc h), fun h => congrArg _ (hlong h), fun h => congrArg _ (hpart h),
      fun st data h hst => congrArg _ (hcheck st data h hst)⟩
  · intro ring op l i s t c hrow hop tell
    obtain ⟨env, accepts, body, hexec⟩ := exec_sealedRows ring _ hrow
    obtain ⟨hnothing, hcrc, hlong, hpart, hcheck⟩ :=
      sealedCommand_fails (l := l) (u := t) (c := c) (env := env) (accepts := accepts) (body := body) hop
    have told : ∀ {v : State}, sealedCommand op l env accepts body ring s = v → exec i s = .next (tell v) := fun h => by
      rw [hexec, h]
    exact ⟨fun h => told (hnothing h), fun h => told (hcrc h), fun h => told (hlong h), fun h => told (hpart h),
      fun st data h hst => told (hcheck st data h hst)⟩

end Sys2Proof.Machine
end

section
/-! SUPPORT. The gallery commands that change or report a gallery once it is open: GALLERY_CLOSE with its completion, GALLERY_BUDGET, GALLERY_REPORT, GALLERY_REKEY (R105, R110, R143, R145, R150, R157, R327, R331, R340). -/

namespace Sys2Proof.Machine

open Sys2Proof.Safety Sys2Proof.Bytes

/-! ## Closing, budget, report (R110, R145, R150, R157) -/

theorem exec_galleryClose (ring : Fin 8) (s : State) : exec (.galleryClose ring) s = execGalleryClose ring s := rfl

theorem exec_galleryCloseComplete (g : Nat) (s : State) : exec (.galleryCloseComplete g) s = execGalleryCloseComplete g s := rfl

theorem exec_galleryBudget (ring : Fin 8) (s : State) : exec (.galleryBudget ring) s = execGalleryBudget ring s := rfl

theorem exec_galleryReport (ring : Fin 8) (s : State) : exec (.galleryReport ring) s = execGalleryReport ring s := rfl

/-- Settles O12: no refusal of the first act applies, and the second finds the gallery closing, its erases acknowledged and no request left. -/
theorem galleryCloseClosesInTwoActs : Obligations.GalleryCloseClosesInTwoActs := by
  unfold Obligations.GalleryCloseClosesInTwoActs
  refine ⟨fun ring s u c h hg hpair hfree => ?_, fun g s hdead hclosing herased hreqs => ?_⟩
  · rw [exec_galleryClose, execGalleryClose, clearCommand_clear h]
    simp only [hg, if_false, hpair, hfree, State.pairGallery_eq, fenceOnly]
  · have hnone : (s.allReqs.any fun r => decide (r.gallery = g)) = false := by simpa using hreqs
    rw [exec_galleryCloseComplete]
    simp [execGalleryCloseComplete, hdead, hclosing, herased, hnone]

/-- Settles O13: the block in force is the one that the payload's 32 bytes spell, the report the gallery's own. -/
theorem galleryBudgetAndReport : Obligations.GalleryBudgetAndReport := by
  unfold Obligations.GalleryBudgetAndReport
  refine ⟨fun ring s u c h hfeasible => ?_, fun ring s u c o b h hbody hlen => ?_⟩
  · rw [exec_galleryBudget, execGalleryBudget, clearCommand_clear h]
    dsimp only
    rw [hfeasible, if_neg Bool.false_ne_true]
    rfl
  · rw [exec_galleryReport, execGalleryReport, sealedCommand_sealed h]
    simp only [hbody, hlen, ne_eq, not_true_eq_false, if_false]

/-! ## A sealed field that is refused (R105) -/

section
variable {op : Nat} {l : Layout} {env : List Byte → Envelope} {accepts : List Byte → Bool} {body : Cmd → Opened → State → Done}
  {ring : Fin 8} {s t : State} {c : Cmd} (hop : (s.headerAt ring.val).op = op) (htake : s.take ring.val = .whole c t)
  (hchecks : t.checks c l = none)
include hop htake hchecks

/-- A field that does not open is refused, a failed tag noted (R105, R407). -/
theorem sealedCommand_unopened {st : Nat} (hopen : t.opened c.gallery (env c.payload) = .error st) :
    sealedCommand op l env accepts body ring s
      = (t.tagFail c.gallery (field (env c.payload).nonce 4 8) st).answer c st [] := by
  simp [sealedCommand, hop, htake, hchecks, hopen]

/-- A counter that is not above the last accepted one is refused (R105). -/
theorem sealedCommand_replayed {pt : List Byte} (hopen : t.opened c.gallery (env c.payload) = .ok pt) (haccepts : accepts pt = true)
    (hctr : field (env c.payload).nonce 4 8 ≤ (t.galAt c.gallery).lastCtr.toNat) :
    sealedCommand op l env accepts body ring s = t.answer c stReplayed [] := by
  simp [sealedCommand, hop, htake, hchecks, hopen, haccepts, hctr]

end

/-! ## GALLERY_REKEY (R143, R327, R340) -/

theorem exec_galleryRekey (ring : Fin 8) (s : State) : exec (.galleryRekey ring) s =
    .next ((sealedCommand 0x13 sealedLayout0 plainEnvelope (fun _ => true) rekeyBody ring s).tellCounter s (s.headerAt ring.val).gallery) := rfl

/-- Settles O14: the front end by what the sealed field opens to and by its counter, the body by the share. -/
theorem galleryRekeyChangesKeys : Obligations.GalleryRekeyChangesKeys := by
  unfold Obligations.GalleryRekeyChangesKeys
  refine ⟨fun ring s t c hop htake hchecks => ?_, fun c o u b hbody hlen hg hpair hfree => ?_⟩
  · rw [exec_galleryRekey]
    cases hopen : t.opened c.gallery (plainEnvelope c.payload) with
    | error st =>
      rw [sealedCommand_unopened hop htake hchecks hopen]
      rfl
    | ok pt =>
      by_cases hctr : field (slice c.payload 0 12) 4 8 ≤ (t.galAt c.gallery).lastCtr.toNat
      · rw [sealedCommand_replayed hop htake hchecks hopen rfl hctr]
        simp only [hctr, if_true]
      · have hsealed : Sealed 0x13 sealedLayout0 plainEnvelope (fun _ => true) ring s c _ _ :=
          ⟨hop, t, pt, htake, hchecks, hopen, rfl, Nat.lt_of_not_le hctr, rfl, rfl⟩
        rw [sealedCommand_sealed hsealed]
        simp only [hctr, if_false]
        rfl
  · have hform : ¬ (b.length ≠ 101 ∨ c.gallery = 0) := by omega
    unfold rekeyBody
    simp only [hbody, hform, if_false, hpair, hfree, State.pairGallery_eq, State.installRekey, State.drawn_kpr]
    cases Config.p384Valid (parseShare b 4) u.drawPair.1 <;> rfl

end Sys2Proof.Machine
end

section
/-! SUPPORT. The commands that change an accessioned request: AMEND and DRAFT (R109, R111, R168, R170, R202). -/

namespace Sys2Proof.Machine

open Sys2Proof.Safety Sys2Proof.Bytes

section
variable {ring : Fin 8} {s u : State} {c : Cmd} {o : Opened} {r : Req} {b : List Byte}

theorem exec_amend_of_sealed (h : Sealed 0x22 sealedLayout plainEnvelope (fun _ => true) ring s c o u) :
    exec (.amend ring) s = .next ((answeredSealed s c u (amendBody c o u)).tellCounter s (s.headerAt ring.val).gallery) := by
  change execAmend ring s = _
  rw [execAmend, sealedCommand_sealed h]

theorem exec_draft_of_sealed (h : Sealed 0x24 sealedLayout plainEnvelope (fun _ => true) ring s c o u) :
    exec (.draft ring) s = .next ((answeredSealed s c u (draftBody c o u)).tellCounter s (s.headerAt ring.val).gallery) := by
  change execDraft ring s = _
  rw [execDraft, sealedCommand_sealed h]

/-! ## A gallery that holds no such request (R111) -/

theorem amendBody_of_no_request (hnone : u.named c.gallery o.target = none) : amendBody c o u = .refuse u stNoRequest := by
  simp [amendBody, hnone]

theorem draftBody_of_no_request (hnone : u.named c.gallery o.target = none) : draftBody c o u = .refuse u stNoRequest := by
  simp [draftBody, hnone]

/-! ## A live request (R168, R170, R202) -/

variable (hreq : u.named c.gallery o.target = some r) (hlive : r.state ≠ .deaccessioned) (hbody : openBody o.plain = some b)
include hreq hlive hbody

/-- An AMEND whose form, method and admission pass. -/
theorem amendBody_of_pass {q : Req} (hform : amendForm b = true) (hq : u.amended r b = some q)
    (hmethod : bit (field b 4 1) 3 = true → u.methodOk q.kind q.sampling q.speculative = true)
    (hadmit : field b 4 1 % 8 = 0 ∨ u.admission (u.amendAsk q r.bound) [4, 5, 6, 7, 8, 9, 10, 11] [r.wing] = .pass [r.wing]) :
    amendBody c o u =
      { state := ((u.updReq r.acc fun _ => if bit (field b 4 1) 2 then { q with need := u.askNeed r.wing (u.amendAsk q r.bound) } else q).armWheel
          r.acc).mirrorEvent r.acc .change } := by
  have hserved : ¬ (bit (field b 4 1) 3 && !u.methodOk q.kind q.sampling q.speculative) = true := by
    simpa using hmethod
  have hadmitted : ¬ (decide (field b 4 1 % 8 ≠ 0)
      && decide (u.admission (u.amendAsk q r.bound) [4, 5, 6, 7, 8, 9, 10, 11] [r.wing] ≠ .pass [r.wing])) = true := by
    rcases hadmit with hfields | hpass
    · simp [hfields]
    · simp [hpass]
  simp only [amendBody, hreq, beq_iff_eq, hlive, if_false, hbody, hform, Bool.not_true, Bool.false_eq_true, hq, hserved, hadmitted]

/-- A DRAFT of a speculative request: positions already committed drop from the front of its tokens. -/
theorem draftBody_of_tokens {ts : List Nat} (hspec : r.speculative = true) (hlow : 1 ≤ field b 8 1) (hhigh : field b 8 1 ≤ 64)
    (hlen : b.length = 16 + 4 * field b 8 1) (hzero : allZero (slice b 9 7) = true) (hts : u.parseTokens b 16 (field b 8 1) = some ts) :
    draftBody c o u =
      { state := (u.updReq r.acc fun x => { x with
          drafts := ts.drop (reqPosition r - field b 4 4)
          draftFirst := field b 4 4 + (reqPosition r - field b 4 4) }).mirrorEvent r.acc .change } := by
  have hform : ¬ (b.length < 16 ∨ field b 8 1 = 0 ∨ 64 < field b 8 1 ∨ b.length ≠ 16 + 4 * field b 8 1 ∨ (!allZero (slice b 9 7)) = true) := by
    rw [hzero]
    simp only [Bool.not_true, Bool.false_eq_true, or_false]
    omega
  simp only [draftBody, hreq, beq_iff_eq, hlive, if_false, hspec, Bool.not_true, Bool.false_eq_true, hbody, hform, hts]

end

/-- Settles O19: both commands open, so each is its body, and the body by the request that TARGET names. -/
theorem amendAndDraftChangeTheRequest : Obligations.AmendAndDraftChangeTheRequest := by
  unfold Obligations.AmendAndDraftChangeTheRequest
  refine ⟨fun ring s u c o r q b h hreq hlive hbody hform hq hmethod hadmit => ?_,
    fun ring s u c o r b ts h hreq hlive hspec hbody hlow hhigh hlen hzero hts => ?_, fun ring s u c o hnone => ⟨fun h => ?_, fun h => ?_⟩⟩
  · rw [exec_amend_of_sealed h, amendBody_of_pass hreq hlive hbody hform hq hmethod hadmit]
  · rw [exec_draft_of_sealed h, draftBody_of_tokens hreq hlive hbody hspec hlow hhigh hlen hzero hts]
  · rw [exec_amend_of_sealed h, amendBody_of_no_request hnone]
  · rw [exec_draft_of_sealed h, draftBody_of_no_request hnone]

end Sys2Proof.Machine
end

section
/-! SUPPORT. The commands that change the Step Catalogue and its archive, and those that stage firmware and the capsule (R109, R184 to R190, R336, R370, R396). -/

namespace Sys2Proof.Machine

open Sys2Proof.Safety Sys2Proof.Bytes

/-! ## What an activity that begins leaves (R397) -/

theorem State.startActivity_wings (s : State) (code scope : Nat) (seq : Option W32) (fence : Nat) :
    (s.startActivity code scope seq fence).wings = s.wings :=
  State.event_wings ..

/-- It joins the running ones; the rest of maintenance stays. -/
theorem State.startActivity_maint (s : State) (code scope : Nat) (seq : Option W32) (fence : Nat) :
    (s.startActivity code scope seq fence).maint = { s.maint with running := s.maint.running ++ [(Activity.mk code scope seq fence)] } :=
  State.event_maint ..

theorem State.wingAt_congr {s t : State} (h : t.wings = s.wings) (w : Nat) : t.wingAt w = s.wingAt w := by
  unfold State.wingAt
  rw [h]

/-! ## The catalogue (R184 to R190) -/

/-- An accepted section waits for the flip, and the committed one stays until then (R185, R188). -/
theorem State.wingAt_acceptCommit (s : State) (w : Nat) (es : List CatEntry) (sig : Sig) (seq : Option W32) :
    ((s.acceptCommit w es sig seq).wingAt w).commitNext = some (es, sig)
      ∧ ((s.acceptCommit w es sig seq).wingAt w).committed = (s.wingAt w).committed := by
  have hperiod : ((s.keepPeriod w).wingAt w).committed = (s.wingAt w).committed := by
    rw [State.keepPeriod, State.wingAt_updWing, if_pos rfl]
  have hstart : ∀ t : State, t.wings = (s.keepPeriod w).wings →
      ((t.startActivity 4 w seq 0).wingAt w).committed = (s.wingAt w).committed := fun t ht => by
    rw [State.wingAt_congr ((State.startActivity_wings ..).trans ht), hperiod]
  unfold State.acceptCommit
  dsimp only
  rw [State.wingAt_updWing, if_pos rfl]
  refine ⟨rfl, hstart _ ?_⟩
  split
  · rw [State.event_wings]
    rfl
  · rfl

/-- On a wing outside the paired set, a complete section of one geometry that the wing can run goes by its signature (R187). -/
theorem commitBody_of_section {u : State} {c : Cmd} {es : List CatEntry} (hpaired : (u.wingAt (field c.payload 0 1)).paired = false)
    (hn : field c.payload 4 4 ≠ 0) (hsize : field c.payload 4 4 ≤ u.sectionSize)
    (hes : (u.wingAt (field c.payload 0 1)).stagedEntries (field c.payload 4 4) = some es) (hgeo : oneGeometry es = true)
    (hfeasible : u.commitInfeasible (field c.payload 0 1) es = false) (hfree : u.conflict 4 (field c.payload 0 1) = none) :
    commitBody c u =
      let w := field c.payload 0 1
      let sig : Sig := BitVec.ofNat 768 (fieldBe c.payload 16 96)
      if Config.ecdsaVerify u.cfg.catalogueKey (catalogueDigest w es) sig
      then { state := u.acceptCommit w es sig (some u.rings.applySeq), status := stPending }
      else .refuse u stBadSignature := by
  have hcount : (decide (field c.payload 4 4 = 0) || decide (u.sectionSize < field c.payload 4 4)) = false := by
    simp [hn, hsize]
  unfold commitBody
  simp only [hpaired, Bool.false_and, Bool.and_false, Bool.false_eq_true, if_false, hcount, hes, hgeo, Bool.not_true, hfeasible, hfree]
  cases Config.ecdsaVerify u.cfg.catalogueKey _ _ <;> rfl

theorem exec_catStage (ring : Fin 8) (s : State) : exec (.catStage ring) s = execCatStage ring s := rfl

theorem exec_catCommit (ring : Fin 8) (s : State) : exec (.catCommit ring) s = execCatCommit ring s := rfl

theorem exec_catArchive (ring : Fin 8) (s : State) : exec (.catArchive ring) s = execCatArchive ring s := rfl

theorem exec_catArchiveDone (s : State) : exec .catArchiveDone s = execCatArchiveDone s := rfl

/-- Settles O20: staging by its first failing entry, the commit by its signature, the archive by its two acts. -/
theorem catalogueCommands : Obligations.CatalogueCommands := by
  unfold Obligations.CatalogueCommands
  refine ⟨fun ring s u c h => ?_, fun ring s u c es h hpaired hn hsize hes hgeo hfeasible hfree => ?_, State.wingAt_acceptCommit,
    fun ring s u c h hcat hcheckpoint hactivation => ?_, fun s k slot hdead hjob => ?_⟩
  · rw [exec_catStage, execCatStage, clearCommand_clear h]
    exact ⟨fun i cond hfails => by simp only [stageBody, hfails], fun hpass hfree => by simp only [stageBody, hpass, hfree]⟩
  · rw [exec_catCommit, execCatCommit, clearCommand_clear h, commitBody_of_section hpaired hn hsize hes hgeo hfeasible hfree]
  · have hready : ((List.range 8).any fun w => bit (field c.payload 0 1) w && !u.hasCatalogue w) = false := by
      simpa [List.any_eq_false] using hcat
    rw [exec_catArchive, execCatArchive, clearCommand_clear h]
    simp only [hready, hcheckpoint, hactivation, Bool.false_eq_true, if_false, List.append_nil]
    rfl
  · rw [exec_catArchiveDone]
    simp [execCatArchiveDone, hdead, hjob]

/-! ## Firmware and the capsule (R109, R336, R370, R396) -/

theorem exec_fwStage (ring : Fin 8) (s : State) : exec (.fwStage ring) s = execFwStage ring s := rfl

theorem exec_fwActivate (ring : Fin 8) (verdict : Option ImageInfo) (s : State) :
    exec (.fwActivate ring verdict) s = execFwActivate ring verdict s := rfl

theorem exec_capsuleWrite (ring : Fin 8) (verdict : Option Capsule) (s : State) :
    exec (.capsuleWrite ring verdict) s = execCapsuleWrite ring verdict s := rfl

/-- Settles O24: no running activity and no other staging refuses, so the image goes by its verdict, the capsule by whether its bytes are complete. -/
theorem firmwareAndCapsule : Obligations.FirmwareAndCapsule := by
  unfold Obligations.FirmwareAndCapsule
  refine ⟨fun ring s u c h hfree hcap => ?_, fun ring verdict s u c h hfree hstaged halone => ?_,
    fun ring verdict s u c h hfw hfree => ?_⟩
  · rw [exec_fwStage, execFwStage, clearCommand_clear h]
    simp only [hfree, hcap, List.isEmpty_nil, Bool.not_true, Bool.false_eq_true, if_false, State.wrote_maint, State.startActivity_maint]
  · have hstage : u.maint.fwStage.isEmpty = false := by simpa using hstaged
    rw [exec_fwActivate, execFwActivate, clearCommand_clear h]
    cases verdict <;> simp only [hfree, hstage, halone, Bool.false_eq_true, if_false]
  · have hstage : (!u.maint.fwStage.isEmpty) = false := by rw [hfw]; rfl
    rw [exec_capsuleWrite, execCapsuleWrite, clearCommand_clear h]
    dsimp only
    rewrite [hstage, if_neg Bool.false_ne_true, hfree]
    rfl

end Sys2Proof.Machine
end

section
/-! SUPPORT. Mailbox channels, epochs and lock registers: an access to their registers through either port, what a post, an acknowledgement and an epoch write make of the state, and who owns a lock after a read and after a write (R119 to R135). -/

namespace Sys2Proof.Machine

open Sys2Proof.Safety Sys2Proof.Bytes

/-! ## Registers of the MBX and LCK windows through either port (R47, R434) -/

theorem hifWin_mbx {a : Nat} (hlo : 0x10000 ≤ a) (hhi : a < 0x20000) : hifWin a = .mbx := by
  unfold hifWin
  iterate 4 rw [if_neg (by omega)]
  rw [if_pos hhi]

theorem hifWin_lck {a : Nat} (hlo : 0x20000 ≤ a) (hhi : a < 0x21000) : hifWin a = .lck := by
  unfold hifWin
  iterate 5 rw [if_neg (by omega)]
  rw [if_pos hhi]

/-- Both ports reach the same register of the MBX window. -/
theorem portOffset_mbxOffset (port : Port) (off : Nat) : portOffset port (mbxOffset port off) = 0x10000 + off := by
  cases port <;> rfl

section
variable {s : State} {port : Port} {mid : Byte}

/-- A 4-byte write that reaches a register of the MBX window. -/
theorem State.write4_mbx {off : Nat} (v : W32) (h : Reaches s port mid (mbxOffset port off) 4) (hoff : off < 0x10000) :
    s.write4 port mid (mbxOffset port off) v =
      (s.writeMbx mid (0x10000 + off) v.toNat).2.respond mid (s.writeMbx mid (0x10000 + off) v.toNat).1 [] := by
  have hm : hifWin (0x10000 + off) = .mbx := hifWin_mbx (by omega) (by omega)
  have hw : s.writeWord mid (0x10000 + off) v.toNat = s.writeMbx mid (0x10000 + off) v.toNat := by simp only [State.writeWord, hm]
  rw [State.write4_of_reaches v h (by rw [portOffset_mbxOffset, hm]; rfl), portOffset_mbxOffset, hw]

end

/-! ## Posts (R119, R122, R123, R124) -/

theorem State.chanAt_congr {s t : State} (h : t.mbx = s.mbx) (n : Nat) : t.chanAt n = s.chanAt n := by
  unfold State.chanAt
  rw [h]

/-- The notice of a post leaves the channels and the memory. -/
theorem State.postNotice_mbx_mem (s : State) (n : Nat) : (s.postNotice n).mbx = s.mbx ∧ (s.postNotice n).mem = s.mem := by
  unfold State.postNotice
  dsimp only
  split
  · exact ⟨congrArg StoredPart.mbx (s.stored_wake _), congrArg StoredPart.mem (s.stored_wake _)⟩
  · split
    · exact ⟨State.keeperCause_mbx .., State.keeperCause_mem ..⟩
    · exact ⟨rfl, rfl⟩

/-- A post changes its channel alone, and no memory. -/
theorem State.postMessage_spec (s : State) (n : Nat) (mid : Byte) (w : W32) :
    (∀ j, (s.postMessage n mid w).chanAt j = if j = n then
        (s.chanAt n).posted s.kpr.ktime mid w (s.epochOf (s.chanAt n).sender.toNat) (s.epochOf (s.chanAt n).receiver.toNat)
      else s.chanAt j)
    ∧ (s.postMessage n mid w).mem = s.mem := by
  unfold State.postMessage
  dsimp only
  generalize (s.chanAt n).posted _ _ _ _ _ = x
  obtain ⟨hmbx, hmem⟩ := (if x.collision then (s.updChan n fun _ => x).mark (64 + n) else s.updChan n fun _ => x).postNotice_mbx_mem n
  refine ⟨fun j => ?_, hmem.trans ?_⟩
  · rw [← State.chanAt_updChan s n (fun _ => x) j]
    exact State.chanAt_congr (hmbx.trans (by split <;> rfl)) j
  · split <;> rfl

/-- A post leaves a channel's binding. -/
theorem Chan.posted_receivedBy (c : Chan) (now : W64) (mid : Byte) (w : W32) (tx rx : W16) (m : Nat) :
    (c.posted now mid w tx rx).receivedBy m = c.receivedBy m := by
  unfold Chan.posted
  dsimp only
  split
  · rfl
  · split <;> rfl

/-- Nothing is kept of this tick while no post of it has come. -/
theorem Chan.prior_filter_of_first {c : Chan} {now : W64} (h : ∀ p, c.prior = some p → p.tick ≠ now) :
    (c.prior.filter fun p => p.tick = now) = none := by
  rw [Option.filter_eq_none_iff]
  simpa using h

/-- The first post of a tick becomes the message, and COLLISION tells a slot that was full (R122, R123). -/
theorem Chan.posted_of_first {c : Chan} {now : W64} (mid : Byte) (w : W32) (tx rx : W16) (h : ∀ p, c.prior = some p → p.tick ≠ now) :
    ∃ p, c.posted now mid w tx rx = { c with
      slot := c.staging ++ [w], full := true, collision := c.collision || c.full, prior := some p, msgTx := tx, msgRx := rx } := by
  unfold Chan.posted
  rw [Chan.prior_filter_of_first h]
  exact ⟨_, rfl⟩

/-- The Keeper acts on messages to itself alone. -/
theorem State.keeperMail_of_other {s : State} {n : Nat} (h : (s.chanAt n).receivedBy 0x48 = false) : s.keeperMail n = s := by
  simp only [State.keeperMail, h, Bool.not_false, if_true]

/-- Word 7 of a channel's message posts it, from the bound sender (R119, R122). -/
theorem State.writeMbx_lastWord (s : State) (mid : Byte) (chan : Fin 32) (v : W32) :
    s.writeMbx mid (0x10000 + (chan.val * 0x40 + 0x1C)) v.toNat =
      if (s.chanAt chan.val).sentBy mid.toNat then (true, (s.postMessage chan.val mid v).keeperMail chan.val)
      else (false, s.logRefused mid (0x10000 + (chan.val * 0x40 + 0x1C))) := by
  have hn : (0x10000 + (chan.val * 0x40 + 0x1C) - 0x10000) / 0x40 = chan.val := by omega
  have hk : (0x10000 + (chan.val * 0x40 + 0x1C)) % 0x40 = 0x1C := by omega
  rw [State.writeMbx, if_pos (by omega), if_pos (by omega), State.writeMessage, hn, hk, BitVec.ofNat_toNat, BitVec.setWidth_eq]
  cases (s.chanAt chan.val).sentBy mid.toNat <;> rfl

/-! ## Acknowledgements (R119, R125) -/

/-- In a tick without a post the acknowledgement empties a full slot and carries its SEQ and stamps. -/
theorem Chan.acked_of_no_post {c : Chan} {now : W64} (code : W16) (h : ∀ p, c.prior = some p → p.tick ≠ now) :
    c.acked now code = if c.full then { c with
      full := false, ackValid := true, ackSeq := c.seq, ackCode := code, ackTx := c.msgTx, ackRx := c.msgRx } else c := by
  unfold Chan.acked
  rw [Chan.prior_filter_of_first h]

/-- An acknowledgement changes its channel alone, no memory and no ring. -/
theorem State.writeAckReg_spec (s : State) (n : Nat) (code : W16) :
    (∀ j, (s.writeAckReg n code).chanAt j = if j = n then (s.chanAt n).acked s.kpr.ktime code else s.chanAt j)
    ∧ (s.writeAckReg n code).mem = s.mem ∧ (s.writeAckReg n code).rings = s.rings := by
  unfold State.writeAckReg
  dsimp only
  refine ⟨fun j => ?_, ?_, ?_⟩
  · rw [← State.chanAt_updChan s n (fun _ => (s.chanAt n).acked s.kpr.ktime code) j]
    exact State.chanAt_congr (by split <;> rfl) j
  · split <;> rfl
  · split <;> rfl

/-- MBX_ACK of a channel is written by the bound receiver (R119). -/
theorem State.writeMbx_ack (s : State) (mid : Byte) (chan : Fin 32) (v : Nat) :
    s.writeMbx mid (0x10000 + (chan.val * 0x40 + 0x24)) v =
      if (s.chanAt chan.val).receivedBy mid.toNat then (true, s.writeAckReg chan.val (BitVec.ofNat 16 v))
      else (false, s.logRefused mid (0x10000 + (chan.val * 0x40 + 0x24))) := by
  have hn : (0x10000 + (chan.val * 0x40 + 0x24) - 0x10000) / 0x40 = chan.val := by omega
  have hk : (0x10000 + (chan.val * 0x40 + 0x24)) % 0x40 = 0x24 := by omega
  rw [State.writeMbx, if_pos (by omega), hk, if_neg (by decide), if_neg (by decide), if_pos rfl, State.writeAck, hn]

/-! ## Epochs (R128, R135) -/

/-- MBX_EPOCH_i is written by the identity it belongs to (R128). -/
theorem State.writeMbx_epoch (s : State) (mid : Byte) (index : Fin 7) (v : Nat) :
    s.writeMbx mid (0x10000 + (0x810 + 4 * index.val)) v =
      if epochIndex mid.toNat = some index.val then (true, s.writeEpoch index.val (BitVec.ofNat 16 v)) else (false, s) := by
  have hi : (0x10000 + (0x810 + 4 * index.val) - 0x10810) / 4 = index.val := by omega
  rw [State.writeMbx, if_neg (by omega), if_pos (by omega), hi, State.writeEpochReg]

/-! ## The rows of the mailbox -/

section
variable {s : State} {port : Port} {mid : Byte} {chan : Fin 32} {index : Fin 7}

theorem exec_post (v : W32) (h : Reaches s port mid (mbxOffset port (chan.val * 0x40 + 0x1C)) 4) :
    exec (.post port mid chan v) s = .next (
      if (s.chanAt chan.val).sentBy mid.toNat then ((s.postMessage chan.val mid v).keeperMail chan.val).respond mid true []
      else (s.logRefused mid (0x10000 + (chan.val * 0x40 + 0x1C))).respond mid false []) := by
  change Host.Outcome.next (s.write4 port mid (mbxOffset port (chan.val * 0x40 + 0x1C)) v) = _
  rw [State.write4_mbx v h (by omega), State.writeMbx_lastWord]
  split <;> rfl

theorem exec_mbxAck (v : W32) (h : Reaches s port mid (mbxOffset port (chan.val * 0x40 + 0x24)) 4) :
    exec (.mbxAck port mid chan v) s = .next (
      if (s.chanAt chan.val).receivedBy mid.toNat then (s.writeAckReg chan.val (BitVec.ofNat 16 v.toNat)).respond mid true []
      else (s.logRefused mid (0x10000 + (chan.val * 0x40 + 0x24))).respond mid false []) := by
  change Host.Outcome.next (s.write4 port mid (mbxOffset port (chan.val * 0x40 + 0x24)) v) = _
  rw [State.write4_mbx v h (by omega), State.writeMbx_ack]
  split <;> rfl

theorem exec_mbxEpoch (v : W32) (h : Reaches s port mid (mbxOffset port (0x810 + 4 * index.val)) 4) :
    exec (.mbxEpoch port mid index v) s = .next (
      if epochIndex mid.toNat = some index.val then (s.writeEpoch index.val (BitVec.ofNat 16 v.toNat)).respond mid true []
      else s.respond mid false []) := by
  change Host.Outcome.next (s.write4 port mid (mbxOffset port (0x810 + 4 * index.val)) v) = _
  rw [State.write4_mbx v h (by omega), State.writeMbx_epoch]
  split <;> rfl

end

/-- Settles O32: each write by whether its MID is the bound one, and what it then makes of the channel or of the identity. -/
theorem mailboxesPostAndAcknowledge : Obligations.MailboxesPostAndAcknowledge := by
  unfold Obligations.MailboxesPostAndAcknowledge
  refine ⟨fun port mid chan v s => ?_, fun port mid chan v s => ?_, fun port mid index v s h => ?_⟩
  · intro a ch h
    refine ⟨fun hother => ?_, fun hsender => ?_⟩
    · rw [exec_post v h, if_neg (Bool.eq_false_iff.mp hother), State.logRefused, Nat.add_assoc]
    · obtain ⟨hchans, hmem⟩ := s.postMessage_spec chan.val mid v
      have hposted := (hchans chan.val).trans (if_pos rfl)
      refine ⟨by rw [exec_post v h, if_pos hsender], fun hreceiver => ?_, fun hfirst => ?_, fun n hn => (hchans n).trans (if_neg hn), hmem⟩
      · exact State.keeperMail_of_other (by rw [hposted, Chan.posted_receivedBy]; exact hreceiver)
      · rw [hposted]
        exact Chan.posted_of_first _ _ _ _ hfirst
  · intro a ch h
    refine ⟨fun hother => ?_, fun hreceiver hquiet => ?_⟩
    · rw [exec_mbxAck v h, if_neg (Bool.eq_false_iff.mp hother), State.logRefused, Nat.add_assoc]
    · obtain ⟨hchans, hmem, hrings⟩ := s.writeAckReg_spec chan.val (BitVec.ofNat 16 v.toNat)
      refine ⟨_, (exec_mbxAck v h).trans (congrArg Host.Outcome.next (if_pos hreceiver)), ?_, fun n hn => (hchans n).trans (if_neg hn),
        hmem, State.respond_rings_congr hrings ..⟩
      exact ((hchans chan.val).trans (if_pos rfl)).trans (Chan.acked_of_no_post _ hquiet)
  · exact ⟨fun hother => by rw [exec_mbxEpoch v h, if_neg hother], fun hown => by rw [exec_mbxEpoch v h, if_pos hown]; rfl⟩

/-! ## Lock registers through either port (R434) -/

/-- A lock register is reached in the LCK window through HIF, and at the top of the MBX window through MBX. -/
theorem lockOffset_cases (port : Port) (lock : Fin 64) :
    portOffset port (lockOffset port lock.val) = 0x20000 + 4 * lock.val ∧ hifWin (0x20000 + 4 * lock.val) = .lck
    ∨ portOffset port (lockOffset port lock.val) = 0x1F000 + 4 * lock.val ∧ hifWin (0x1F000 + 4 * lock.val) = .mbx := by
  cases port with
  | hif => exact .inl ⟨rfl, hifWin_lck (by omega) (by omega)⟩
  | mbx =>
    refine .inr ⟨?_, hifWin_mbx (by omega) (by omega)⟩
    simp only [portOffset, lockOffset]
    omega

theorem lockOffset_isRegister (port : Port) (lock : Fin 64) : (hifWin (portOffset port (lockOffset port lock.val))).isRegister = true := by
  obtain ⟨ha, hw⟩ | ⟨ha, hw⟩ := lockOffset_cases port lock <;> rw [ha, hw] <;> rfl

/-- A write to either address of a lock register is a write to the lock. -/
theorem State.writeWord_lock (s : State) (mid : Byte) (port : Port) (lock : Fin 64) (v : Nat) :
    s.writeWord mid (portOffset port (lockOffset port lock.val)) v = (true, s.release lock.val mid) := by
  obtain ⟨ha, hw⟩ | ⟨ha, hw⟩ := lockOffset_cases port lock
  · have hi : (0x20000 + 4 * lock.val - 0x20000) / 4 = lock.val := by omega
    simp only [State.writeWord, ha, hw, if_pos (show 0x20000 + 4 * lock.val < 0x20100 by omega), hi]
  · have hi : (0x1F000 + 4 * lock.val - 0x1F000) / 4 = lock.val := by omega
    simp only [State.writeWord, ha, hw]
    rw [State.writeMbx, if_neg (by omega), if_neg (by omega), if_pos (by omega), hi]

/-- No lock register is a word of a pair. -/
theorem pairLow_of_lock {a : Nat} (hlo : 0x1F000 ≤ a) (hhi : a < 0x20100) : (pairLow a || (decide (4 ≤ a) && pairLow (a - 4))) = false := by
  have hnot (b : Nat) (hb : 0x2000 ≤ b) (hb' : b < 0x400000) : pairLow b = false := by
    refine Bool.eq_false_iff.mpr fun hp => ?_
    obtain ⟨hbounds, -⟩ := pairLow_bounds hp
    omega
  rw [hnot a (by omega) (by omega), hnot (a - 4) (by omega) (by omega), Bool.and_false, Bool.or_false]

/-- A read of either address of a lock register is a read of the lock. -/
theorem State.readWord_lock (s : State) (mid : Byte) (port : Port) (lock : Fin 64) :
    s.readWord mid (portOffset port (lockOffset port lock.val)) = (true, s.lockRead lock.val mid, s.acquire lock.val mid) := by
  obtain ⟨ha, hw⟩ | ⟨ha, hw⟩ := lockOffset_cases port lock
  · have hi : (0x20000 + 4 * lock.val - 0x20000) / 4 = lock.val := by omega
    rw [ha, State.readWord, pairLow_of_lock (by omega) (by omega), if_neg Bool.false_ne_true, hw]
    dsimp only
    rw [if_pos (by omega), hi, State.readLock]
  · have hi : (0x1F000 + 4 * lock.val - 0x1F000) / 4 = lock.val := by omega
    rw [ha, State.readWord, pairLow_of_lock (by omega) (by omega), if_neg Bool.false_ne_true, hw]
    dsimp only
    rw [if_neg (by omega), if_pos (by omega), hi, State.readLock]

section
variable {s : State} {port : Port} {mid : Byte} {lock : Fin 64}

theorem exec_lockRelease (v : W32) (h : Reaches s port mid (lockOffset port lock.val) 4) :
    exec (.lockRelease port mid lock v) s = .next ((s.release lock.val mid).respond mid true []) := by
  change Host.Outcome.next (s.write4 port mid (lockOffset port lock.val) v) = _
  rw [State.write4_of_reaches v h (lockOffset_isRegister port lock), State.writeWord_lock]

theorem exec_lockAcquire (h : Reaches s port mid (lockOffset port lock.val) 4) :
    exec (.lockAcquire port mid lock) s = .next ((s.acquire lock.val mid).respond mid true (ofLe 4 (s.lockRead lock.val mid))) := by
  change Host.Outcome.next (s.read4 port mid (lockOffset port lock.val)) = _
  rw [State.read4_of_reaches h (lockOffset_isRegister port lock), State.readWord_lock]

end

/-! ## The readers of one tick (R134) -/

theorem lowestReader_concat (rs : List (Byte × Nat)) (r : Byte × Nat) :
    lowestReader (rs ++ [r]) = match lowestReader rs with
      | none => some r.1
      | some m => if r.1.toNat < m.toNat then some r.1 else some m :=
  List.foldl_append ..

theorem lowestReader_eq_none {rs : List (Byte × Nat)} (h : lowestReader rs = none) : rs = [] := by
  obtain rfl | ⟨rs, r, rfl⟩ := rs.eq_nil_or_concat'
  · rfl
  · rw [lowestReader_concat] at h
    split at h
    · nomatch h
    · split at h <;> nomatch h

/-- The lowest reader is a reader, and no reader is lower. -/
theorem lowestReader_of_some {rs : List (Byte × Nat)} {m : Byte} (h : lowestReader rs = some m) :
    (∃ r ∈ rs, r.1 = m) ∧ ∀ r ∈ rs, m.toNat ≤ r.1.toNat := by
  induction rs using List.reverseRecOn generalizing m with
  | nil => nomatch h
  | append_singleton rs x ih =>
    rw [lowestReader_concat] at h
    cases hrest : lowestReader rs with
    | none =>
      rw [hrest] at h
      cases h
      rw [lowestReader_eq_none hrest]
      simp
    | some l =>
      obtain ⟨⟨y, hy, hyl⟩, hlow⟩ := ih hrest
      rw [hrest] at h
      dsimp only at h
      simp only [List.mem_append, List.mem_singleton]
      split at h <;> cases h
      next hlt =>
        refine ⟨⟨x, .inr rfl, rfl⟩, ?_⟩
        rintro r (hr | rfl)
        · exact hlt.le.trans (hlow r hr)
        · exact le_rfl
      next hge =>
        refine ⟨⟨y, .inl hy, hyl⟩, ?_⟩
        rintro r (hr | rfl)
        · exact hlow r hr
        · exact not_lt.mp hge

/-- A reader below whom there is no other is the lowest. -/
theorem lowestReader_eq_some {rs : List (Byte × Nat)} {m : Byte} {k : Nat} (hm : (m, k) ∈ rs) (hlow : ∀ r ∈ rs, m.toNat ≤ r.1.toNat) :
    lowestReader rs = some m := by
  cases h : lowestReader rs with
  | none =>
    rw [lowestReader_eq_none h] at hm
    nomatch hm
  | some l =>
    obtain ⟨⟨r, hr, rfl⟩, hl⟩ := lowestReader_of_some h
    exact congrArg some (BitVec.eq_of_toNat_eq (Nat.le_antisymm (hl _ hm) (hlow r hr)))

theorem State.amendResponse_mbx (s : State) (k word : Nat) : (s.amendResponse k word).mbx = s.mbx := by
  unfold State.amendResponse
  dsimp only
  split <;> rfl

/-- Settling the readers of a tick gives the lock to its owner; the rest is in their responses. -/
theorem State.settleReaders_mbx (s : State) (n : Nat) (owner : Byte) (rs : List (Byte × Nat)) :
    (s.settleReaders n owner rs).mbx = { s.mbx with locks := SMap.put s.mbx.locks n owner } :=
  List.foldlRecOn (motive := fun t : State => t.mbx = { s.mbx with locks := SMap.put s.mbx.locks n owner }) rs _ rfl
    fun t ht _ _ => (t.amendResponse_mbx _ _).trans ht

/-! ## Writes to a lock (R133, R134) -/

/-- The MID that has lock n behind its release by a MID: where the lock was not free before the tick's reads, the lowest other reader. -/
def State.heir (s : State) (n : Nat) (mid : Byte) : Option Byte :=
  if (s.readsNow n).fresh then none else lowestReader ((s.readsNow n).readers.filter fun r => decide (r.1 ≠ mid))

section
variable {s : State} {n : Nat} {mid : Byte}

theorem State.release_of_other (h : SMap.find s.mbx.locks n ≠ some mid) : s.release n mid = s := by
  rw [State.release, if_neg h]

/-- The owner's release leaves the lock to its heir, and every other lock to its owner. -/
theorem State.find_release (hw : SMap.wf s.mbx.locks = true) (h : SMap.find s.mbx.locks n = some mid) (k : Nat) :
    SMap.find (s.release n mid).mbx.locks k = if k = n then s.heir n mid else SMap.find s.mbx.locks k := by
  rw [State.release, if_pos h, State.heir]
  dsimp only
  cases (s.readsNow n).fresh with
  | true => exact SMap.find_drop hw n k
  | false =>
    simp only [Bool.false_eq_true, if_false]
    cases lowestReader ((s.readsNow n).readers.filter fun r => decide (r.1 ≠ mid)) with
    | none => exact SMap.find_drop hw n k
    | some m =>
      simp only [State.settleReaders_mbx, SMap.find_put, SMap.find_drop hw]
      by_cases hk : k = n <;> simp [hk]

/-- The heir of a lock is another MID than the one that releases it. -/
theorem State.heir_ne (s : State) (n : Nat) (mid : Byte) : s.heir n mid ≠ some mid := by
  unfold State.heir
  split
  · nofun
  · intro h
    obtain ⟨⟨r, hr, hmid⟩, -⟩ := lowestReader_of_some h
    exact of_decide_eq_true (List.mem_filter.mp hr).2 hmid

/-- A lock that no other master has read in the tick has no heir. -/
theorem State.heir_of_no_other (h : ∀ r ∈ (s.readsNow n).readers, r.1 = mid) : s.heir n mid = none := by
  have hnone : ((s.readsNow n).readers.filter fun r => decide (r.1 ≠ mid)) = [] := by simpa using h
  rw [State.heir, hnone]
  exact ite_self none

/-- The lowest other reader is the heir of a lock that was held before the tick's reads (R134). -/
theorem State.heir_of_lowest {m : Byte} {k : Nat} (hheld : (s.readsNow n).fresh = false) (hm : (m, k) ∈ (s.readsNow n).readers) (hne : m ≠ mid)
    (hlow : ∀ r ∈ (s.readsNow n).readers, r.1 ≠ mid → m.toNat ≤ r.1.toNat) : s.heir n mid = some m := by
  rw [State.heir, hheld, if_neg Bool.false_ne_true]
  refine lowestReader_eq_some (k := k) (List.mem_filter.mpr ⟨hm, decide_eq_true hne⟩) fun r hr => ?_
  obtain ⟨hr, hother⟩ := List.mem_filter.mp hr
  exact hlow r hr (of_decide_eq_true hother)

end

/-- Settles O33: the writer owns the lock, and its heir has it, or another does, and nothing changes. -/
theorem lockWritesRelease : Obligations.LockWritesRelease := by
  unfold Obligations.LockWritesRelease
  intro port mid lock v s h hw
  refine ⟨_, exec_lockRelease v h, ?_⟩
  rw [State.respond_mbx]
  by_cases hown : SMap.find s.mbx.locks lock.val = some mid
  · have hheir := (State.find_release hw hown lock.val).trans (if_pos rfl)
    refine ⟨fun _ => ?_, fun _ hreaders => ?_, fun _ hheld m k hm hne hlow => ?_, fun hother => absurd hown hother, rfl,
      fun n hn => (State.find_release hw hown n).trans (if_neg hn)⟩
    · rw [hheir]
      exact s.heir_ne lock.val mid
    · rw [hheir, State.heir_of_no_other hreaders]
    · rw [hheir, State.heir_of_lowest hheld hm hne hlow]
  · rw [State.release_of_other hown]
    exact ⟨fun howns => absurd howns hown, fun howns => absurd howns hown, fun howns => absurd howns hown, fun _ => rfl, rfl, fun _ _ => rfl⟩

/-! ## Reads of a lock (R132, R134) -/

section
variable {s : State} {n : Nat} {mid o : Byte}

theorem State.acquire_of_free (h : SMap.find s.mbx.locks n = none) :
    (s.acquire n mid).mbx.locks = SMap.put s.mbx.locks n mid ∧ (s.acquire n mid).rings = s.rings ∧ s.lockRead n mid = mid.toNat := by
  simp only [State.acquire, State.lockRead, h, and_self]

/-- A lock that stays with its owner, who may be the reader, is left and read as it is. -/
theorem State.acquire_of_held (h : SMap.find s.mbx.locks n = some o) (hkeeps : (s.readsNow n).fresh = false ∨ o.toNat ≤ mid.toNat) :
    (s.acquire n mid).mbx.locks = s.mbx.locks ∧ (s.acquire n mid).rings = s.rings
      ∧ s.lockRead n mid = if o = mid then 2 ^ 30 + mid.toNat else 2 ^ 31 + o.toNat := by
  have hstays : ((s.readsNow n).fresh && decide (mid.toNat < o.toNat)) = false := by
    obtain hheld | hle := hkeeps
    · rw [hheld, Bool.false_and]
    · rw [decide_eq_false (Nat.not_lt.mpr hle), Bool.and_false]
  simp only [State.acquire, State.lockRead, State.lockWord, h, hstays, Bool.false_eq_true, if_false, and_self]

/-- A lock that a higher MID took in this tick goes to the reader (R134). -/
theorem State.acquire_of_taken (h : SMap.find s.mbx.locks n = some o) (hfresh : (s.readsNow n).fresh = true) (hlow : mid.toNat < o.toNat) :
    (s.acquire n mid).mbx.locks = SMap.put s.mbx.locks n mid ∧ s.lockRead n mid = mid.toNat := by
  have htaken : ((s.readsNow n).fresh && decide (mid.toNat < o.toNat)) = true := by rw [hfresh, decide_eq_true hlow, Bool.and_self]
  simp only [State.acquire, State.lockRead, h, htaken, if_true, State.settleReaders_mbx, and_self]

end

/-- Settles O34: the lock is free, stays with its owner, or goes to the lower of the tick's readers. -/
theorem lockReadsAcquire : Obligations.LockReadsAcquire := by
  unfold Obligations.LockReadsAcquire
  intro port mid lock s h
  refine ⟨_, exec_lockAcquire h, fun hfree => ?_, fun o hown hkeeps => ?_, fun o hown hfresh hlow => ?_⟩
  · obtain ⟨hlocks, hrings, hword⟩ := State.acquire_of_free (mid := mid) hfree
    exact ⟨hlocks, by rw [hword, State.respond_rings_congr hrings]⟩
  · obtain ⟨hlocks, hrings, hword⟩ := State.acquire_of_held hown hkeeps
    exact ⟨hlocks, by rw [hword, State.respond_rings_congr hrings]⟩
  · obtain ⟨hlocks, hword⟩ := State.acquire_of_taken hown hfresh hlow
    exact ⟨hlocks, by rw [hword]; rfl⟩

end Sys2Proof.Machine
end

section
/-! SUPPORT. SHAPE_STATE: what each ACTION does to a shape of the committed section (R109, R189, R199, R200). -/

namespace Sys2Proof.Machine

open Sys2Proof.Safety Sys2Proof.Bytes

/-- A SHAPE_STATE packet that passes its checks and names a committed shape is its row's own part, answered. -/
theorem shapeCommand_of_clear {ring : Fin 8} {s u : State} {c : Cmd} {e : CatEntry} {action : Nat} (act : Nat → CatEntry → State → Done)
    (h : Clear 0x35 shapeLayout ring s c u) (hnamed : u.shapeNamed (field c.payload 0 2) = some e)
    (haction : field (s.cmdBytes ring.val ((s.pairAt ring.val).cmdCi.toNat % 4096 * 16 + 16) 16) 2 1 = action) :
    shapeCommand action act ring s = answered c u (act (shapeWing (field c.payload 0 2)) e u) := by
  rw [shapeCommand, if_neg fun hother => hother.1 haction, clearCommand_clear h]
  simp only [hnamed]

theorem exec_shapeStateRead (ring : Fin 8) (s : State) : exec (.shapeStateRead ring) s = execShapeStateRead ring s := rfl

theorem exec_shapeStateRelease (ring : Fin 8) (s : State) : exec (.shapeStateRelease ring) s = execShapeStateRelease ring s := rfl

theorem exec_shapeStateDisable (ring : Fin 8) (s : State) : exec (.shapeStateDisable ring) s = execShapeStateDisable ring s := rfl

/-- Settles O21: the packet's ACTION is its row's, so each row is its own part: RELEASE keeps the freed wing, and no held work refuses DISABLE. -/
theorem shapeStateRows : Obligations.ShapeStateRows := by
  unfold Obligations.ShapeStateRows
  intro ring s u c e h hnamed w act freed
  refine ⟨fun hread => ?_, fun hrelease hcode hfeasible => ?_, fun hdisable hfree => ?_⟩
  · rw [exec_shapeStateRead, execShapeStateRead, shapeCommand_of_clear _ h hnamed hread]
  · have hfreed : (decide (((u.wingAt w).shapeSt e).code ≠ 0) && withinDc (u.dcUs w) (periodUs (freed.allowed w))) = true := by
      rw [hfeasible, decide_eq_true hcode, Bool.and_self]
    rw [exec_shapeStateRelease, execShapeStateRelease, shapeCommand_of_clear _ h hnamed hrelease]
    dsimp only
    rw [if_pos hfreed]
  · have hheld : ¬ (decide (((u.wingAt w).shapeSt e).code ≠ 2) && decide (u.holdCause w e ≠ 0)) = true := by
      rw [Bool.and_eq_true, decide_eq_true_eq, decide_eq_true_eq]
      exact fun hwork => hfree.elim hwork.1 hwork.2
    rw [exec_shapeStateDisable, execShapeStateDisable, shapeCommand_of_clear _ h hnamed hdisable]
    dsimp only
    rw [if_neg hheld]

end Sys2Proof.Machine
end

section
/-! SUPPORT. AID_LOAD: the segment that a plaintext carries, and what BEGIN, STATES, MASKS, TRANSITIONS, FINAL and FREE leave of the aid (R272, R274, R277, R330, R340). -/

namespace Sys2Proof.SMap

/-- A listed value that is changed is found changed. -/
theorem find_adjust_self {α : Type} (m : SMap α) (q : Nat) (f : α → α) : find (adjust m q f) q = (find m q).map f := by
  unfold adjust
  cases hq : find m q with
  | none => exact hq
  | some x => rw [find_put, if_pos rfl, Option.map_some]

end Sys2Proof.SMap

namespace Sys2Proof.Machine

open Sys2Proof.Safety Sys2Proof.Bytes

/-! ## The segment that a plaintext carries (R330) -/

/-- SEG of a segment (R330, finding-aid segment table). -/
def segCode : AidSeg → Nat
  | .begin_ .. => 1
  | .states .. => 2
  | .masks .. => 3
  | .transitions .. => 4
  | .final => 5
  | .free => 6

theorem segCode_range (a : AidSeg) : 1 ≤ segCode a ∧ segCode a ≤ 6 := by
  cases a <;> simp [segCode]

/-- A field that lies inside the body is the plaintext's own (R329). -/
theorem field_openBody {pt b : List Byte} {off n : Nat} (h : openBody pt = some b) (hin : off + n ≤ b.length) :
    field b off n = field pt off n := by
  unfold openBody at h
  dsimp only at h
  split at h
  · obtain rfl := Option.some.inj h
    have hcut : n ≤ field pt 0 4 - off := by
      rw [List.length_take] at hin
      omega
    have hslice : slice (pt.take (field pt 0 4)) off n = slice pt off n := by
      rw [slice, slice, List.drop_take, List.take_take, Nat.min_eq_left hcut]
    exact congrArg le hslice
  · cases h

/-- A segment is parsed by its SEG, which its body holds. -/
theorem segCode_of_parseSeg {b : List Byte} {vocab : Nat} {a : AidSeg} (h : parseSeg b vocab = some a) :
    5 ≤ b.length ∧ field b 4 1 = segCode a := by
  unfold parseSeg at h
  dsimp only at h
  split at h
  · cases h
  next hform =>
    refine ⟨by omega, ?_⟩
    split at h
    case h_2 hseg =>
      split at h
      · split at h
        · cases h
        · cases h
          exact hseg
      · cases h
    case h_7 => cases h
    all_goals
      split at h
      · cases h
        assumption
      · cases h

section
variable {s : State} {g target n : Nat} {pt : List Byte} {a : AidSeg} (h : s.segCheck g target pt = .ok (n, a))
include h

/-- A segment that passes its checks is the plaintext's; each but BEGIN names an aid of the gallery (R272, R330). -/
theorem State.segCheck_ok : (∃ b vocab, openBody pt = some b ∧ parseSeg b vocab = some a)
    ∧ (segCode a = 1 ∨ ∃ x, SMap.find (s.galAt g).aids n = some x) := by
  have named : ∀ {x : Aid}, (SMap.find (s.galAt g).aids target).filter (fun a => !a.removed) = some x →
      SMap.find (s.galAt g).aids target = some x := fun hx => (Option.filter_eq_some_iff.mp hx).1
  unfold State.segCheck at h
  dsimp only at h
  split at h
  · cases h
  next b hbody =>
    split at h
    next hparse =>
      split at h
      · cases h
      · split at h
        · cases h
        · cases h
          exact ⟨⟨b, _, hbody, hparse⟩, .inl rfl⟩
    next x hparse hx =>
      split at h
      · cases h
      · cases h
        exact ⟨⟨b, _, hbody, hparse⟩, .inr ⟨x, named hx⟩⟩
    next x _ _ hparse hx =>
      split at h
      · cases h
        exact ⟨⟨b, _, hbody, hparse⟩, .inr ⟨x, named hx⟩⟩
      · cases h
    next => cases h

theorem State.segCode_of_segCheck : field pt 4 1 = segCode a := by
  obtain ⟨⟨b, vocab, hbody, hparse⟩, -⟩ := State.segCheck_ok h
  obtain ⟨hlen, hcode⟩ := segCode_of_parseSeg hparse
  rw [← field_openBody hbody hlen, hcode]

/-- A row takes the segments of its own SEG. -/
theorem State.segCode_of_isSeg {seg : Nat} (haccepts : isSeg seg pt = true) : segCode a = seg := by
  have hrange := segCode_range a
  rw [isSeg, State.segCode_of_segCheck h] at haccepts
  simp only [Bool.or_eq_true, Bool.and_eq_true, decide_eq_true_eq] at haccepts
  omega

end

/-! ## The aid behind a segment (R272 to R274, R277) -/

section
variable {s v : State} {g n : Nat}

theorem State.find_updAid (f : Aid → Aid) :
    SMap.find ((s.updAid g n f).galAt g).aids n = (SMap.find (s.galAt g).aids n).map f := by
  rw [State.updAid, State.galAt_updGal, if_pos rfl, SMap.find_adjust_self]

/-- Writes to stack memory leave the galleries. -/
theorem State.smpArea_galleries (s : State) (w base slot : Nat) (use : SmpUse) (bs : List Byte) :
    (s.smpArea w base slot use bs).galleries = s.galleries :=
  List.foldlRecOn (motive := fun t : State => t.galleries = s.galleries) _ _ rfl fun t ht _ _ => by
    obtain ⟨-, -, hgal, -⟩ := t.smpPut_keeps _
    exact hgal.trans ht

theorem State.writeAid_galleries (s : State) (g n w : Nat) (a : Aid) : (s.writeAid g n w a).galleries = s.galleries :=
  List.foldlRecOn (motive := fun t : State => t.galleries = s.galleries) _ _ (State.smpArea_galleries ..) fun _ ht _ _ =>
    (State.smpArea_galleries ..).trans ht

theorem State.foldl_writeAid_galleries (s : State) (g n : Nat) (a : Aid) (ws : List Nat) :
    (ws.foldl (fun t w => t.writeAid g n w a) s).galleries = s.galleries :=
  List.foldlRecOn (motive := fun t : State => t.galleries = s.galleries) ws _ rfl fun _ ht _ _ =>
    (State.writeAid_galleries ..).trans ht

/-- BEGIN lists an aid of the declared counts, not yet complete (R272). -/
theorem State.find_beginAid {vocab st m tr start : Nat} {lay : Option (List Nat × List Nat)}
    (h : s.beginAid g n vocab st m tr start lay = some v) :
    ∃ x, SMap.find (v.galAt g).aids n = some x ∧ x.vocab = vocab ∧ x.states = st ∧ x.masks = m ∧ x.transitions = tr ∧ x.start = start
      ∧ x.complete = false := by
  unfold State.beginAid at h
  dsimp only at h
  split at h
  · cases h
    rw [State.galAt_updGal, if_pos rfl, SMap.find_put, if_pos rfl]
    exact ⟨_, rfl, rfl, rfl, rfl, rfl, rfl, rfl⟩
  · cases h

/-- FINAL makes a listed aid complete (R273, R274). -/
theorem State.find_finalAid {lay : Option (List Nat × List Nat)} (h : s.finalAid g n lay = some v)
    {y : Aid} (hlisted : SMap.find (s.galAt g).aids n = some y) :
    ∃ x, SMap.find (v.galAt g).aids n = some x ∧ x.complete = true := by
  unfold State.finalAid at h
  dsimp only at h
  split at h
  · cases h
  · obtain rfl := Option.some.inj h
    rw [State.galAt_congr (State.foldl_writeAid_galleries ..), State.find_updAid, State.find_updAid, hlisted]
    exact ⟨_, rfl, rfl⟩

/-- The note of what the partner holds is all that changes of an aid behind its segment (R340). -/
theorem State.find_noted (a : AidSeg) {x : Aid} (hx : SMap.find (s.galAt g).aids n = some x) :
    ∃ told, SMap.find ((if s.pairActs then s.markTold g n true else s.aidAlone g n a).galAt g).aids n = some { x with told := told } := by
  have marked : ∀ told, SMap.find ((s.markTold g n told).galAt g).aids n = some { x with told := told } := fun told => by
    rw [State.markTold, ← State.updAid, State.find_updAid, hx, Option.map_some]
  split
  · exact ⟨true, marked true⟩
  · cases a with
    | free =>
      rw [State.aidAlone, State.galAt_updGal, if_pos rfl]
      exact ⟨x.told, hx⟩
    | _ => exact ⟨false, marked false⟩

end

/-! ## AID_LOAD behind its checks (R272, R340) -/

/-- A segment that asks the partner for room: BEGIN or FINAL, while the pair acts together (R340). -/
def State.asksPartner (s : State) (seg : Nat) : Bool := s.pairActs && (decide (seg = 1) || decide (seg = 5))

/-- The state with the partner's verdict drawn, where it is asked (log entry 47). -/
def State.askedPartner (s : State) (seg : Nat) : State := if s.asksPartner seg then { s with free := s.free + 1 } else s

theorem State.askedPartner_galleries (s : State) (seg : Nat) : (s.askedPartner seg).galleries = s.galleries := by
  unfold State.askedPartner
  split <;> rfl

theorem State.askedPartner_of_not_asked {s : State} {seg : Nat} (h : s.asksPartner seg = false) : s.askedPartner seg = s :=
  if_neg (Bool.eq_false_iff.mp h)

section
variable {c : Cmd} {o : Opened} {u : State} {n : Nat} {a : AidSeg} (hpair : u.pairActRefusal c.gallery = none)
  (hseg : u.segCheck c.gallery o.target o.plain = .ok (n, a))
include hseg

theorem asksPartner_of_segment :
    (u.pairActs && (field o.plain 4 1 == 1 || field o.plain 4 1 == 5)) = u.asksPartner (segCode a) := by
  rw [State.segCode_of_segCheck hseg]
  rfl

include hpair

/-- A BEGIN or FINAL for which the partner lacks room (R340). -/
theorem aidBody_of_no_room (hroom : (u.asksPartner (segCode a) && !Config.partnerAgrees u.free) = true) :
    aidBody c o u = .refuse (u.askedPartner (segCode a)) stOverBudget := by
  simp only [aidBody, hpair, hseg, asksPartner_of_segment hseg, hroom, if_true, State.askedPartner]

/-- A segment with room at both members, told to the partner with the layout chosen here (R340). -/
theorem aidBody_of_applied {v : State} (hroom : (u.asksPartner (segCode a) && !Config.partnerAgrees u.free) = false)
    (happly : (u.askedPartner (segCode a)).applySeg c.gallery n a none = some v) :
    aidBody c o u =
      let laid := SMap.getD (v.galAt c.gallery).aids n {}
      let told := partnerTold (if v.pairActs then v.markTold c.gallery n true else v.aidAlone c.gallery n a) c.gallery
        (.aid n a laid.base laid.maskBase)
      { state := told.1, data := ofLe 4 n ++ ofLe 12 0, waits := fenceOnly told.2 } := by
  rw [State.askedPartner] at happly
  simp only [aidBody, hpair, hseg, asksPartner_of_segment hseg, hroom, Bool.false_eq_true, if_false, happly, State.pairGallery_eq, fenceOnly]

end

/-- Each of the six rows is `aidCommand` of its SEG. -/
theorem exec_aidRows (ring : Fin 8) (s : State) :
    ∀ r ∈ [(1, Instr.aidBegin ring), (2, .aidStates ring), (3, .aidMasks ring), (4, .aidTransitions ring), (5, .aidFinal ring),
      (6, .aidFree ring)], exec r.2 s = .next (aidCommand r.1 ring s) := by
  simp only [List.forall_mem_cons, List.not_mem_nil, false_implies, implies_true, and_true]
  and_intros <;> rfl

theorem aidCommand_of_sealed {seg : Nat} {ring : Fin 8} {s u : State} {c : Cmd} {o : Opened}
    (h : Sealed 0x14 sealedLayout plainEnvelope (isSeg seg) ring s c o u) :
    aidCommand seg ring s = (answeredSealed s c u (aidBody c o u)).tellCounter s (s.headerAt ring.val).gallery := by
  rw [← sealedCommand_sealed h]
  rfl

theorem segCode_of_sealed {seg n : Nat} {ring : Fin 8} {s u : State} {c : Cmd} {o : Opened} {a : AidSeg}
    (h : Sealed 0x14 sealedLayout plainEnvelope (isSeg seg) ring s c o u) (hseg : u.segCheck c.gallery o.target o.plain = .ok (n, a)) :
    segCode a = seg := by
  obtain ⟨-, _, pt, -, -, -, haccepts, -, rfl, -⟩ := h
  exact State.segCode_of_isSeg hseg haccepts

/-- Settles O15: each row is the body of AID_LOAD for the segment of its own SEG, and the aid by that segment. -/
theorem aidSegmentsBuildAnAid : Obligations.AidSegmentsBuildAnAid := by
  unfold Obligations.AidSegmentsBuildAnAid
  intro seg i ring s u v c o n a hrow h hpair hseg asks u0
  obtain rfl := segCode_of_sealed h hseg
  have hexec : exec i s = .next ((answeredSealed s c u (aidBody c o u)).tellCounter s (s.headerAt ring.val).gallery) := by
    rw [← aidCommand_of_sealed h]
    exact exec_aidRows ring s _ hrow
  refine ⟨fun hroom => ?_, fun hroom happly => ⟨?_, ?_⟩⟩
  · rw [hexec, aidBody_of_no_room hpair hseg hroom]
    rfl
  · rw [hexec, aidBody_of_applied hpair hseg hroom happly]
  · have alone : u.asksPartner (segCode a) = false → u.applySeg c.gallery n a none = some v := fun hasks => by
      rw [← happly]
      exact congrArg (·.applySeg c.gallery n a none) (State.askedPartner_of_not_asked hasks).symm
    cases a with
    | begin_ vocab st m tr start =>
      obtain ⟨x, hx, hcounts⟩ := State.find_beginAid happly
      obtain ⟨told, hnoted⟩ := State.find_noted (.begin_ vocab st m tr start) hx
      exact ⟨_, hnoted, hcounts⟩
    | final =>
      obtain ⟨-, hbegin | ⟨y, hy⟩⟩ := State.segCheck_ok hseg
      · cases hbegin
      · have hlisted : SMap.find ((u.askedPartner 5).galAt c.gallery).aids n = some y := by
          rw [State.galAt_congr (State.askedPartner_galleries u 5), hy]
        obtain ⟨x, hx, hcomplete⟩ := State.find_finalAid happly hlisted
        obtain ⟨told, hnoted⟩ := State.find_noted .final hx
        exact ⟨_, hnoted, hcomplete⟩
    | free =>
      obtain rfl := Option.some.inj (alone (Bool.and_false _))
      refine ⟨rfl, fun x hx => ?_⟩
      have hremoved : SMap.find ((u.removeAid c.gallery n).galAt c.gallery).aids n = some { x with removed := true } := by
        rw [State.removeAid, State.find_updAid, hx, Option.map_some]
      obtain ⟨told, hnoted⟩ := State.find_noted .free hremoved
      exact ⟨_, hnoted, rfl⟩
    | _ => exact (Option.some.inj (alone (Bool.and_false _))).symm

end Sys2Proof.Machine
end

section
/-! SUPPORT. The service unlock and the commands that report: who puts the unlock in force, what the service commands answer, and the reply data of the status and read commands (R109, R320, R321, R334, R335, R426, R435, R438). -/

namespace Sys2Proof.Machine

open Sys2Proof.Safety Sys2Proof.Bytes

/-! ## The unlock in force (R335, R435) -/

/-- An unlock in force behind a command other than SERVICE_UNLOCK was in force before it. -/
theorem unlocked_of_exec {c : Instr} {s t : State} (e : exec c s = .next t) (hc : ∀ ring, c ≠ .serviceUnlock ring)
    (ht : t.sec.unlocked = true) : s.sec.unlocked = true := by
  by_cases hr : ∃ pin, c = .resetRelease pin
  · obtain ⟨pin, rfl⟩ := hr
    obtain ⟨-, hunlocked, -⟩ := execResetRelease_based pin s t (Based.refl s) e
    exact hunlocked ht
  · have hk : KeptOut s (exec c s) := exec_kept s hc (not_exists.mp hr)
    rw [e] at hk
    obtain ⟨-, -, hunlocked⟩ := hk
    exact hunlocked ht

/-- Settles O6: the commands by what each keeps of an unlock not in force, the tick the same. -/
theorem onlyServiceUnlockUnlocks : Obligations.OnlyServiceUnlockUnlocks := by
  unfold Obligations.OnlyServiceUnlockUnlocks
  refine ⟨fun c s t e hc => unlocked_of_exec e hc, fun s => ?_⟩
  obtain ⟨-, -, hunlocked⟩ := State.tick_based s (Based.refl s)
  exact hunlocked

/-! ## A clear command that passes its checks (R92, R100) -/

section
variable {op : Nat} {l : Layout} {ring : Fin 8} {s u : State} {c : Cmd}

/-- A row that is a clear command of its opcode and layout is its body, answered, where the packet passes its checks. -/
theorem exec_of_clear {i : Instr} {body : Cmd → State → Done} (h : Clear op l ring s c u)
    (hexec : exec i s = .next (clearCommand op l body ring s)) : exec i s = .next (answered c u (body c u)) := by
  rw [hexec, clearCommand_clear h]

/-! ## LEDGER_READ (R426) -/

/-- A range of the Ledger that can be read is read while no activation of firmware runs. -/
theorem exec_ledgerRead_of_range {bs : List Byte} (h : Clear 0x56 ledgerReadLayout ring s c u) (hfree : u.runs 6 none = false)
    (hread : u.ledger.readAt (field c.payload 0 4) (field c.payload 4 4) = some bs) :
    exec (.ledgerRead ring) s = .next (answered c u { state := u, data := ofLe 4 bs.length ++ ofLe 12 0 ++ bs }) := by
  rw [exec_of_clear h rfl]
  simp only [hfree, Bool.false_eq_true, if_false, hread, Option.getD_some]

/-! ## SERVICE_UNLOCK (R335) -/

/-- Tests 1 and 2: without a challenge, or with a tenant gallery open or closing, nothing is unlocked and the challenge stays. -/
theorem exec_serviceUnlock_of_refused (h : Clear 0x71 (layout 96 [] fun _ _ => none) ring s c u)
    (hrefused : u.sec.challenge = none ∨ u.tenantsOpen = true) :
    exec (.serviceUnlock ring) s = .next (answered c u (.refuse u stNotAuthorised)) := by
  rw [exec_of_clear h rfl]
  cases hch : u.sec.challenge with
  | none => rfl
  | some p =>
    have hopen : u.tenantsOpen = true := hrefused.resolve_left (by rw [hch]; nofun)
    dsimp only
    rw [if_pos hopen]

/-- Test 3: the challenge is used up, and the signature over it decides. -/
theorem exec_serviceUnlock_of_challenge {ch : Hash384} {t : W64} (h : Clear 0x71 (layout 96 [] fun _ _ => none) ring s c u)
    (hch : u.sec.challenge = some (ch, t)) (hclosed : u.tenantsOpen = false) :
    let v := { u with sec := { u.sec with challenge := none } }
    exec (.serviceUnlock ring) s = .next (answered c u (
      if Config.ecdsaVerify Config.serviceKey (Config.sha384 (serviceMessage ch)) (BitVec.ofNat 768 (fieldBe c.payload 0 96))
      then { state := v.grantUnlock } else .refuse v stBadSignature)) := by
  rw [exec_of_clear h rfl]
  simp only [hch, hclosed, Bool.false_eq_true, if_false]

end

/-! ## CHALLENGE_EXPIRY (R334) -/

/-- A challenge whose life has passed is withdrawn. -/
theorem exec_challengeExpiry_of_old {s : State} {ch : Hash384} {t : W64} (hd : s.dead = false) (hch : s.sec.challenge = some (ch, t))
    (hold : t.toNat + challengeTicks ≤ s.now) :
    exec .challengeExpiry s = .next { s with sec := { s.sec with challenge := none } } := by
  change execChallengeExpiry s = _
  simp only [execChallengeExpiry, hd, Bool.false_eq_true, if_false, hch, if_pos hold]

/-- Settles O26: the challenge and the lock are their bodies, the unlock goes by its tests in order, the expiry by the challenge's age. -/
theorem serviceCommands : Obligations.ServiceCommands := by
  unfold Obligations.ServiceCommands
  refine ⟨fun ring s u c h => ?_, fun ring s u c h => ⟨fun hrefused => ?_, fun ch t hch hclosed => ?_⟩, fun ring s u c h => ?_,
    fun s ch t hd hch hold => ?_⟩
  · rw [exec_of_clear h rfl]
  · exact exec_serviceUnlock_of_refused h hrefused
  · exact exec_serviceUnlock_of_challenge h hch hclosed
  · rw [exec_of_clear h rfl, State.lockService]
  · exact exec_challengeExpiry_of_old hd hch hold

/-! ## Status and read commands (R109, R320, R321) -/

/-- Settles O10: each row but LEDGER_READ is its body whatever the state holds, and LEDGER_READ is its range's bytes. -/
theorem statusAndReadCommandsReport : Obligations.StatusAndReadCommandsReport := by
  unfold Obligations.StatusAndReadCommandsReport
  refine ⟨⟨fun ring s u c h => ?nop, fun ring s u c h => ?identityStatus, fun ring s u c h => ?galleryInfo, fun ring s u c h => ?pairStatus,
    fun ring s u c h => ?maintStatus⟩, fun ring s u c h => ?getCertificate, fun ring s u c h => ?getProvenance,
    fun ring s u c bs h hfree hread => ?ledgerRead⟩
  case ledgerRead => exact exec_ledgerRead_of_range h hfree hread
  case identityStatus => rw [exec_of_clear h rfl, State.blockId]
  all_goals rw [exec_of_clear h rfl]

end Sys2Proof.Machine
end

section
/-! SUPPORT. The commands of the pair: what PAIR_JOIN, PAIR_RESYNC, PAIR_YIELD and PAIR_LEAVE do with a partner in the capsule and without one (R338, R341, R351, R352, R363). -/

namespace Sys2Proof.Machine

open Sys2Proof.Safety

/-! ## The state a member goes to (R341, R363) -/

theorem State.endActivity_pair (s : State) (code scope result : Nat) : (s.endActivity code scope result).pair = s.pair := by
  unfold State.endActivity
  dsimp only
  rw [State.raiseVec_pair, State.event_pair]
  rfl

/-- A join still under way that a change of state ends with a result, and the replies that waited. -/
theorem State.joinEnded_pair (s : State) (result : Nat) :
    (if s.runs 9 none then s.endActivity 9 255 result else s).flushReplies.pair = s.pair := by
  rw [State.flushReplies_pair]
  split
  · exact s.endActivity_pair 9 255 result
  · rfl

theorem State.enterYielded_state (s : State) : s.enterYielded.pair.state = .yielded := by
  unfold State.enterYielded
  dsimp only
  rw [State.joinEnded_pair, State.endSession_state, State.setPair_pair]

theorem State.leave_state (s : State) : s.leave.pair.state = .alone := by
  unfold State.leave
  dsimp only
  rw [State.joinEnded_pair, State.setPair_pair]

/-! ## PAIR_JOIN and PAIR_RESYNC (R351, R352) -/

/-- Without a partner in the capsule there is nothing to join (R338). -/
theorem State.joinCommand_of_unpaired {u : State} (hp : u.partner? = none) : u.joinCommand = .refuse u stNotPaired := by
  simp [State.joinCommand, hp]

/-- From a state that may join, with no activity against it, the join begins and meets a HELLO that is there already. -/
theorem State.joinCommand_of_mayJoin {u : State} (hp : u.partner? ≠ none) (hmay : u.mayJoin = true) (hfree : u.conflict 9 255 = none) :
    u.joinCommand = { state := (u.startJoin (some u.rings.applySeq)).meet, status := stPending } := by
  simp [State.joinCommand, hp, hmay, hfree]

section
variable {ring : Fin 8} {s u : State} {c : Cmd}

theorem exec_pairJoin_of_clear (h : Clear 0x40 noPayload ring s c u) : exec (.pairJoin ring) s = .next (answered c u u.joinCommand) := by
  rw [exec_of_clear h rfl]

theorem exec_pairResync_of_unpaired (h : Clear 0x43 noPayload ring s c u) (hp : u.partner? = none) :
    exec (.pairResync ring) s = .next (answered c u (.refuse u stNotPaired)) := by
  rw [exec_of_clear h rfl]
  simp only [hp, Option.isNone_none, if_true]

/-- While heartbeats arrive PAIR_RESYNC is PAIR_JOIN. -/
theorem exec_pairResync_of_heard (h : Clear 0x43 noPayload ring s c u) (hp : u.partner? ≠ none) (hheard : u.silent = false) :
    exec (.pairResync ring) s = .next (answered c u u.joinCommand) := by
  rw [exec_of_clear h rfl]
  simp [hp, hheard]

/-! ## PAIR_YIELD and PAIR_LEAVE (R341, R363) -/

theorem exec_pairYield_of_unpaired (h : Clear 0x41 noPayload ring s c u) (hp : u.partner? = none) :
    exec (.pairYield ring) s = .next (answered c u (.refuse u stNotPaired)) := by
  rw [exec_of_clear h rfl]
  simp only [hp, Option.isNone_none, Bool.true_or, if_true]

theorem exec_pairYield_of_together (h : Clear 0x41 noPayload ring s c u) (hp : u.partner? ≠ none) (ht : u.together = true) :
    exec (.pairYield ring) s = .next (answered c u { state := u.enterYielded }) := by
  rw [exec_of_clear h rfl]
  simp [hp, ht]

theorem exec_pairLeave_of_unpaired (h : Clear 0x44 noPayload ring s c u) (hp : u.partner? = none) :
    exec (.pairLeave ring) s = .next (answered c u (.refuse u stNotPaired)) := by
  rw [exec_of_clear h rfl]
  simp only [hp, Option.isNone_none, if_true]

/-- The partner is told where a session stands, and the pair ends. -/
theorem exec_pairLeave_of_together (h : Clear 0x44 noPayload ring s c u) (hp : u.partner? ≠ none) (hfence : u.kpr.fenceReq = false)
    (ht : u.together = true) : exec (.pairLeave ring) s = .next (answered c u
      { state := (if u.pair.session then u.sendFrame .leave else u).leave, status := stPending }) := by
  rw [exec_of_clear h rfl]
  simp [hp, hfence, ht]

end

/-- Settles O22: each command by whether the capsule names a partner; yielding and leaving end in their state of R341. -/
theorem pairCommands : Obligations.PairCommands := by
  unfold Obligations.PairCommands
  refine ⟨fun ring s u c hp => ⟨fun h => ?_, fun h => exec_pairResync_of_unpaired h hp, fun h => exec_pairYield_of_unpaired h hp,
    fun h => exec_pairLeave_of_unpaired h hp⟩, fun ring s u c hp => ⟨fun h hmay hfree => ?_, fun h hheard hmay hfree => ?_,
    fun h ht => ⟨exec_pairYield_of_together h hp ht, u.enterYielded_state⟩,
    fun h hfence ht => ⟨exec_pairLeave_of_together h hp hfence ht, State.leave_state _⟩⟩⟩
  · rw [exec_pairJoin_of_clear h, State.joinCommand_of_unpaired hp]
  · rw [exec_pairJoin_of_clear h, State.joinCommand_of_mayJoin hp hmay hfree]
  · rw [exec_pairResync_of_heard h hp hheard, State.joinCommand_of_mayJoin hp hmay hfree]

end Sys2Proof.Machine
end

section
/-! SUPPORT. The heartbeats of the pair: what goes out every 100 µs, and what a valid frame of each TYPE brings (R341 to R345, R361 to R363, R371). -/

namespace Sys2Proof.Machine

/-! ## HEARTBEAT_TX (R343) -/

/-- A frame goes out in a tick of the 100 µs grid in which none has gone out yet, its TYPE by whether the member yields. -/
theorem exec_heartbeatTx_of_due {s : State} (hb : s.beats = true) (hgrid : s.now % 10000 = 0)
    (hnew : ∀ h t, s.pair.sentAt = some (h, t) → t ≠ s.kpr.ktime) :
    exec .heartbeatTx s = .next (State.emit { s with pair := { s.pair with hseq := s.pair.hseq + 1, sentAt := some (s.pair.hseq + 1, s.kpr.ktime) } }
      (.heartbeat (beatFrame (if s.pair.state = .yielded ∧ s.yieldDone = true then 4 else 1) (s.pair.hseq + 1).toNat (s.now % 2 ^ 16)))) := by
  have hsent : s.pair.sentAt.map (·.2) ≠ some s.kpr.ktime := by
    rintro e
    obtain ⟨⟨h, t⟩, hst, rfl⟩ := Option.map_eq_some_iff.mp e
    exact hnew h _ hst rfl
  change execHeartbeatTx s = _
  simp [execHeartbeatTx, hb, hgrid, hsent]

/-! ## Frames received (R343, R344, R361, R363) -/

section
variable {frame : W64} {s : State}

theorem exec_grvHeartbeat_of_heard (hh : s.heard frame 1 = true) :
    let e := (s.now % 2 ^ 16 + 2 ^ 16 - beatValue frame) % 2 ^ 16
    let u := s.noteAlive.count 8 4 1
    exec (.grvHeartbeat frame) s = .next (State.emit { u with pair := { u.pair with ownEcho := some (e, s.kpr.ktime) } }
      (.heartbeat (beatFrame 2 (beatSeq frame) e))) := by
  change execGrvHeartbeat frame s = _
  unfold execGrvHeartbeat
  rw [if_pos hh]
  dsimp only
  rw [State.count_kpr]
  rfl

/-- Two ticks lie at most 100 µs apart, in either order. -/
theorem apart_le_iff (a b : Nat) : max a b - min a b ≤ 10000 ↔ a ≤ b + 10000 ∧ b ≤ a + 10000 := by
  omega

/-- An ECHO behind an own HEARTBEAT and one of the partner's: an exchange, where it answers the last own one and the two left within 100 µs. -/
theorem exec_grvEcho_of_heard {h : BitVec 12} {sent came : W64} {eO : Nat} (hh : s.heard frame 2 = true) (hsent : s.pair.sentAt = some (h, sent))
    (hown : s.pair.ownEcho = some (eO, came)) :
    let trip := (beatValue frame + eO) % 2 ^ 16
    let left := came.toNat - trip / 2
    exec (.grvEcho frame) s = .next (if h.toNat = beatSeq frame ∧ sent.toNat ≤ left + 10000 ∧ left ≤ sent.toNat + 10000 then
      s.noteAlive.exchange (rawOffset s.pair.theta (beatValue frame) eO) trip else s.noteAlive) := by
  intro trip left
  change execGrvEcho frame s = _
  unfold execGrvEcho
  rw [if_pos hh]
  simp only [hsent, hown, apart_le_iff]
  rw [apply_ite Host.Outcome.next]

theorem exec_grvFailure_of_heard (hh : s.heard frame 3 = true) : exec (.grvFailure frame) s = .next s.noteFrame.detectFailure := by
  change execGrvFailure frame s = _
  rw [execGrvFailure, if_pos hh]

/-- A partner that yields hands its requests over while this member mirrors them. -/
theorem exec_grvYield_of_mirroring (hh : s.heard frame 4 = true)
    (hst : s.pair.state = .paired ∨ s.pair.state = .joining ∨ s.pair.state = .fencing) :
    exec (.grvYield frame) s = .next s.noteFrame.enterTakeover := by
  have hnote : s.noteFrame.pair.state = s.pair.state := rfl
  change execGrvYield frame s = _
  rw [execGrvYield, if_pos hh]
  rcases hst with hst | hst | hst <;> simp only [hnote, hst]

/-- Of two yielded members side 0 goes on alone (R363). -/
theorem exec_grvYield_of_yielded (hh : s.heard frame 4 = true) (hst : s.pair.state = .yielded) :
    exec (.grvYield frame) s = .next (if s.side = 0 then s.noteFrame.setPair .alone else s.noteFrame) := by
  have hnote : s.noteFrame.pair.state = s.pair.state := rfl
  change execGrvYield frame s = _
  rw [execGrvYield, if_pos hh]
  simp only [hnote, hst]
  rfl

theorem exec_grvYield_of_alone (hh : s.heard frame 4 = true) (hst : s.pair.state = .alone) : exec (.grvYield frame) s = .next s.noteFrame := by
  have hnote : s.noteFrame.pair.state = s.pair.state := rfl
  change execGrvYield frame s = _
  rw [execGrvYield, if_pos hh]
  simp only [hnote, hst]

end

/-- Settles O48: the frame that goes out by its tick, each frame that comes by its TYPE, and a YIELD by the state of the pair. -/
theorem heartbeatsAreExchanged : Obligations.HeartbeatsAreExchanged := by
  unfold Obligations.HeartbeatsAreExchanged
  refine ⟨fun s => exec_heartbeatTx_of_due, fun frame s => exec_grvHeartbeat_of_heard, fun frame h sent came eO s hh hsent hown => ?echo,
    fun frame s => exec_grvFailure_of_heard, fun frame s hh => ⟨exec_grvYield_of_mirroring hh, exec_grvYield_of_yielded hh, exec_grvYield_of_alone hh⟩⟩
  case echo =>
    refine ⟨fun hseq hlate hearly => ?_, fun hnot => ?_⟩
    · exact (exec_grvEcho_of_heard hh hsent hown).trans (congrArg Host.Outcome.next (if_pos ⟨hseq, hlate, hearly⟩))
    · refine (exec_grvEcho_of_heard hh hsent hown).trans (congrArg Host.Outcome.next (if_neg fun ⟨hseq, hlate, hearly⟩ => ?_))
      rcases hnot with hother | hlater | hearlier
      · exact hother hseq
      · exact absurd hlate (Nat.not_le.mpr hlater)
      · exact absurd hearly (Nat.not_le.mpr hearlier)

end Sys2Proof.Machine
end

section
/-! SUPPORT. The data frames of the pair: a frame sent, the frames that go out again, a frame received, and the effect that each kind of frame has when it is taken (R340, R341, R344 to R355). -/

namespace Sys2Proof.Machine

/-! ## Frames sent (R346, R347) -/

/-- A frame takes the next FSEQ, is kept behind those kept already, and goes out as its bytes with the ACKED of now. -/
theorem State.sendFrame_spec (s : State) (p : FrameOut) : (s.sendFrame p).pair.kept = s.pair.kept ++ [{ fseq := s.pair.fseqNext, payload := p }]
    ∧ (s.sendFrame p).pair.fseqNext = s.pair.fseqNext + 1 ∧ (s.sendFrame p).mem = s.mem
    ∧ (s.sendFrame p).outs = .frame (frameBytes (s.directionKey s.side) s.side p s.pair.fseqNext s.ackValue) :: s.outs := by
  unfold State.sendFrame
  dsimp only
  rw [State.count_pair, State.count_mem, State.count_outs]
  exact ⟨rfl, rfl, rfl, rfl⟩

/-! ## Acknowledgements alone (R347, R350) -/

section
variable {s : State}

theorem State.ackRecovery_of_told (h : s.pair.recov.applied ≤ s.pair.recov.ackSent) : s.ackRecovery = s := by
  simp [State.ackRecovery, Nat.not_lt.mpr h]

theorem State.ackRecovery_of_due (hup : s.power.linkUp = true) (hnew : s.pair.recov.ackSent < s.pair.recov.applied)
    (hold : s.pair.recov.ackSentAt.toNat + 500 ≤ s.now) : s.ackRecovery = s.sendRecovery .ack := by
  simp [State.ackRecovery, hup, hnew, hold]

theorem State.ackPair_of_no_session (h : s.pair.session = false) : s.ackPair = s := by
  simp [State.ackPair, h]

theorem State.ackPair_of_due (hs : s.pair.session = true) (hnew : s.pair.ackSent < s.ackValue) (hold : s.pair.ackSentAt.toNat + 500 ≤ s.now) :
    s.ackPair = s.sendFrame .ack := by
  simp [State.ackPair, hs, hnew, hold]

theorem exec_ackTimer (hd : s.dead = false) : exec .ackTimer s = .next s.ackRecovery.ackPair := by
  change execAckTimer s = _
  simp only [execAckTimer, hd, Bool.false_eq_true, if_false]

/-! ## Frames that go out again (R347, R350) -/

theorem State.resendFrames_pair (s : State) (ks : List KeptFrame) (acked : Nat) : (s.resendFrames ks acked).pair = s.pair :=
  List.foldlRecOn (motive := fun t : State => t.pair = s.pair) ks _ rfl fun _ ht _ _ => ht

theorem State.resendPair_of_none (h : s.pair.kept = []) : s.resendPair = s := by
  simp only [State.resendPair, h]

theorem State.resendPair_of_due {k : KeptFrame} {ks : List KeptFrame} (hk : s.pair.kept = k :: ks) (hold : s.pair.ackMovedAt.toNat + 2000 ≤ s.now) :
    s.resendPair = ((let u := s.resendFrames (k :: ks) s.ackValue
      { u with pair := { u.pair with ackMovedAt := s.kpr.ktime } }).count 8 2 (ks.length + 1)).event 11 0x69 noWing (ks.length + 1) k.fseq := by
  simp only [State.resendPair, hk, if_pos hold, List.length_cons]

theorem State.resendRecovery_of_none (h : s.pair.recov.kept = []) : s.resendRecovery = s := by
  simp [State.resendRecovery, h]

theorem State.resendRecovery_of_due (hup : s.power.linkUp = true) (hk : s.pair.recov.kept ≠ []) (hold : s.pair.recov.ackMovedAt.toNat + 2000 ≤ s.now) :
    s.resendRecovery = let u := s.resendFrames s.pair.recov.kept s.pair.recov.applied
      { u with pair := { u.pair with recov := { s.pair.recov with ackMovedAt := s.kpr.ktime } } } := by
  simp [State.resendRecovery, hup, hk, hold]

theorem exec_resend (hd : s.dead = false) : exec .resend s = .next s.resendRecovery.resendPair := by
  change execResend s = _
  simp only [execResend, hd, Bool.false_eq_true, if_false]

/-! ## Frames received (R347) -/

variable {hdr : FrameHdr} {p : FrameOut} {effect : State → State}

theorem State.receive_of_asleep (hd : s.dead = false) (ha : s.active .registrar = false) : s.receive hdr p effect = s.wake [] := by
  simp [State.receive, hd, ha]

/-- Outside a session, damaged or out of order: dropped and counted. -/
theorem State.receive_of_bad (hd : s.dead = false) (ha : s.active .registrar = true)
    (hbad : s.pair.session = false ∨ s.intact hdr p = false ∨ hdr.fseq ≠ s.pair.applied + 1) : s.receive hdr p effect = s.count 8 3 1 := by
  have hdrop : (!s.pair.session || !s.intact hdr p || decide (hdr.fseq ≠ s.pair.applied + 1)) = true := by
    simpa [or_assoc] using hbad
  unfold State.receive
  rw [if_neg (by simp [hd]), if_neg (by simp [ha]), if_pos hdrop]

/-- Intact and next in order: ACKED is taken in, the frame is the last applied, and its effect is made. -/
theorem State.receive_of_next (hd : s.dead = false) (ha : s.active .registrar = true) (hs : s.pair.session = true) (hi : s.intact hdr p = true)
    (hnext : hdr.fseq = s.pair.applied + 1) : s.receive hdr p effect =
      let u := s.ackAdvance hdr.acked
      let v := effect { u with pair := { u.pair with applied := hdr.fseq, applying := hdr.fseq } }
      { v with pair := { v.pair with applying := 0 } } := by
  unfold State.receive
  rw [if_neg (by simp [hd]), if_neg (by simp [ha]), if_neg (by simp [hs, hi, hnext])]

end

/-- Settles O50: a frame sent, each timer by the session in which it is due, and a frame received by the tests of R347 in order. -/
theorem framesAreKeptAndTakenInOrder : Obligations.FramesAreKeptAndTakenInOrder := by
  unfold Obligations.FramesAreKeptAndTakenInOrder
  refine ⟨⟨fun s p => ⟨_, rfl, s.sendFrame_spec p⟩, fun s hd => ⟨fun htold hs hnew hold => ?ackPair, fun hs hup hnew hold => ?ackRecovery⟩,
    fun s k ks hd hrec hk hold => ?resendPair, fun s hd hup hnone hk hold => ?resendRecovery⟩,
    fun hdr p effect s hd => ⟨State.receive_of_next hd, State.receive_of_bad hd, State.receive_of_asleep hd⟩⟩
  case ackPair => rw [exec_ackTimer hd, State.ackRecovery_of_told htold, State.ackPair_of_due hs hnew hold]
  case ackRecovery =>
    have hstill : (s.sendRecovery .ack).pair.session = false := hs
    rw [exec_ackTimer hd, State.ackRecovery_of_due hup hnew hold, State.ackPair_of_no_session hstill]
  case resendPair =>
    rw [exec_resend hd, State.resendRecovery_of_none hrec, State.resendPair_of_due hk hold]
    rfl
  case resendRecovery =>
    rw [exec_resend hd, State.resendRecovery_of_due hup hk hold, State.resendPair_of_none]
    · rfl
    · exact (congrArg Pair.kept (s.resendFrames_pair ..)).trans hnone

/-! ## The effect of each frame (R340, R344, R353, R355) -/

section
variable (hdr : FrameHdr) (s : State)

/-- A TIME frame with an echo settles the offset from an exchange at full width (R344, R345). -/
theorem exec_grvTime_of_echo (sent : W64) {a b : W64} (h : a ≠ 0 ∨ b ≠ 0) :
    exec (.grvTime hdr sent a b) s = .next (s.receive hdr (.time sent a b) fun t =>
      let eP : Int := b.toNat - a.toNat
      let eO : Int := t.now - sent.toNat
      { t with pair := { t.pair with theta := eP - eO, thetaKnown := true, exchanges := [(eP - eO, (eP + eO).toNat)] } }) := by
  have hecho : ¬ (a = 0 ∧ b = 0) := fun ⟨ha, hb⟩ => h.elim (· ha) (· hb)
  change execGrvTime hdr sent a b s = _
  simp only [execGrvTime, if_neg hecho]

/-- The partner opens a gallery: it is opened here too, unless this member closed the same opening alone (R340). -/
theorem exec_grvGallery_open (g policy gen : Nat) (keys : GalleryKeys) :
    exec (.grvGallery hdr g (.open_ policy gen keys)) s = .next (s.receive hdr (.gallery g (.open_ policy gen keys)) fun t =>
      if (t.galAt g).closedAlone = true ∧ (t.galAt g).gen.toNat = gen then t else t.openGallery g policy gen keys) := by
  change execGrvGallery hdr g (.open_ policy gen keys) s = _
  simp only [execGrvGallery, Bool.and_eq_true, decide_eq_true_eq]

end

/-- Settles O51: a frame is received with the effect of its kind; TIME goes by whether it echoes, GALLERY by its act. -/
theorem framesHaveTheirEffect : Obligations.FramesHaveTheirEffect := by
  unfold Obligations.FramesHaveTheirEffect
  refine fun hdr s => ⟨rfl, fun sent => rfl, fun sent a b => exec_grvTime_of_echo hdr s sent, fun r => rfl, fun r => rfl, fun r => rfl,
    fun g act => ?gallery, fun g ctr => rfl, fun w n digest sig => rfl, fun w i digest entry => rfl, rfl⟩
  case gallery =>
    cases act with
    | open_ policy gen keys => exact exec_grvGallery_open hdr s g policy gen keys
    | rekey keyGen keys => rfl
    | close => rfl
    | aid n seg base maskBase => rfl

end Sys2Proof.Machine
end

section
/-! SUPPORT. HELLO outside a session, and the recovery session of IMAGE frames: a frame applied in it, and the image sent in chunks (R347, R350, R351). -/

namespace Sys2Proof.Machine

open Sys2Proof.Bytes

/-! ## HELLO (R351) -/

theorem exec_grvHello {hdr : FrameHdr} {h : Hello} {s : State} (hd : s.dead = false) (hp : s.partner? ≠ none) (ha : s.active .registrar = true) :
    exec (.grvHello hdr h) s = .next (
      if s.intact hdr (.hello h) = true ∧ hdr.fseq = 1 ∧ s.pair.session = false then
        State.meet { s with pair := { s.pair with helloIn := some (h, hdr.fseq) } }
      else s.count 8 3 1) := by
  change execGrvHello hdr h s = _
  unfold execGrvHello
  rw [if_neg (by simp [hd, hp]), if_neg (by simp [ha])]
  by_cases hfirst : s.intact hdr (.hello h) = true ∧ hdr.fseq = 1 ∧ s.pair.session = false
  · obtain ⟨hi, hf, hs⟩ := hfirst
    rw [if_neg (by simp [hi, hf, hs]), if_pos ⟨hi, hf, hs⟩]
  · have hdrop : (!s.intact hdr (.hello h) || decide (hdr.fseq ≠ 1) || s.pair.session) = true := by
      by_contra hkeep
      exact hfirst (by simpa [and_assoc] using hkeep)
    rw [if_pos hdrop, if_neg hfirst]

/-! ## A frame of the recovery session applied (R347, R350) -/

theorem State.applyRecovery_applied (s : State) (hdr : FrameHdr) : (s.applyRecovery hdr).pair.recov.applied = hdr.fseq := rfl

/-- An ACKED that advances drops the frames it covers. -/
theorem State.applyRecovery_of_advance {s : State} {hdr : FrameHdr} (hnew : s.pair.recov.acked < hdr.acked)
    (hsent : hdr.acked < s.pair.recov.fseqNext) : (s.applyRecovery hdr).pair.recov.acked = hdr.acked
      ∧ (s.applyRecovery hdr).pair.recov.kept = s.pair.recov.kept.filter fun k => decide (hdr.acked < k.fseq) := by
  simp [State.applyRecovery, hnew, hsent]

/-- A frame that opens the recovery session finds nothing kept there and keeps nothing. -/
theorem State.applyRecovery_of_new {s : State} {hdr : FrameHdr} (h : s.pair.recov = {}) :
    (s.applyRecovery hdr).pair.recov.kept = [] ∧ (s.applyRecovery hdr).pair.recov.fseqNext = 1 := by
  constructor <;> simp [State.applyRecovery, h]

/-! ## The image in chunks (R350) -/

/-- The frames that bring an image. -/
def imageChunks (bs : List Byte) : List ImageFrame :=
  ((piecesOf 65536 (ceilDiv bs.length 65536) bs).zipIdx).map fun c => .chunk c.2 bs.length c.1 none

theorem State.sendImage_eq (s : State) (i : ImageInfo) : s.sendImage i = (imageChunks (Config.imageBytes i)).foldl State.sendRecovery s := by
  unfold imageChunks
  rw [List.foldl_map]
  rfl

theorem State.foldl_sendRecovery_applied (s : State) (fs : List ImageFrame) :
    (fs.foldl State.sendRecovery s).pair.recov.applied = s.pair.recov.applied :=
  List.foldlRecOn (motive := fun t : State => t.pair.recov.applied = s.pair.recov.applied) fs _ rfl fun _ ht _ _ => ht

/-- Frames sent one after the other are kept in their order, under FSEQs that count on. -/
theorem State.foldl_sendRecovery_kept (s : State) (fs : List ImageFrame) : (fs.foldl State.sendRecovery s).pair.recov.kept =
    s.pair.recov.kept ++ (fs.zipIdx s.pair.recov.fseqNext).map fun c => { fseq := c.2, payload := .image c.1 } := by
  induction fs generalizing s with
  | nil => simp
  | cons f fs ih =>
    have hkept : (s.sendRecovery f).pair.recov.kept = s.pair.recov.kept ++ [{ fseq := s.pair.recov.fseqNext, payload := .image f }] := rfl
    have hnext : (s.sendRecovery f).pair.recov.fseqNext = s.pair.recov.fseqNext + 1 := rfl
    rw [List.foldl_cons, ih, hkept, hnext, List.zipIdx_cons, List.map_cons, List.append_assoc, List.singleton_append]

/-- Of a session that keeps nothing yet, the payloads kept behind such frames and their FSEQs. -/
theorem State.foldl_sendRecovery_of_new {s : State} (fs : List ImageFrame) (hkept : s.pair.recov.kept = []) (hnext : s.pair.recov.fseqNext = 1) :
    let t := fs.foldl State.sendRecovery s
    t.pair.recov.kept.map (·.payload) = fs.map FrameOut.image
      ∧ t.pair.recov.kept.map (·.fseq) = (List.range t.pair.recov.kept.length).map (· + 1) := by
  intro t
  have ht : t.pair.recov.kept = (fs.zipIdx 1).map fun c => { fseq := c.2, payload := .image c.1 } := by
    rw [State.foldl_sendRecovery_kept, hkept, hnext, List.nil_append]
  rw [ht]
  constructor
  · calc _ = ((fs.zipIdx 1).map Prod.fst).map FrameOut.image := by simp only [List.map_map, Function.comp_def]
      _ = fs.map FrameOut.image := by rw [List.zipIdx_map_fst]
  · calc _ = (fs.zipIdx 1).map Prod.snd := by simp only [List.map_map, Function.comp_def]
      _ = (List.range fs.length).map (1 + ·) := by rw [List.zipIdx_map_snd, List.range'_eq_map_range]
      _ = _ := by simp only [List.length_map, List.length_zipIdx, Nat.add_comm 1]

/-! ## IMAGE (R350) -/

section
variable {hdr : FrameHdr} {s : State}

theorem exec_grvImage_of_link_down {f : ImageFrame} (hup : s.power.linkUp = false) : exec (.grvImage hdr f) s = .next s := by
  change execGrvImage hdr f s = _
  simp [execGrvImage, hup]

variable (hl : s.resetLow = false) (hh : s.kpr.halted = false) (hup : s.power.linkUp = true)
include hl hh hup

/-- A request opens the session anew and is answered with the own image. -/
theorem exec_grvImage_of_request {i : ImageInfo} (hi : s.intact hdr (.image .request) = true) (hp : s.partner? ≠ none)
    (himg : s.kpr.image = some i) (hf : hdr.fseq = 1) :
    exec (.grvImage hdr .request) s =
      .next ((imageChunks (Config.imageBytes i)).foldl State.sendRecovery
        (State.applyRecovery { s with pair := { s.pair with recov := {} } } hdr)) := by
  have hasked : (s.partner?.isSome && decide (hdr.fseq = 1)) = true := by simp [Option.isSome_iff_ne_none, hp, hf]
  change execGrvImage hdr .request s = _
  unfold execGrvImage
  rw [← State.sendImage_eq, if_neg (by simp [hl, hh, hi, hup])]
  simp only [himg, if_pos hasked]

theorem exec_grvImage_of_chunk {n total : Nat} {data : List Byte} {v : Option ImageInfo} (hi : s.intact hdr (.image (.chunk n total data v)) = true)
    (hw : s.wantsImage = true) (hf : hdr.fseq = s.pair.recov.applied + 1) (hn : n = s.pair.imgChunks) (hlen : data.length ≤ 65536) :
    exec (.grvImage hdr (.chunk n total data v)) s = .next ((s.applyRecovery hdr).imageChunk data.length total v) := by
  change execGrvImage hdr (.chunk n total data v) s = _
  unfold execGrvImage
  rw [if_neg (by simp [hl, hh, hi, hup])]
  dsimp only
  rw [if_pos (by simp [hw, hf, hn, hlen])]

theorem exec_grvImage_of_ack (hi : s.intact hdr (.image .ack) = true) (hf : hdr.fseq = s.pair.recov.applied + 1) :
    exec (.grvImage hdr .ack) s = .next (s.applyRecovery hdr) := by
  change execGrvImage hdr .ack s = _
  unfold execGrvImage
  rw [if_neg (by simp [hl, hh, hi, hup])]
  dsimp only
  rw [if_pos (by simp [hf])]

end

/-- Settles O52: HELLO by its tests; a request by the chunks it is answered with, which a session opened anew keeps from FSEQ 1; a chunk and an acknowledgement in sequence are applied. -/
theorem helloAndImageFrames : Obligations.HelloAndImageFrames := by
  unfold Obligations.HelloAndImageFrames
  refine ⟨fun hdr h s => exec_grvHello, fun hdr s hl hh hup => ⟨fun i hi hp himg hf => ?request,
    fun n total data v hi hw hf hn hlen => exec_grvImage_of_chunk hl hh hup hi hw hf hn hlen, fun hi hf => exec_grvImage_of_ack hl hh hup hi hf⟩,
    fun hdr s => ⟨_, rfl, s.applyRecovery_applied hdr, State.applyRecovery_of_advance⟩, fun hdr f s => exec_grvImage_of_link_down⟩
  case request =>
    obtain ⟨hkept, hnext⟩ := State.applyRecovery_of_new (s := { s with pair := { s.pair with recov := {} } }) (hdr := hdr) rfl
    obtain ⟨hpayloads, hfseqs⟩ := State.foldl_sendRecovery_of_new (imageChunks (Config.imageBytes i)) hkept hnext
    refine ⟨_, exec_grvImage_of_request hl hh hup hi hp himg hf, ?_, ?_, hfseqs⟩
    · rw [State.foldl_sendRecovery_applied, State.applyRecovery_applied, hf]
    · rw [hpayloads, imageChunks, List.map_map]
      rfl

end Sys2Proof.Machine
end

section
/-! SUPPORT. The resets that Basam makes of its own: a lockstep mismatch, and a composition, a merge or a lane that overruns (R343, R373, R374, R393). -/

namespace Sys2Proof.Machine

open Sys2Proof.Bytes

/-! ## Lockstep (R343, R374) -/

/-- The Control domain reset behind a mismatch, the n-th within one second: counted, reported with severity n. -/
def State.lockstepReset (s : State) (pairB : Bool) (n : Nat) : State :=
  ((({ s with integ := { s.integ with lockstepAt := some s.kpr.ktime } }.ledgerAdd 11 1).count 6 13 1).report
    0x0020 n 0x0A 255 255 [b2n pairB, n]).ownReset .control 0x0A 1

section
variable {s : State} {pairB : Bool} (ha : s.active .control = true) (hd : s.dead = false)
include ha hd

theorem exec_lockstep_of_first (h : ∀ t, s.integ.lockstepAt = some t → 100000000 < s.now - t.toNat) :
    exec (.lockstep pairB) s = .next (s.lockstepReset pairB 1) := by
  have hon : (s.active .control && !s.dead) = true := by simp [ha, hd]
  change execLockstep pairB s = _
  unfold execLockstep
  rw [if_pos hon]
  cases hat : s.integ.lockstepAt with
  | none => simp only [Bool.false_eq_true, if_false, State.lockstepReset]
  | some t =>
    have hlate : ¬ s.now - t.toNat ≤ 100000000 := Nat.not_le.mpr (h t hat)
    simp only [decide_eq_false hlate, Bool.false_eq_true, if_false, State.lockstepReset]

/-- A second mismatch within one second tells the partner and halts the part. -/
theorem exec_lockstep_of_second {t : W64} (hat : s.integ.lockstepAt = some t) (hsoon : s.now - t.toNat ≤ 100000000) :
    exec (.lockstep pairB) s = let v := (s.lockstepReset pairB 2).sendFailure 0x06
      .next { v with kpr := { v.kpr with haltCode := 0x06 } } := by
  have hon : (s.active .control && !s.dead) = true := by simp [ha, hd]
  change execLockstep pairB s = _
  unfold execLockstep
  rw [if_pos hon]
  simp only [hat, decide_eq_true hsoon, if_true, State.lockstepReset]

end

theorem State.sendFailure_outs {s : State} (code : Nat) (hp : s.partner? ≠ none) (hr : s.kpr.ready = true) :
    (s.sendFailure code).outs = .heartbeat (beatFrame 3 (s.pair.hseq + 1).toNat code) :: s.outs := by
  have hon : (s.partner?.isSome && s.kpr.ready) = true := by simp [Option.isSome_iff_ne_none, hp, hr]
  unfold State.sendFailure
  rw [if_pos hon]
  rfl

/-! ## Overruns (R393) -/

section
variable {s : State} (hd : s.dead = false)
include hd

/-- A compose point at which nothing has been composed yet. -/
theorem exec_composeOverrun_of_due {w : Fin 4} {t : W64} (ha : s.active .curator = true) (hnone : (s.wingAt w.val).composed = none)
    (hat : (s.wingAt w.val).composeAt = some t) (hdue : s.composeDue w.val = true) :
    exec (.composeOverrun w) s = .next (if t.toNat + 4000 ≤ s.now then s.ownReset .curator 0x03 2 else s) := by
  change execComposeOverrun w s = _
  simp [execComposeOverrun, hnone, hat, hdue, ha, hd]

/-- A composition whose writes or key loads are not all done. -/
theorem exec_composeOverrun_of_composing {w : Fin 4} {t : Step} (ha : s.active .curator = true) (hc : (s.wingAt w.val).composed = some t)
    (hreplay : t.replay = false) (hopen : s.writesDone w.val t = false ∨ s.keysDone w.val = false) :
    exec (.composeOverrun w) s = .next (if t.composeKtime.toNat + 4000 ≤ s.now then s.ownReset .curator 0x03 2 else s) := by
  have hundone : (s.writesDone w.val t && s.keysDone w.val) = false := Bool.and_eq_false_iff.mpr hopen
  change execComposeOverrun w s = _
  simp [execComposeOverrun, hc, hreplay, hundone, ha, hd]

theorem exec_treeOverrun_of_unit {tree : Nat} {ts : TreeSt} (ha : s.active .intake = true) (ht : SMap.find s.path.trees tree = some ts) :
    exec (.treeOverrun tree) s = .next (if 4 * ts.bound ≤ (s.now - ts.takenAt.toNat) * 36 then s.ownReset .intake 0x04 3 else s) := by
  change execTreeOverrun tree s = _
  simp [execTreeOverrun, ht, ha, hd]

theorem exec_laneOverrun_of_unit {lane : Nat} {l : LaneSt} {t : Step} (ha : s.active .docent = true) (hl : SMap.find s.path.lanes lane = some l)
    (ht : s.unitStep l.result.wing l.result.tag = some t) :
    exec (.laneOverrun lane) s = .next (
      if 4 * laneBound (nth t.rows l.result.row {}).sampling l.result ≤ (s.now - l.takenAt.toNat) * 36 then s.ownReset .docent 0x06 4 else s) := by
  change execLaneOverrun lane s = _
  simp [execLaneOverrun, hl, ht, ha, hd]

end

/-- Settles O57: a mismatch by the time since the last one, an overrun by what holds the unit. -/
theorem ownResets : Obligations.OwnResets := by
  unfold Obligations.OwnResets
  refine ⟨fun pairB s ha hd => ?_, fun s code => State.sendFailure_outs code,
    fun w s t ha hd => exec_composeOverrun_of_due hd ha, fun w s t ha hd => exec_composeOverrun_of_composing hd ha,
    fun tree s ts ha hd => exec_treeOverrun_of_unit hd ha, fun lane s l t ha hd => exec_laneOverrun_of_unit hd ha, fun s d unit cause => ?_⟩
  · intro u fail
    have hreset : fail = s.lockstepReset pairB := rfl
    rw [hreset]
    exact ⟨exec_lockstep_of_first ha hd, fun t => exec_lockstep_of_second ha hd⟩
  · rw [State.ownReset]

end Sys2Proof.Machine
end

section
/-! SUPPORT. What a step keeps of the ring memory (R428). -/

namespace Sys2Proof.Machine

/-- A step keeps canonical memory: it runs the front command on a state of the same memory, or lets a tick pass. -/
theorem memory_wf_of_step {s t : State} (hm : Memory.wf s.mem = true) (e : step s = .next t) : Memory.wf t.mem = true := by
  cases hp : s.pending with
  | nil =>
    rw [step_of_idle hp] at e
    cases e
    obtain ⟨⟨-, hmem⟩, -⟩ := State.tick_based s (Based.refl s)
    exact hmem hm
  | cons c rest =>
    rw [step_of_pending hp] at e
    obtain ⟨-, hmem⟩ := exec_based e
    exact hmem hm

/-- Settles O3: every command keeps canonical memory, and so does a tick. -/
theorem ringMemoryStaysCanonical : Obligations.RingMemoryStaysCanonical := by
  unfold Obligations.RingMemoryStaysCanonical
  exact fun s t => memory_wf_of_step

end Sys2Proof.Machine
end

section
/-! SUPPORT. Events, counts and condition reports: the place of an entry in its ring, and what each notice leaves (R395, R399, R402, R405, R406). -/

namespace Sys2Proof.Memory

/-- Each byte written is read at its place. -/
theorem read_writeBytes_at {m : Memory} (h : wf m = true) (a : Nat) (bs : List Byte) (i : Nat) (hi : i < bs.length) :
    read (writeBytes m a bs) (a + i) = Bytes.nth bs i 0 := by
  induction bs generalizing m a i with
  | nil => exact absurd hi (Nat.not_lt_zero i)
  | cons b bs ih =>
    cases i with
    | zero => rw [writeBytes, read_writeBytes_other (write_wf h a b) _ _ _ (.inl (by omega)), read_write h, if_pos (by omega)]; rfl
    | succ i =>
      have hstep : a + (i + 1) = a + 1 + i := by omega
      rw [writeBytes, hstep, ih (write_wf h a b) (a + 1) i (Nat.lt_of_succ_lt_succ hi)]
      rfl

end Sys2Proof.Memory

namespace Sys2Proof.Machine

open Sys2Proof.Bytes

/-! ## The counts of the event rings (R406, R417) -/

theorem State.count_evrCount (s : State) (g i n : Nat) : (s.count g i n).cnt.evrCount = s.cnt.evrCount := by
  unfold State.count
  split <;> rfl

theorem State.tracePacket_evrCount (s : State) (kind source : Nat) (words : List W32) :
    (s.tracePacket kind source words).cnt.evrCount = s.cnt.evrCount := by
  unfold State.tracePacket
  dsimp only
  split
  · rfl
  · exact State.count_evrCount ..

/-- Trace packets leave the counts of the event rings, whatever goes before them or is dropped. -/
theorem State.trace_evrCount (s : State) (kind source : Nat) (words : List W32) :
    (s.trace kind source words).cnt.evrCount = s.cnt.evrCount := by
  have hsync (p : Prop) [Decidable p] (t : State) :
      (if p then { t with cnt := { t.cnt with trcSync := true } } else t).cnt.evrCount = t.cnt.evrCount := by
    split <;> rfl
  have hfirst (p : Prop) [Decidable p] :
      (if p then ({ s with cnt := { s.cnt with trcSync := false } }).traceSync else s).cnt.evrCount = s.cnt.evrCount := by
    split
    · exact State.tracePacket_evrCount ..
    · rfl
  unfold State.trace
  dsimp only
  rw [hsync]
  split
  · rw [State.tracePacket_evrCount, hfirst]
  · split
    · simp only [State.traceSync, State.tracePacket_evrCount]
    · exact State.count_evrCount ..

/-- An entry that reaches its ring moves the ring's count by one (R406). -/
theorem State.writeEvent_evrCount (s : State) (n : Nat) (bs : List Byte) :
    SMap.getD (s.writeEvent n bs).cnt.evrCount n 0 = SMap.getD s.cnt.evrCount n 0 + 1 := by
  have hcount : (s.writeEvent n bs).cnt.evrCount = SMap.put s.cnt.evrCount n (SMap.getD s.cnt.evrCount n 0 + 1) := by
    unfold State.writeEvent
    dsimp only
    split
    · exact State.trace_evrCount ..
    · rfl
  rw [hcount, SMap.getD, SMap.find_put, if_pos rfl]
  rfl

/-! ## Events and counts (R399, R402, R405) -/

/-- An event of a ring other than the Keeper's waits in the queue of its delay. -/
theorem State.event_of_other (s : State) {n : Nat} (hn : n ≠ 8) (code wing arg0 arg1 : Nat) :
    (s.event n code wing arg0 arg1).mem = s.mem ∧ (s.event n code wing arg0 arg1).sec = s.sec := by
  refine ⟨by rw [State.event_mem, if_neg hn], ?_⟩
  unfold State.event
  dsimp only
  rw [if_neg hn]
  rfl

/-- A count only joins the queue of the bank, where it is counted at all (R399, R400). -/
theorem State.count_eq_queue (s : State) (g i n : Nat) :
    ∃ q, s.count g i n = { s with cnt := { s.cnt with queue := s.cnt.queue ++ q } } := by
  unfold State.count
  split
  · exact ⟨_, rfl⟩
  · exact ⟨[], by rw [List.append_nil]⟩

/-! ## Condition reports (R395, R413) -/

/-- A halt writes its Keeper event and nothing else of memory. -/
theorem State.read_halt_other {s : State} (h : Memory.wf s.mem = true) {a : Nat} (ha : a < evrBase 8 ∨ evrBase 8 + 0x1000 ≤ a) :
    Memory.read s.halt.mem a = Memory.read s.mem a := by
  unfold State.halt
  split
  · rfl
  · dsimp only
    rw [State.read_event_other ?_ _ _ _ _ _ _ ha]
    exact h

theorem reportBytes_length (seq code sev unit ktime wing gal : Nat) (detail : List Nat) :
    (reportBytes seq code sev unit ktime wing gal detail).length = 64 := by
  simp [reportBytes, ofLe_length, List.length_flatMap]

/-- A report writes its 64 bytes to the condition ring, or none where the ring is full; the halt that it triggers writes to ring 8. -/
theorem State.read_report_other {s : State} (h : Memory.wf s.mem = true) (code sev unit wing gal : Nat) (detail : List Nat) {a : Nat}
    (hcns : a < 0x600000 ∨ 0x610000 ≤ a) (hevr : a < evrBase 8 ∨ evrBase 8 + 0x1000 ≤ a) :
    Memory.read (s.report code sev unit wing gal detail).mem a = Memory.read s.mem a := by
  have hplace : s.logs.cnsPi.toNat % 1024 < 1024 := Nat.mod_lt _ (by decide)
  have hhalt (p : Prop) [Decidable p] {t : State} (ht : Memory.wf t.mem = true) :
      Memory.read (if p then t.halt else t).mem a = Memory.read t.mem a := by
    split
    · exact State.read_halt_other ht hevr
    · rfl
  unfold State.report
  dsimp only
  split
  case isTrue =>
    have hmem (p : Prop) [Decidable p] (t : State) : ((if p then t.mark 26 else t).count 6 16 1).mem = t.mem := by
      rw [State.count_mem]
      split <;> rfl
    rw [hhalt _ (by rw [hmem]; exact h), hmem]
  case isFalse =>
    have hmem (t : State) (k : Nat) : (((t.event 9 0x60 k code s.logs.reportSeq.toNat).count 6 15 1).raiseVec 12).mem = t.mem := by
      rw [State.raiseVec_mem, State.count_mem, State.event_mem, if_neg (by decide)]
    rw [hhalt _ (by rw [hmem]; exact Memory.writeBytes_wf h _ _), hmem]
    refine Memory.read_writeBytes_other h _ _ _ ?_
    rw [reportBytes_length]
    omega

/-- Settles O59: an event by its ring, an entry by its place, a count by the queue, a report by whether its ring is full. -/
theorem noticesTouchOnlyTheirRings : Obligations.NoticesTouchOnlyTheirRings := by
  unfold Obligations.NoticesTouchOnlyTheirRings
  refine ⟨fun s n code wing arg0 arg1 hm => ?_, fun s n bs hm hl => ?_, State.count_eq_queue, fun s code sev unit wing gal detail hm => ?_⟩
  · exact ⟨fun hn => s.event_of_other hn _ _ _ _, State.read_event_other hm _ _ _ _ _, by simp⟩
  · refine ⟨fun i hi => ?_, fun a ha => ?_, s.writeEvent_evrCount n bs, by simp⟩
    · rw [State.writeEvent_mem]
      exact Memory.read_writeBytes_at hm _ bs i (hl ▸ hi)
    · rw [State.writeEvent_mem]
      exact Memory.read_writeBytes_other hm _ bs a (hl ▸ ha)
  · exact ⟨fun a => State.read_report_other hm _ _ _ _ _ _, by simp⟩

end Sys2Proof.Machine
end

section
/-! SUPPORT. The maintenance and observation commands, each as its body behind the checks of its packet (R387, R390, R396, R401, R402, R404, R409, R410, R412, R421). -/

namespace Sys2Proof.Machine

open Sys2Proof.Safety Sys2Proof.Bytes

/-! ## Maintenance (R387, R390, R396, R421) -/

section
variable {ring : Fin 8} {s u : State} {c : Cmd}

theorem exec_ledgerCheckpoint_of_free (h : Clear 0x52 noPayload ring s c u) (hfree : u.conflict 2 255 = none) :
    exec (.ledgerCheckpoint ring) s = .next (answered c u { state := u.checkpoint 2 (some u.rings.applySeq), status := stPending }) := by
  rw [exec_of_clear h rfl]
  simp only [hfree]

theorem exec_ledgerCheckpoint_of_conflict {k : Nat} (h : Clear 0x52 noPayload ring s c u) (hbusy : u.conflict 2 255 = some k) :
    exec (.ledgerCheckpoint ring) s = .next (answered c u (.busy u k)) := by
  rw [exec_of_clear h rfl]
  simp only [hbusy]

/-- No other retirement runs: the region's next spare takes the row, if one is left (R390). -/
theorem exec_retireRow_of_free (h : Clear 0x55 retireLayout ring s c u) (hfree : u.conflict 8 (field c.payload 0 2) = none) :
    let region := field c.payload 0 2
    let spare := SMap.getD u.integ.sparesUsed region 0
    exec (.retireRow ring) s = .next (answered c u (
      if Config.regionSpares u.kpr.size region ≤ spare then .refuse u stNoSpare
      else { state := { u with maint := { u.maint with retire := some (region, field c.payload 4 4, spare) } }.startActivity
               8 region (some u.rings.applySeq) 0
             status := stPending })) := by
  rw [exec_of_clear h rfl]
  simp only [hfree]

end

/-- Settles O23: SCRUB_WAKE is its body, the other two by whether an activity refuses them. -/
theorem maintenanceActivities : Obligations.MaintenanceActivities := by
  unfold Obligations.MaintenanceActivities
  refine ⟨fun ring s u c h => ?_, fun ring s u c h => ⟨exec_ledgerCheckpoint_of_free h, fun k => exec_ledgerCheckpoint_of_conflict h⟩,
    fun ring s u c h => exec_retireRow_of_free h⟩
  rw [exec_of_clear h rfl]

/-! ## Observation (R401, R402, R404, R409, R410, R412) -/

/-- An operation for each of several delay classes joins the bank's queue in their order. -/
theorem State.foldl_bank (u : State) (op : Nat → BankOp) (ds : List Nat) :
    ds.foldl (fun t d => t.bank d (op d)) u = { u with cnt := { u.cnt with
      queue := u.cnt.queue ++ ds.map fun d => { event := u.now, due := u.now + d, op := op d } } } := by
  induction ds generalizing u with
  | nil => rw [List.map_nil, List.append_nil]; rfl
  | cons d ds ih =>
    rw [List.foldl_cons, ih, List.map_cons, List.append_cons]
    rfl

/-- Settles O25: each command is its body; the reset of a group is queued class by class. -/
theorem observationCommands : Obligations.ObservationCommands := by
  unfold Obligations.ObservationCommands
  refine ⟨fun ring s u c h => ?snapshot, fun ring s u c h => ?counterReset, fun ring s u c h => ?daybookCtrl, fun ring s u c h => ?freeze,
    fun ring s u c h => ?thaw⟩
  case snapshot =>
    rw [exec_of_clear h rfl]
    simp only [State.armSnapshot, Option.getD_some]
  case counterReset => rw [exec_of_clear h rfl, State.foldl_bank]
  all_goals rw [exec_of_clear h rfl]

end Sys2Proof.Machine
end

section
/-! SUPPORT. The scrub of the SRAM regions: a codeword in its domain's lap, a late lap, and the end of a scrub wake (R383, R386 to R389, R391). -/

namespace Sys2Proof.Machine

open Sys2Proof.Bytes

/-! ## One codeword (R383, R386) -/

section
variable {region row cw : Nat} {word : List Byte} {s : State}

/-- What the codeword's decoding makes of the state: a clean one nothing, the others their count or report. -/
def State.scrubbed (s : State) (region row cw : Nat) (word : List Byte) : State :=
  match (if s.byteMode region then byteModeRead word else s35Read word) with
  | .clean => s
  | .corrected _ => s.corrected region row cw
  | .uncorrectable => s.uncorrectable region row cw

/-- A word out of turn is not read (R386). -/
theorem exec_scrubCodeword_of_outOfTurn (hturn : s.lapPlace region row cw ≠ SMap.getD s.integ.lapDone (regionDomain region) 0) :
    exec (.scrubCodeword region row cw word) s = .next s := by
  refine if_neg ?_
  rw [decide_eq_false hturn, Bool.and_false]
  exact Bool.false_ne_true

/-- The word that is due is read, and the lap moves past it, to its end with its last one. -/
theorem exec_scrubCodeword_of_due (hready : s.kpr.ready = true) (hd : s.dead = false) (hscrubs : s.scrubs (regionDomain region) = true)
    (hregion : region < 10) (hrow : row < Config.regionRows s.kpr.size region) (hcw : cw < 64)
    (hlength : word.length = if s.byteMode region then 64 else 35)
    (hturn : s.lapPlace region row cw = SMap.getD s.integ.lapDone (regionDomain region) 0) :
    exec (.scrubCodeword region row cw word) s =
      let d := regionDomain region
      let u := s.scrubbed region row cw word
      let v := { u with integ := { u.integ with lapDone := SMap.put u.integ.lapDone d (s.lapPlace region row cw + 1) } }
      .next (if s.lapPlace region row cw + 1 = s.domainWords d then v.lapDone d else v) := by
  refine if_pos ?_
  simp [hready, hd, hscrubs, hregion, hrow, hcw, hlength, hturn]

end

/-! ## Scrub wakes (R386, R387) -/

section
variable {dom : Dom} {s : State} (hd : s.dead = false)
include hd

/-- A lap 7/8 of its time old starts a scrub wake and is reported. -/
theorem exec_lapLate_of_late (hready : s.kpr.ready = true) (hwords : s.domainWords (scrubIndex dom) ≠ 0)
    (hnew : s.integ.scrubWake.contains (scrubIndex dom) = false) (hlate : s.lapStart (scrubIndex dom) + s.lapLimit * 7 / 8 ≤ s.now) :
    exec (.lapLate dom) s = .next ((s.startScrub [dom] none).report 0x0014 0 0x09 255 255
      [domBit dom, SMap.getD s.integ.lapDone (scrubIndex dom) 0]) := by
  refine if_pos ?_
  rw [hready, hd, hnew, decide_eq_true hwords, decide_eq_true hlate]
  rfl

/-- A domain whose lap is through leaves the scrub wake, and the last one ends the activity. -/
theorem exec_scrubWakeDone_of_through (hthrough : s.integ.scrubWake.contains (scrubIndex dom + 8) = true) (hruns : s.runs 1 none = true) :
    let left := s.integ.scrubWake.filter (· != scrubIndex dom + 8)
    let u := { s with integ := { s.integ with scrubWake := left } }
    exec (.scrubWakeDone dom) s = .next (if left = [] then u.endActivity 1 255 stOk else u) := by
  intro left u
  have hrunning : u.runs 1 none = true := hruns
  have hlast : (left.isEmpty && u.runs 1 none) = true ↔ left = [] := by simp [hrunning]
  change execScrubWakeDone dom s = _
  simp only [execScrubWakeDone, hd, Bool.false_eq_true, if_false, if_pos hthrough]
  exact congrArg _ (if_congr hlast rfl rfl)

end

/-- Settles O54: a codeword by whether it is due, a lap by its age, a scrub wake by the domains it has left. -/
theorem scrubbingGoesThroughItsLap : Obligations.ScrubbingGoesThroughItsLap := by
  unfold Obligations.ScrubbingGoesThroughItsLap
  exact ⟨fun region row cw word s hready hd hscrubs hregion hrow hcw hlength =>
      ⟨exec_scrubCodeword_of_due hready hd hscrubs hregion hrow hcw hlength, exec_scrubCodeword_of_outOfTurn⟩,
    fun dom s hready hd => exec_lapLate_of_late hd hready, fun dom s hd => exec_scrubWakeDone_of_through hd⟩

end Sys2Proof.Machine
end

section
/-! SUPPORT. The test wrapper: an instruction taken where the bypass stands, and one that is left (R67, R444, R445). -/

namespace Sys2Proof.Machine

/-! ## Taking an instruction (R444) -/

section
variable {s : State} (h : s.kpr.wrapper = 0)
include h

/-- Where the bypass stands, leaving it only puts the instruction's number away. -/
theorem State.leaveWrapper_of_bypass : s.leaveWrapper = { s with kpr := { s.kpr with wrapper := 0 } } := by
  have hdisturbs : s.wrapperDisturbs = false := by
    unfold State.wrapperDisturbs
    rw [h]
    rfl
  unfold State.leaveWrapper
  dsimp only
  rw [hdisturbs, Bool.false_and, if_neg Bool.false_ne_true]

/-- An instruction that is permitted is put in the bypass's place. -/
theorem State.wrapperTo_of_permitted {code : Nat} (hcode : code ≠ 0) (hp : s.wrapperPermits code = true) :
    s.wrapperTo code = State.emit { s with kpr := { s.kpr with wrapper := code } } (.wrapper code) := by
  unfold State.wrapperTo
  dsimp only
  rw [if_pos hp, h, if_neg hcode.symm, State.leaveWrapper_of_bypass h]

/-- One that is not, and the bypass itself, leave the bypass. -/
theorem State.wrapperTo_of_bypass {code : Nat} (hp : s.wrapperPermits code = true → code = 0) :
    s.wrapperTo code = s.emit (.wrapper 0) := by
  have hk : (if s.wrapperPermits code then code else 0) = 0 := by
    split
    case isTrue hc => exact hp hc
    case isFalse => rfl
  unfold State.wrapperTo
  dsimp only
  rw [hk, if_pos h]

/-- A test instruction by whether it is permitted. -/
theorem State.wrapperTo_eq_ite {code : Nat} {p : Prop} [Decidable p] (hcode : code ≠ 0) (hp : s.wrapperPermits code = true ↔ p) :
    s.wrapperTo code = if p then State.emit { s with kpr := { s.kpr with wrapper := code } } (.wrapper code) else s.emit (.wrapper 0) := by
  split
  case isTrue hc => exact State.wrapperTo_of_permitted h hcode (hp.mpr hc)
  case isFalse hc => exact State.wrapperTo_of_bypass h fun hpermits => absurd (hp.mp hpermits) hc

/-- An instruction that is not in force cannot be left. -/
theorem State.wrapperOff_of_bypass {code : Nat} (hcode : code ≠ 0) : s.wrapperOff code = s := by
  unfold State.wrapperOff
  rw [h, if_neg hcode.symm]

end

/-! ## Leaving an instruction (R67, R445) -/

/-- A test instruction that is left resets the block, where no reset pin is low. -/
theorem State.wrapperOff_of_inForce {s : State} {code : Nat} (h : s.kpr.wrapper = code) (hlow : 1 ≤ code) (hhigh : code ≤ 3) :
    let u : State := { s with kpr := { s.kpr with wrapper := 0 } }
    s.wrapperOff code = (if s.resetLow = true then u else u.internalReset 2).emit (.wrapper 0) := by
  intro u
  have hdisturbs : s.wrapperDisturbs = true := by
    unfold State.wrapperDisturbs
    rw [h, decide_eq_true hlow, decide_eq_true hhigh]
    rfl
  have hleave : s.leaveWrapper = if s.resetLow = true then u else u.internalReset 2 := by
    unfold State.leaveWrapper
    dsimp only
    rw [hdisturbs, Bool.true_and]
    cases s.resetLow <;> rfl
  unfold State.wrapperOff
  rw [if_pos h, hleave]

/-- Settles O58: an instruction by whether it is permitted where the bypass stands, and by whether it is the one that is left. -/
theorem wrapperInstructions : Obligations.WrapperInstructions := by
  unfold Obligations.WrapperInstructions
  refine ⟨fun s h => ⟨?bypass, ?extest, ?intest, ?mbist, ?extestLeft, ?intestLeft, ?mbistLeft⟩, fun s => ⟨fun h => ?_, fun h => ?_, fun h => ?_⟩,
    fun s h => ?status⟩
  case bypass => exact congrArg _ (State.wrapperTo_of_bypass h fun _ => rfl)
  case extest => exact congrArg _ (State.wrapperTo_eq_ite h (code := 1) (by decide) (by simp [State.wrapperPermits]))
  case intest => exact congrArg _ (State.wrapperTo_eq_ite h (code := 2) (by decide) (by simp [State.wrapperPermits]))
  case mbist => exact congrArg _ (State.wrapperTo_eq_ite h (code := 3) (by decide) (by simp [State.wrapperPermits]))
  case extestLeft => exact congrArg _ (State.wrapperOff_of_bypass h (by decide))
  case intestLeft => exact congrArg _ (State.wrapperOff_of_bypass h (by decide))
  case mbistLeft => exact congrArg _ (State.wrapperOff_of_bypass h (by decide))
  case status =>
    have hto := State.wrapperTo_of_permitted h (code := 4) (by decide) rfl
    exact congrArg (fun t : State => Host.Outcome.next (t.emit (.wrapper s.wrapperStatus))) hto
  all_goals exact congrArg _ (State.wrapperOff_of_inForce h (by decide) (by decide))

end Sys2Proof.Machine
end
